-- ==== Sys2Proof/Word.lean ====
section
/-!
DEFINITION. The word types of the HG3-M768 and their plainest arithmetic (R12, R15, R166).
-/
namespace Sys2Proof

/-- A 64-bit scalar register or code word. -/
abbrev Word := BitVec 64
/-- One byte of memory. -/
abbrev Byte := BitVec 8

/-- Wrap64 of an unbounded integer (R15). -/
def wrap64 (i : Int) : Word := BitVec.ofInt 64 i

/-- SX(v, n) of R166 for a payload already cut to its width. -/
def sx {n : Nat} (v : BitVec n) : Word := v.signExtend 64

/-- ZX(v, n) of R166 for a payload already cut to its width. -/
def zx {n : Nat} (v : BitVec n) : Word := v.setWidth 64

/-- 1 or 0, as the comparison instructions write it (R168). -/
def boolWord (b : Bool) : Word := if b then 1 else 0

/-- 1 or 0 as a number, for packing a flag into a field. -/
def b2n (b : Bool) : Nat := if b then 1 else 0

end Sys2Proof
end

