-- ==== Sys2Proof/Config.lean ====
section
/-!
DEFINITION. What the part or its firmware fixes, and the free values: results the manual leaves open. A free value is an
opaque constant, so nothing can be proved of its value (log 1, log 6).
-/
namespace Sys2Proof.Config

/-- A free value: the n-th one a run needs (State.freeCtr counts them). R441 (key material), R453 (a byte of a retired block). -/
opaque freeByte : Nat → Byte

/-- R109: byte i of the decryption, under reading key material (0: none, else material + 1), of the 64-byte unit with this number
that holds data encrypted under the writing material. -/
opaque noise (unit wkey rkey data i : Nat) : Byte

/-- R335: silicon stepping (less 1) and metal revision of the part, and the microcode revision in the header of a firmware image. -/
opaque stepping : Nat
opaque metal : Nat
opaque microcode : List Byte → Nat

/-- R335: leaf 1 before masking, while a firmware image runs: [31:16] 0, a stepping of at least 1, the metal revision, and the microcode
revision of that image. -/
def leaf1 (image : List Byte) : Word := BitVec.ofNat 64 (microcode image % 2 ^ 32 * 2 ^ 32 + (stepping % 255 + 1) * 256 + metal % 256)

/-- R349, R365: where the loader has placed the code of the pricking with a handle (a package physical address, mapped into no
context). -/
opaque prickPlace : Nat → Nat

/-- R365, R445: the chip serial and the identity public key for an SVN. -/
opaque chipSerial : Word
opaque identityKey : Nat → List Byte

/-- R443: the key material that another package holds in the slot of a key id. -/
opaque remoteSlot (pkg key : Nat) : Nat

/-- R102: this package's own id. DESIGN CHOICE (log 6): 0. -/
def packageId : Nat := 0

/-- R427: whether another package (or endpoint) grants an access: package, tenant class, address, write. -/
opaque remoteGrants : Nat → Nat → Nat → Bool → Bool

/-- R183: whether an endpoint exports atomics. -/
opaque endpointAtomics : Nat → Bool

/-- R400: whether a package id names a package of the domain. -/
opaque inDomain : Nat → Bool

/-- R444, R457: whether a firmware image's ECDSA P-521 signature verifies under the vendor key, and its SVN. -/
opaque fwVerifies : List Byte → Bool
opaque fwSvn : List Byte → Nat

/-- R447: byte i of the ECDSA signature over the report bytes, by the identity key of an SVN. -/
opaque sign (svn : Nat) (report : List Byte) (i : Nat) : Byte

/-- R441, R443: the wrapped blob of a key material for a peer identity, and what a blob wrapped to this package opens to. -/
opaque wrapKey : Nat → List Byte → List Byte
opaque unwrapKey : List Byte → Option Nat

/-- R444: the firmware image in flash at reset (both copies), as bytes. -/
opaque flashImage : List Byte

/-- R329, R330: bytes of one entry of an image's relocation table, which the manual does not give. -/
opaque relocBytes : Nat

/-- R329, R331: bytes of one entry of an image's symbol table; and what the bytes of a relocation entry say, as resolved against an image:
kind (0 WORD29, 1 BYTE29, 2 ABS64, 3 LINK64), section and byte offset of the field, and section (above 6: none, an absolute address)
and offset of the target: the manual gives the layout of neither table (log 70). -/
opaque symBytes : Nat
opaque relocEntry : List Byte → List Byte → Nat × Nat × Nat × Nat × Nat

/-- R453: whether spare storage is left for a retirement, by how many blocks were retired before; and whether 16 errors were corrected in
a block within 24 hours, by the count of free values and the block. -/
opaque hasSpare : Nat → Bool
opaque worn : Nat → Nat → Bool

/-- R455: whether a cluster-cache line of a fenced die cannot be read, by the count of free values and the line. -/
opaque lineLost : Nat → Nat → Bool

/-- R455: the cluster and the line that its cache writes back to far memory in a cycle, by the count of free values (log 66). -/
opaque writesBack : Nat → Nat × Nat

/-- R451: what has become uncorrectable in a cycle, by the count of free values: structure code, place, number (0: nothing). Log 29. -/
opaque decay : Nat → Nat × Nat × Nat

/-- R449, R451: how many errors of a structure were corrected (or flits resent) in a cycle, and whether a core's vault reads waited on
refresh or admission in it; by the count of free values, then the structure or the core (log 29). -/
opaque corrections : Nat → Nat → Nat
opaque vaultStall : Nat → Nat → Bool

/-- Which of the steps that the machine could take next it takes (log 45): the manual orders the engines, the store buffers, the
command front end and the strands only where its rules say so. -/
opaque choice : Nat → Nat

/-- R134: the routers (core numbers) to which the controller of a far-memory address and the port toward a package are attached,
which are not architectural. DESIGN CHOICE (log 11): 32 devices, 4 KiB in turn, on the west and east edges; 18 ports on the north
edge. -/
def farRouter (pa : Nat) : Nat := let d := pa / 4096 % 32; (d % 16 + 4) * 32 + (if d < 16 then 0 else 31)
def portRouter (pkg : Nat) : Nat := pkg % 18 + 7

/-- R144: how many frames ahead the fabric manager announces a new span table's first frame, by the count of free values. -/
opaque announced : Nat → Nat

/-- Bytes of a cluster-cache line, which the manual does not give. DESIGN CHOICE (log 21): 64, the block of the race model. -/
def lineBytes : Nat := 64

/-- Lines of a cluster cache: 16 MiB (Table 0.1). -/
def cacheLines : Nat := 16 * 2 ^ 20 / lineBytes

/-- R2, R357: which line of a full cluster cache gives way, by the time and the line that enters (log 21). -/
opaque evicts : Nat → Nat → Nat

end Sys2Proof.Config
end

