-- ==== Sys2Proof/Machine/Maps.lean ====
section
/-!
DEFINITION. Sparse tables as association lists in ONE canonical form: keys strictly rising. Equal tables are equal lists.
Memory is the table of bytes whose unlisted addresses read 0 (log 2), with no entry holding 0.
-/
namespace Sys2Proof.Machine

/-- A sparse table keyed by numbers. -/
abbrev Map (α : Type) := List (Nat × α)

def Map.get? {α : Type} : Map α → Nat → Option α
  | [], _ => none
  | (k, v) :: m, i => if i = k then some v else if i < k then none else Map.get? m i

def Map.getD {α : Type} (m : Map α) (i : Nat) (d : α) : α := (Map.get? m i).getD d

def Map.set {α : Type} : Map α → Nat → α → Map α
  | [], i, v => [(i, v)]
  | (k, w) :: m, i, v =>
    if i = k then (i, v) :: m else if i < k then (i, v) :: (k, w) :: m else (k, w) :: Map.set m i v

def Map.erase {α : Type} : Map α → Nat → Map α
  | [], _ => []
  | (k, w) :: m, i => if i = k then m else if i < k then (k, w) :: m else (k, w) :: Map.erase m i

/-- Every key of m lies above b. -/
def Map.above {α : Type} (b : Nat) : Map α → Bool
  | [] => true
  | (k, _) :: m => decide (b < k) && Map.above k m

/-- Keys strictly rise. -/
def Map.sorted {α : Type} : Map α → Bool
  | [] => true
  | (k, _) :: m => Map.above k m

/-- Bytes of memory by address. -/
abbrev Memory := Map Byte

/-- What an unlisted address reads as (log 2). -/
def Memory.background : Byte := 0

def Memory.read (m : Memory) (a : Nat) : Byte := Map.getD m a Memory.background

def Memory.write (m : Memory) (a : Nat) (b : Byte) : Memory :=
  if b = Memory.background then Map.erase m a else Map.set m a b

/-- The canonical form of memory. -/
def Memory.wf (m : Memory) : Bool := Map.sorted m && m.all (fun c => decide (c.2 ≠ Memory.background))

def Memory.readN (m : Memory) (a : Nat) : Nat → List Byte
  | 0 => []
  | n + 1 => Memory.read m a :: Memory.readN m (a + 1) n

def Memory.writeN (m : Memory) (a : Nat) : List Byte → Memory
  | [] => m
  | b :: bs => Memory.writeN (Memory.write m a b) (a + 1) bs

/-- Removes every entry in [a, a + n): those bytes read as the background (R110, R435). -/
def Memory.clear (m : Memory) (a n : Nat) : Memory := m.filter (fun c => decide (c.1 < a ∨ a + n ≤ c.1))

/-- A number enters a rising list; a list in rising order. -/
def insertNat (n : Nat) : List Nat → List Nat
  | [] => [n]
  | m :: ms => if n ≤ m then n :: m :: ms else m :: insertNat n ms
def sortNat (l : List Nat) : List Nat := l.foldr insertNat []

/-- Little-endian value of bytes (R12). -/
def leNat : List Byte → Nat
  | [] => 0
  | b :: bs => b.toNat + 256 * leNat bs

/-- n little-endian bytes of a number (R12). -/
def leBytes : Nat → Nat → List Byte
  | 0, _ => []
  | n + 1, v => BitVec.ofNat 8 v :: leBytes n (v / 256)

/-- Bits [hi:lo] of a number. -/
def bits (v hi lo : Nat) : Nat := v / 2 ^ lo % 2 ^ (hi + 1 - lo)

/-- The number v with bits [hi:lo] replaced by x. -/
def putBits (v hi lo x : Nat) : Nat :=
  v - bits v hi lo * 2 ^ lo + x % 2 ^ (hi + 1 - lo) * 2 ^ lo

/-- The value of an n-bit pattern read as two's complement. -/
def sintOf (n v : Nat) : Int := if v % 2 ^ n < 2 ^ (n - 1) then (v % 2 ^ n : Nat) else (v % 2 ^ n : Nat) - (2 ^ n : Nat)

/-- The n-bit two's complement pattern of an integer. -/
def patOf (n : Nat) (i : Int) : Nat := (i % (2 ^ n : Nat)).toNat

end Sys2Proof.Machine
end

