-- ==== Sys2Proof/Syntax.lean ====
section
/-!
DEFINITION. The instructions, pair halves, advice instructions, commands and events of spec/opcode_table.json: one
constructor of Instr per row. Operand records group the fields that one encoding layout shares (Tables 6.2, 7.4, 7.6,
8.1, 8.5, 9.4, 9.6, 9.7, 10.2). Nothing here says what an instruction does.
-/
namespace Sys2Proof

/-- s0–s63 (Table 6.3). -/
abbrev SReg := Fin 64
/-- v0–v31 (Table 6.3). -/
abbrev VNum := Fin 32
/-- m0–m15 (Table 6.3); as a predicate, 0 means unpredicated (R45). -/
abbrev MReg := Fin 16
/-- acc0, acc1 (Table 6.3). -/
abbrev Acc := Fin 2
/-- h0–h15 of the advice sequencer (R348). -/
abbrev HReg := Fin 16
/-- s0–s31 or v0–v31 as a half names them (R158). -/
abbrev HalfReg := Fin 32

/-- Where the packets of an instruction take their slack (R136, R155, R156): a class 0–7 of a full word, or the literal
of an extended form. The literal form IS the extended pair. -/
inductive Slack
  | cls (n : Fin 8)
  | lit (units : BitVec 12)
deriving DecidableEq, Repr

/-- A B operand of class S-or-V (R462). -/
inductive BSrc
  | s (r : SReg)
  | v (r : VNum)
deriving DecidableEq, Repr

/-- A neighbour modifier (R64, Table 8.1): plain, .L or .R. -/
inductive Nbr
  | plain
  | left
  | right
deriving DecidableEq, Repr

/-- The operands and FN fields of Table 8.1; D is the class of the destination. -/
structure VOpG (D : Type) where
  d : D
  a : VNum
  b : BSrc
  p : MReg
  ca : Bool
  cb : Bool
  fmt : Fin 64
  ar : Fin 4
  rnd : Fin 8
  na : Nbr
  nb : Nbr
  xf : Fin 128
deriving DecidableEq, Repr

abbrev VOp := VOpG VNum
/-- Destination a mask (VCMP). -/
abbrev VMaskOp := VOpG MReg
/-- Destination a scalar (VRED). -/
abbrev VScalOp := VOpG SReg

/-- LD, ST, LDA, STL (Table 7.6). In the extended form disp is XOP, else DISP13, sign-extended here to 50 bits. -/
structure MemOp where
  d : SReg
  a : SReg
  b : SReg
  sp : Fin 4
  loc : Bool
  scope : Fin 8
  w : Fin 4
  x : Bool
  disp : BitVec 50
  slk : Slack
deriving DecidableEq, Repr

/-- AMO, AMOX, CAS (Table 7.6); AMO has d = 0. -/
structure AtomOp where
  d : SReg
  a : SReg
  b : SReg
  sp : Fin 4
  loc : Bool
  scope : Fin 8
  w : Fin 4
  ord : Fin 4
  aop : Fin 16
  disp : BitVec 50
  slk : Slack
deriving DecidableEq, Repr

/-- WAIT (Table 7.6). -/
structure WaitOp where
  d : SReg
  a : SReg
  b : SReg
  sp : Fin 4
  loc : Bool
  scope : Fin 8
  w : Fin 4
  cond : Fin 8
  sl : Fin 8
deriving DecidableEq, Repr

/-- The vector memory instructions (Table 8.5); d is the stored group of a store, b the index vector or stride. -/
structure VMem where
  d : VNum
  a : SReg
  b : BSrc
  p : MReg
  cb : Bool
  sp : Fin 4
  loc : Bool
  scope : Fin 8
  fmt : Fin 64
  ar : Fin 4
  acq : Bool
  disp : BitVec 50
  slk : Slack
deriving DecidableEq, Repr

/-- MLD and MLDP (Table 9.6). -/
structure MldOp where
  d : VNum
  a : SReg
  b : SReg
  fmt : Fin 64
  ar : Fin 4
  alg : Fin 4
  dir : Bool
  loc : Bool
  slk : Slack
deriving DecidableEq, Repr

/-- MOP and MOPS (Table 9.4). -/
structure MopOp where
  acc : Acc
  a : VNum
  b : VNum
  ca : Bool
  cb : Bool
  fmta : Fin 64
  fmtb : Fin 64
  ar : Fin 4
deriving DecidableEq, Repr

/-- MDRAIN (Table 9.7). -/
structure DrainOp where
  d : VNum
  acc : Acc
  b : SReg
  t : Fin 32
  fa : Fin 32
  fb : Fin 32
  rnd : Fin 8
  ar : Fin 4
  alg : Fin 4
deriving DecidableEq, Repr

/-- MFILL (Table 9.7). -/
structure FillOp where
  acc : Acc
  a : VNum
  b : SReg
  ca : Bool
  src : Fin 32
  ar : Fin 4
deriving DecidableEq, Repr

/-- The fields of COPY, and of an extended SEQGO (Table 10.2). Lengths stand as encoded, minus 1. -/
structure XferOp where
  ssp : Fin 4
  sloc : Bool
  dsp : Fin 4
  dloc : Bool
  breg : SReg
  bloc : Bool
  rlenM1 : BitVec 22
  nrowM1 : BitVec 16
  tag : Fin 64
  te : Bool
  be : Bool
  cm : MReg
  slit : BitVec 12
deriving DecidableEq, Repr

/-- The two forms of SEQGO (R290). -/
inductive SeqgoForm
  | full (sl : Fin 8)
  | ext (ordered : Bool) (x : XferOp)
deriving DecidableEq, Repr

/-- VBIND (R242). -/
structure BindOp where
  d : VNum
  a : SReg
  b : SReg
  sp : Fin 4
  loc : Bool
  dir : Bool
  fmt : Fin 64
  ar : Fin 4
  clenM1 : BitVec 12
  count : BitVec 36
  slit : BitVec 12
deriving DecidableEq, Repr

/-- The send form of MCAST (R293). -/
structure McastOp where
  d : VNum
  a : SReg
  b : SReg
  sp : Fin 4
  loc : Bool
  fmt : Fin 64
  ar : Fin 4
  disp : BitVec 50
  slk : Slack
deriving DecidableEq, Repr

/-- COLL (R297); count is XOP[39:0] of the extended form, 0 in a full word. -/
structure CollOp where
  d : SReg
  a : SReg
  b : SReg
  kind : Fin 4
  rop : Fin 8
  fmt : Fin 64
  slot : Fin 4
  grp : BitVec 9
  count : BitVec 40
  slk : Slack
deriving DecidableEq, Repr

/-- ALGLD (R266). -/
structure AlgldOp where
  a : SReg
  n : Fin 4
  sp : Fin 4
  loc : Bool
  disp : BitVec 50
  slk : Slack
deriving DecidableEq, Repr

/-- What another package's member contributes to a collective (R297–R299): it arrives over the fabric, with the member list of that
package's group entry (R400) and the slack that it has left (R138). -/
structure Contribution where
  rank : Nat
  kind : Nat
  rop : Nat
  fmt : Nat
  n : Nat
  readable : Bool
  data : List Byte
  members : List Nat
  slack : Nat
deriving DecidableEq, Repr

/-- One constructor per row of spec/opcode_table.json. The order matters to the compiler alone: it can build objects of the first
245 constructors only, so those that the decoder and the machine build stand first. -/
inductive Instr
  -- integer register forms (R168)
  | add (d a b : SReg) | sub (d a b : SReg) | mul (d a b : SReg) | mulh (d a b : SReg) | mulhn (d a b : SReg)
  | div (d a b : SReg) | divn (d a b : SReg) | rem (d a b : SReg) | remn (d a b : SReg) | and (d a b : SReg)
  | or (d a b : SReg) | xor (d a b : SReg) | andn (d a b : SReg) | orn (d a b : SReg) | shl (d a b : SReg)
  | shr (d a b : SReg) | sra (d a b : SReg) | rol (d a b : SReg) | min (d a b : SReg) | max (d a b : SReg)
  | minn (d a b : SReg) | maxn (d a b : SReg) | seq (d a b : SReg) | sne (d a b : SReg) | slt (d a b : SReg)
  | sltn (d a b : SReg) | sge (d a b : SReg) | sgen (d a b : SReg) | csel (d a b : SReg)
  | lea (d a b : SReg) (sh : Fin 16) (disp : BitVec 18)
  -- bit instructions (R171)
  | clz (d a : SReg) | ctz (d a : SReg) | popc (d a : SReg) | brev (d a : SReg)
  | bfx (d a : SReg) (sgn : Bool) (pos lenM1 : Fin 64) | bfi (d a : SReg) (pos lenM1 : Fin 64)
  -- integer immediate forms (R172)
  | addi (d a : SReg) (imm : BitVec 29) | shlImm (d a : SReg) (imm : BitVec 29) | shrImm (d a : SReg) (imm : BitVec 29)
  | sraImm (d a : SReg) (imm : BitVec 29) | rolImm (d a : SReg) (imm : BitVec 29) | li (d : SReg) (imm : BitVec 29)
  | addpc (d : SReg) (imm : BitVec 29) | lix (d : SReg) (v : Word)
  -- scalar floating point (R173–R176)
  | fadd (d a b : SReg) (rnd fmt : Fin 8) | fsub (d a b : SReg) (rnd fmt : Fin 8) | fmul (d a b : SReg) (rnd fmt : Fin 8)
  | ffma (d a b : SReg) (rnd fmt : Fin 8) | fdiv (d a b : SReg) (rnd fmt : Fin 8) | fsqrt (d a : SReg) (rnd fmt : Fin 8)
  | fmin (d a b : SReg) (fmt : Fin 8) | fmax (d a b : SReg) (fmt : Fin 8) | fcmp (d a b : SReg) (cond fmt : Fin 8)
  | fcvt (d a : SReg) (rnd : Fin 8) (src tgt : Fin 64) | fclass (d a : SReg) (fmt : Fin 8)
  | fmv (d a : SReg) (fmt : Fin 8)
  -- control (R177, R178)
  | j (off : BitVec 29) | call (d : SReg) (off : BitVec 29) | jr (a : SReg) | callr (d a : SReg) | ret (a : SReg)
  | beq (d a : SReg) (off : BitVec 29) | bne (d a : SReg) (off : BitVec 29) | blt (d a : SReg) (off : BitVec 29)
  | bge (d a : SReg) (off : BitVec 29) | bltn (d a : SReg) (off : BitVec 29) | bgen (d a : SReg) (off : BitVec 29)
  -- loads, stores, atomics (R179–R185)
  | ld (m : MemOp) | st (m : MemOp) | lda (m : MemOp) | stl (m : MemOp) | amo (o : AtomOp) | amox (o : AtomOp)
  | cas (o : AtomOp)
  -- synchronisation (R186–R190)
  | fence (kind scope : Fin 8) | bar (scope sl : Fin 8) | wait (o : WaitOp) | mark (id : BitVec 16) (a b : SReg)
  | slk (d a : SReg) (cls : Fin 8) (set clr : Bool)
  -- system (R191–R196)
  | mfs (d : SReg) (creg : BitVec 12) | mts (a : SReg) (creg : BitVec 12) | svc (code : BitVec 16)
  | brk (code : BitVec 16) | featq (d : SReg) (leaf : Fin 64) | tlbi (a b : SReg) (kind scope : Fin 8)
  | ctxsave (d a b : SReg) (sl : Fin 8) | ctxload (d a b : SReg) (sl : Fin 8) | evack (cause : BitVec 8)
  -- vector configuration and shaped values (R206–R211)
  | vsetl (d a : SReg) (ew : Fin 8) (ar : Fin 4) | vsetg (g : Fin 4) | vtag (d a : VNum) (fmt : Fin 64) (ar alg : Fin 4)
  | vidx (d : VNum) (a b : SReg) (p : MReg) (fmt : Fin 64)
  | vbc (d : VNum) (a : SReg) (p : MReg) (fmt : Fin 64) (ar : Fin 4)
  | vmovs (d : SReg) (a : VNum) (b : SReg) (fmt : Fin 64) (ar : Fin 4)
  | vmovv (d a : VNum) (p : MReg) (ca : Bool) (fmt : Fin 64) (ar : Fin 4)
  -- elementwise arithmetic (R212–R214)
  | vadd (o : VOp) | vsub (o : VOp) | vmul (o : VOp) | vmulh (o : VOp) | vfma (o : VOp) | vfms (o : VOp) | vdiv (o : VOp)
  | vsqrt (o : VOp) | vrsq (o : VOp) | vrcp (o : VOp) | vexp2 (o : VOp) | vlog2 (o : VOp) | vmin (o : VOp)
  | vmax (o : VOp) | vabs (o : VOp) | vneg (o : VOp) | vand (o : VOp) | vor (o : VOp) | vxor (o : VOp) | vshl (o : VOp)
  | vshr (o : VOp) | vsra (o : VOp) | vclz (o : VOp) | vpopc (o : VOp) | vmwide (o : VOp) | vdot (o : VOp)
  | vcmp (o : VMaskOp) | vsel (o : VOp)
  -- across elements (R219–R224)
  | vred (o : VScalOp) | vscan (o : VOp) | vrecur (o : VOp) | vslide (o : VOp) | vperm (o : VOp) | vcompr (o : VOp)
  | vexpd (o : VOp)
  -- conversion, random bits, classes (R225–R228)
  | vcvt (o : VOp) | vcvts (o : VOp) | vrng (d : VNum) (p : MReg) (fmt : Fin 64)
  | vclass (d : MReg) (a : VNum) (p : MReg) (ca : Bool) (fmt : Fin 64) (set : BitVec 10)
  -- algebra elements (R229–R231)
  | vamul (o : VOp) | vconj (o : VOp) | vnorm (o : VOp) | varev (o : VOp)
  -- masks (R232)
  | mand (d a b : MReg) | mor (d a b : MReg) | mxor (d a b : MReg) | mandn (d a b : MReg) | mnot (d a : MReg)
  | mset (d : MReg) | mclr (d : MReg) | mpop (d : SReg) (a : MReg) | mffs (d : SReg) (a : MReg)
  | mpsum (d : VNum) (a : MReg) (fmt : Fin 64) | mmv (op : Fin 4) (d a : MReg)
  -- vector memory (R233–R243)
  | vld (o : VMem) | vlds (o : VMem) | vldx (o : VMem) | vldxf (o : VMem) (fm : MReg) | vst (o : VMem) | vsts (o : VMem)
  | vstx (o : VMem) | vscadd (o : VMem) (rnd : Fin 8) | vspill (o : VMem) | vfill (o : VMem) | vbind (o : BindOp)
  | vunbind (d : VNum) | vlda (o : VMem) | vstl (o : VMem)
  -- matrix unit (R246–R266)
  | mmodeEnter (tmask xm : Fin 4) | tshape (d a b : SReg) (fmt : Fin 64) (ar : Fin 4) | mzero (acc : Acc)
  | mop (o : MopOp) | mops (o : MopOp) (mk : MReg) | mld (o : MldOp) | mldp (o : MldOp) | mdrain (o : DrainOp)
  | mfill (o : FillOp) | mstat (d : SReg) (acc : Acc) (clr : Bool) | mscl (acc : Acc) (a : SReg) | algld (o : AlgldOp)
  -- engines (R271–R303)
  | copy (d a b : SReg) (x : XferOp) | seqLevelWrite (a b : SReg) (level slot : Fin 8) (countM1 : BitVec 32)
  | seqgo (d a b : SReg) (slot : Fin 8) (f : SeqgoForm) | seqstop (slot : Fin 8) | ctwall (a : SReg)
  | ctwany (d a : SReg) | ctffr (d a : SReg) | ctclr (a : SReg) | ctst (d a : SReg)
  | binit (a b : SReg) (loc : Bool) (sl : Fin 8) | barr (d a b : SReg) (loc : Bool) (sl : Fin 8)
  | bwait (d a b : SReg) (loc : Bool) (scope sl : Fin 8) | btry (d a b : SReg) (loc : Bool) (sl : Fin 8)
  | mcastSend (o : McastOp) | mcastRecv (d : VNum) (fmt : Fin 64) (ar : Fin 4) | coll (o : CollOp) | collw (d a : SReg)
  | dgst (d : SReg) (sel : Fin 4)
  -- advice instructions (Table 15.1)
  | await (d s : HReg) (id : BitVec 16) | amark (d : HReg) (f : Fin 8) | aaddi (d s : HReg) (imm : BitVec 18)
  | aadd (d s : HReg) | ashl (d s : HReg) (r : Bool) (n : Fin 64) | aand (d s : HReg) | amul (d s : HReg)
  | apf (d s : HReg) (sp : Fin 4) (loc : Bool) | apin (d s : HReg) (cls : Fin 4) | aslk (k : Fin 8) (bias : BitVec 10)
  | aord (k : Fin 8) (prio : Fin 4) | abr (d s : HReg) (cond : Fin 8) (off : BitVec 15) | ajmp (off : BitVec 18)
  | async (k : Fin 8)
  -- events the device itself brings about (R33–R41, R137–R139, R178, R181, R187, R188, R194, R196, R243, R248, R270, R277, R287, R291, R298, R353–R356, R391–R420)
  | barRelease (vfn seq grp scope unit : Nat) | waitReread (core strand : Nat) | tlbiPerformed (core strand : Nat)
  | haltWake (core strand : Nat) | matrixModeGrant (core pid : Nat) | sequencerCopyEmit (tid : Nat)
  | tagWaitWake (core strand : Nat) | collectiveComplete (cid : Nat) (others : List Contribution)
  | eventTaken (core strand : Nat) | replyDelivery (core strand : Nat) (late consumed : Bool)
  | storePerform (core strand idx : Nat) | streamChunkFetch (core strand slot : Nat) | chunkWritten (tid : Nat)
  | transferComplete (tid : Nat) | prefetchComplete (core pid : Nat) | adviceIdleRecord (core pid : Nat)
  | awaitRecord (core pid : Nat) | dependenceMet (vfn seq : Nat) | commandStart (vfn seq : Nat)
  | rangeRequest (vfn seq unit : Nat) | groupAdmit (vfn seq unit : Nat) | launchRetire (vfn seq : Nat)
  | launchStop (vfn seq : Nat) | notificationSend (vfn queue : Nat) | timeSliceExpiry (pid : Nat)
  | preemptionComplete (pid : Nat) | restore (pid : Nat) | yieldResume (core strand : Nat)
  | packetForward (arb : Nat)
  -- instructions and events with no operands
  | nop | yield | exit | eret | halt | mmodeLeave | nopHalf | slackDecrement | spanBoundary | spanTableSwitch | aend
  | anop | doorbellWhileBusy | coldReset | warmReset | packageStop | s2invalComplete
  -- pair halves (R158–R163)
  | addHalf (d a : HalfReg) | subHalf (d a : HalfReg) | mulHalf (d a : HalfReg) | andHalf (d a : HalfReg)
  | orHalf (d a : HalfReg) | xorHalf (d a : HalfReg) | andnHalf (d a : HalfReg) | shlHalf (d a : HalfReg)
  | shrHalf (d a : HalfReg) | sraHalf (d a : HalfReg) | minHalf (d a : HalfReg) | maxHalf (d a : HalfReg)
  | minnHalf (d a : HalfReg) | maxnHalf (d a : HalfReg) | cselHalf (d a b : HalfReg)
  | addiHalf (d a : HalfReg) (imm : BitVec 14) | shlImmHalf (d a : HalfReg) (imm : BitVec 14)
  | shrImmHalf (d a : HalfReg) (imm : BitVec 14) | sraImmHalf (d a : HalfReg) (imm : BitVec 14)
  | liHalf (d : HalfReg) (imm : BitVec 14) | faddHalf (d a : HalfReg) (rnd fmt : Fin 8)
  | fsubHalf (d a : HalfReg) (rnd fmt : Fin 8) | fmulHalf (d a : HalfReg) (rnd fmt : Fin 8)
  | ffmaHalf (d a b : HalfReg) (rnd fmt : Fin 8) | fminHalf (d a : HalfReg) (rnd fmt : Fin 8)
  | fmaxHalf (d a : HalfReg) (rnd fmt : Fin 8) | ldBzHalf (d a : HalfReg) (imm : BitVec 14)
  | ldHzHalf (d a : HalfReg) (imm : BitVec 14) | ldWzHalf (d a : HalfReg) (imm : BitVec 14)
  | ldDHalf (d a : HalfReg) (imm : BitVec 14) | ldBsHalf (d a : HalfReg) (imm : BitVec 14)
  | ldHsHalf (d a : HalfReg) (imm : BitVec 14) | ldWsHalf (d a : HalfReg) (imm : BitVec 14)
  | stBHalf (d a : HalfReg) (imm : BitVec 14) | stHHalf (d a : HalfReg) (imm : BitVec 14)
  | stWHalf (d a : HalfReg) (imm : BitVec 14) | stDHalf (d a : HalfReg) (imm : BitVec 14)
  | beqHalf (d a : HalfReg) (imm : BitVec 14) | bneHalf (d a : HalfReg) (imm : BitVec 14)
  | bltHalf (d a : HalfReg) (imm : BitVec 14) | bgeHalf (d a : HalfReg) (imm : BitVec 14)
  | bltnHalf (d a : HalfReg) (imm : BitVec 14) | bgenHalf (d a : HalfReg) (imm : BitVec 14) | jHalf (imm : BitVec 14)
  | vaddHalf (d a : HalfReg) (fmt : Fin 64) (rnd : Fin 8) | vsubHalf (d a : HalfReg) (fmt : Fin 64) (rnd : Fin 8)
  | vmulHalf (d a : HalfReg) (fmt : Fin 64) (rnd : Fin 8) | vfmaHalf (d a b : HalfReg) (fmt : Fin 64) (rnd : Fin 8)
  | vminHalf (d a : HalfReg) (fmt : Fin 64) (rnd : Fin 8) | vmaxHalf (d a : HalfReg) (fmt : Fin 64) (rnd : Fin 8)
  | vandHalf (d a : HalfReg) (fmt : Fin 64) (rnd : Fin 8) | vorHalf (d a : HalfReg) (fmt : Fin 64) (rnd : Fin 8)
  | vxorHalf (d a : HalfReg) (fmt : Fin 64) (rnd : Fin 8) | vshlHalf (d a : HalfReg) (fmt : Fin 64) (rnd : Fin 8)
  | vshrHalf (d a : HalfReg) (fmt : Fin 64) (rnd : Fin 8) | vsraHalf (d a : HalfReg) (fmt : Fin 64) (rnd : Fin 8)
  -- commands and scheduling (R383–R404)
  | nopCommand (vfn queue : Nat) (body : List Byte) | launch (vfn queue : Nat) (body : List Byte)
  | signal (vfn queue : Nat) (body : List Byte) | abort (vfn queue : Nat) (body : List Byte)
  | group (vfn queue : Nat) (body : List Byte) | commandWriteRefused (vfn queue : Nat) (body : List Byte)
  | queueConfigWrite (vfn queue word : Nat) (v : Word) | contextEntryWrite (pid slot : Nat) (body : List Byte)
  -- fleet and management (R430–R457)
  | dieFence (n : Fin 4) | thaSample (cluster : Nat) (t0 t1 t2 t3 : Int) | blockRetirement (addr : Nat)
  | partwrite (body : List Byte) | partremove (body : List Byte) | vfwrite (body : List Byte)
  | ctxxlate (body : List Byte) | s2inval (body : List Byte) | keygen (body : List Byte) | keyclear (body : List Byte)
  | keywrap (body : List Byte) | keyload (body : List Byte) | measure (body : List Byte) | attest (body : List Byte)
  | telemetry (body : List Byte) | fwupdate (body : List Byte) | faultRingConsumerWrite (v : Word)
  | managementWindowWrite (off : Nat) (v : Word)
  | remoteAccessRequest (src tclass addr key : Nat) (write : Option (List Byte)) (len : Nat)
deriving DecidableEq, Repr

end Sys2Proof
end

