-- ==== Sys2Proof/Machine/State.lean ====
section
/-!
DEFINITION. The state of the HG3-M768 package, as plain data (R42, R65, R288, R346, R348, R383–R404, R415–R417, R428–R456).
Sparse tables (Map) list only what differs from the creation value. State.reset is the package after a cold reset (R390,
R444): no partition, virtual function or context exists yet; log 3 says how a program comes to run from there.
-/
namespace Sys2Proof.Machine

/-- SHAPE of a vector register (Table 2.2). -/
inductive Shape
  | undef | uniform | affine | general
deriving DecidableEq, Repr

/-- A vector register: its tag (R48), its shape-file entry (R54) and, for SHAPE general, its elements' bits packed in element
order at the element size (the layout of Table 8.7; log 8). -/
structure VReg where
  len : Nat
  alg : Nat
  arity : Nat
  shape : Shape
  format : Nat
  base : Nat
  stride : Nat
  bits : Nat
deriving DecidableEq, Repr

/-- R34, Table 2.2: shape undefined, format BITS, length 0. -/
def VReg.reset : VReg := ⟨0, 0, 0, .undef, 63, 0, 0, 0⟩

/-- A stream slot (R61–R63, R242). pos counts committed chunks; fetched counts the chunks a read stream has fetched ahead. -/
structure Stream where
  reg : VNum
  dir : Bool
  sp : Nat
  loc : Bool
  base : Word
  stride : Word
  clen : Nat
  count : Nat
  fmt : Nat
  ar : Nat
  slit : Nat
  pos : Nat
  ended : Bool
  fetched : Nat
deriving DecidableEq, Repr

/-- A mark record (R346). -/
structure MarkRec where
  id : Nat
  occ : Nat
  sa : Word
  sb : Word
  strand : Nat
  time : Nat
deriving DecidableEq, Repr

/-- What a strand waits for (R270, R187, R188, R248, R178, R194). A YIELD waits until a time in units of 1/19 network cycle (log 61), or
until the strands others have issued. mcast: a receive for a strip or a send for inbox entries (no cores), a send for slices
of these members' cores (R294). slices: its instruction has too few free slices (R26). s2stop: a stage-2 fault is its stopping point, until the pre-emption
completes (R426). -/
inductive Wait
  | mem (da size : Nat)
  | barrier (scope : Nat)
  | bword (da : Nat)
  | tags
  | status
  | entry
  | mcast (cores : List Nat)
  | slices
  | collw
  | mmode
  | tlbi
  | yield (dueAt : Nat) (others : List Nat)
  | exit
  | s2stop
deriving DecidableEq, Repr

/-- Run state of a strand: no task; issuing; waiting; halted (R196); retired and waiting for its group (R35). -/
inductive Run
  | idle | ready | waiting (w : Wait) | halted | exited
deriving DecidableEq, Repr

inductive Mode
  | user | supervisor
deriving DecidableEq, Repr

/-- The resident task (R31–R34): its launch (virtual function and sequence number), indices, group and rank. -/
structure Task where
  vfn : Nat
  seq : Nat
  t : Nat
  i0 : Nat
  i1 : Nat
  i2 : Nat
  grp : Nat
  rank : Nat
deriving DecidableEq, Repr

/-- What a store writes of each of its bytes: all of it, or, for an element of 4 bits (R80), its low or its high nibble. -/
inductive Part8
  | whole | low | high
deriving DecidableEq, Repr

/-- A committed store in the store buffer (R18, R129): bytes by domain address, what of each is written, and the key material they are
written under (none: plaintext memory). -/
structure PStore where
  bytes : List Host.Cell
  part : Part8
  key : Option Nat
deriving DecidableEq, Repr

/-- A multicast strip in an inbox (R294): one saved register per register of the group. -/
structure Strip where
  vg : Nat
  fmt : Nat
  ar : Nat
  len : Nat
  regs : List VReg
deriving DecidableEq, Repr

/-- One strand (scope strand of Table 2.1). Bit s of barIn: it has arrived at a BAR of scope s that it has not passed (R187).
regErr lists its registers that cannot be read (R452): s registers by number, masks from 64, vector registers from 96. readyAt is when its
next instruction became ready (R29). short says since when, and on which cores, its instruction has waited for free slices (R28). unsent
holds what an instruction executed in parts has yet to request: slices, and bytes of each (log 45). -/
structure Strand where
  s : Vector Word 64
  m : Vector Nat 16
  msm : Nat
  v : Vector VReg 32
  streams : Vector (Option Stream) 4
  pc : Word
  vsx : Nat
  vl : Nat
  vg : Nat
  rmode : Nat
  fpflags : Nat
  fpctl : Nat
  nbr : Nat
  seed : Word
  sbase : Word
  mcntId : Nat
  mcntOcc : Nat
  slkt : Vector Nat 8
  slkctl : Nat
  exs : Nat
  ctb : Word
  cts : Vector Word 64
  pend : Vector Nat 64
  pendStat : Word
  tshp : Word
  mode : Mode
  pendSlackex : Bool
  pendThermal : Bool
  bias : Int
  prio : Nat
  occ : List (Nat × Nat)
  digest : Word
  nstores : Nat
  barCore : Nat
  barCluster : Nat
  barIn : Nat
  collSlots : Vector (Option Nat) 4
  binds : Vector (Option Nat) 16
  inbox : List Strip
  stores : List PStore
  run : Run
  task : Option Task
  marks : List MarkRec
  uid : Nat
  regErr : List Nat
  readyAt : Nat
  short : Option (Nat × List Nat)
  unsent : List ((Nat × Nat) × Nat)
deriving DecidableEq, Repr

/-- The creation values of a strand (R34, Table 1.3, Table 2.6). -/
def Strand.reset : Strand where
  s := Vector.replicate 64 0
  m := Vector.replicate 16 0
  msm := 0
  v := Vector.replicate 32 VReg.reset
  streams := Vector.replicate 4 none
  pc := 0
  vsx := 0
  vl := 0
  vg := 0
  rmode := 0
  fpflags := 0
  fpctl := 0
  nbr := 0
  seed := 0
  sbase := 0
  mcntId := 0
  mcntOcc := 0
  slkt := #v[64, 128, 256, 512, 1024, 2048, 3072, 4095]
  slkctl := 0
  exs := 0
  ctb := 0
  cts := Vector.replicate 64 0
  pend := Vector.replicate 64 0
  pendStat := 0
  tshp := 0
  mode := .user
  pendSlackex := false
  pendThermal := false
  bias := 0
  prio := 0
  occ := []
  digest := 0
  nstores := 0
  barCore := 0
  barCluster := 0
  barIn := 0
  collSlots := Vector.replicate 4 none
  binds := Vector.replicate 16 none
  inbox := []
  stores := []
  run := .idle
  task := none
  marks := []
  uid := 0
  regErr := []
  readyAt := 0
  short := none
  unsent := []

/-- One level of a sequencer slot (R288). -/
structure SeqLevel where
  count : Nat
  ss : Word
  ds : Word
deriving DecidableEq, Repr

/-- The template of a slot: the operand state of its last extended SEQGO (R288, R290). -/
structure Template where
  x : XferOp
  ss : Word
  ds : Word
  ordered : Bool
  bar : Nat
deriving DecidableEq, Repr

structure SeqSlot where
  levels : Vector SeqLevel 6
  tmpl : Option Template
  run : Option Nat
deriving DecidableEq, Repr

/-- R288: at creation each count is 1, each stride is 0, and the template is empty. -/
def SeqSlot.reset : SeqSlot := ⟨Vector.replicate 6 ⟨1, 0, 0⟩, none, none⟩

/-- A cached translation of the 64 KiB at page (R428, R429), through the 64 KiB at ipa. big, ipaBig: they lie in a VA page, in an IPA page,
of 512 MiB. -/
structure TlbEntry where
  vfn : Nat
  slot : Nat
  glob : Bool
  page : Nat
  big : Bool
  ipa : Nat
  ipaBig : Bool
  da : Nat
  key : Nat
  r : Bool
  w : Bool
  x : Bool
  norace : Bool
  cmp : Bool
  pid : Nat
deriving DecidableEq, Repr

/-- A core: both tiles by tile × 4096 + row × 64 + column (R65), the sequencer slots by lane group (R288), the TLB (R428), VSTALL (R449),
and the cells that cannot be read (R452). -/
structure Core where
  cells : Map Nat
  seqs : Map SeqSlot
  tlb : List TlbEntry
  vstall : Nat
  badCells : List Nat
deriving DecidableEq, Repr

def Core.reset : Core := ⟨[], [], [], 0, []⟩

/-- Run state of an advice context (R348); ended: no launch with its pricking runs there. -/
inductive AdvRun
  | idle | ended | running | await (k id n : Nat) (d : HReg) | async (k : Nat)
deriving DecidableEq, Repr

/-- An advice context (R348) and its counters (R366). -/
structure Advice where
  bound : Nat
  h : Vector Word 16
  apc : Nat
  cur : MarkRec
  stale : Bool
  run : AdvRun
  pfInFlight : List Nat
  pins : List Nat
  cMatch : Nat
  cStale : Nat
  cSkip : Nat
  cResync : Nat
  cIdle : Nat
  cDiscard : Nat
  cLag : Nat
  cAfault : Nat
  cDrop : Nat
  cTrim : Nat
  cPfbytes : Nat
deriving DecidableEq, Repr

def Advice.reset : Advice :=
  ⟨0, Vector.replicate 16 0, 0, ⟨0, 0, 0, 0, 0, 0⟩, false, .idle, [], [], 0, 0, 0, 0, 0, 0, 0, 0, 0, 0, 0⟩

/-- What one partition keeps on one core: ACCSTAT (R66), matrix mode (R246, R248), the advice context (R348), and the strand that its
lanes served last (R29). -/
structure PCore where
  accst : Vector Nat 2
  holder : Option Nat
  mmWait : List Nat
  adv : Advice
  served : Nat
deriving DecidableEq, Repr

def PCore.reset : PCore := ⟨#v[0, 0], none, [], { Advice.reset with run := .ended }, 0⟩

/-- What is kept of a cluster-cache line: its residency class (R357), the key id it was filled under (R110; none: not present), and, while
it holds writes to far memory, the bytes last written back there, with the key material they stand under (R455), and which of its bytes others
have written since. -/
structure Line where
  cls : Nat
  key : Option Nat
  back : Option (List Byte × Option Nat)
  newer : List Nat
deriving DecidableEq, Repr

/-- A line that is not present. -/
def Line.reset : Line := ⟨0, none, none, []⟩

/-- A cluster: THA fields (R448), its TLB (R428), its cache lines by number (R110, R357), thermal telemetry (Table 22.4). -/
structure Cluster where
  temp : Nat
  ref : Nat
  allow : Nat
  tlb : List TlbEntry
  lines : Map Line
  hottest : Nat
  rises1 : Nat
  rises2 : Nat
  hotUs : Nat
deriving DecidableEq, Repr

/-- THA has no reset value: TEMP 0, REF 00 and the ALLOW that R448 gives for them (log 5). -/
def Cluster.reset : Cluster := ⟨0, 0, 85, [], [], 0, 0, 0, 0⟩

/-- An algebra table (R92): arity code, conjugation bits, and the 64 entry bytes. -/
structure Alg where
  ar : Nat
  conj : Nat
  ent : List Nat
deriving DecidableEq, Repr

/-- What the model keeps of a saved strand beside its image (log 41): its strand key, its agent, its task, the transfers
and collectives to which its masks and slots were bound, and the barriers at which it has arrived. -/
structure Held where
  key : Nat
  uid : Nat
  task : Task
  binds : Vector (Option Nat) 16
  colls : Vector (Option Nat) 4
  barIn : Nat
deriving DecidableEq, Repr

/-- A context list entry (R402), its translation record (R439), the header fields of its image while it runs (R415), what
is kept of its saved strands, and the pricking bound to it on each core (R348). -/
structure Ctx where
  save : Nat
  slice : Nat
  plim : Nat
  park : Bool
  valid : Bool
  vfn : Nat
  root : Nat
  tkey : Nat
  xvalid : Bool
  tvec : Word
  trec : Word
  vwbase : Nat
  vwlim : Nat
  vwkey : Nat
  held : List Held
  bound : Map Nat
deriving DecidableEq, Repr

def Ctx.reset : Ctx := ⟨0, 0, 0, false, false, 0, 0, 0, false, 0, 0, 0, 0, 0, [], []⟩

/-- An entry of the collective group table (R400). -/
structure GroupEntry where
  rank : Nat
  members : List Nat
deriving DecidableEq, Repr

/-- A partition: its record (R433: own holds K0 of the cores it owns, unowned a K0 other than 0 of the others), its formats and algebras
(R42), its contexts and running context (R402, R403), its collective groups (R400), and its counters (Table 22.4). sliceDue is when the running context's slice expires; last is the slot
after which the scheduler's search starts. faulted: a stage-2 fault has pre-empted and parked the running context (R426). -/
structure Part where
  g : Nat
  tclass : Nat
  spans : Nat
  floor : Nat
  kbase : Nat
  kcnt : Nat
  pfb : Nat
  pinb : Nat
  biasMax : Nat
  own : Map Nat
  unowned : Map Nat
  fmt : Vector Word 16
  alg : Vector (Option Alg) 4
  ctxs : Map Ctx
  running : Option Nat
  sliceDue : Nat
  last : Nat
  preempting : Bool
  preemptStart : Nat
  faulted : Bool
  groups : Map GroupEntry
  expansions : Nat
  splits : Nat
  late : Nat
  plimOver : Nat
  s2faults : Nat
  races : Nat
  digestFails : Nat
deriving DecidableEq, Repr

/-- R77: the reset value of FMTn: E4M3. -/
def fmtReset : Word := 0x3F800000070B4008

def Part.reset : Part where
  g := 1
  tclass := 0
  spans := 0
  floor := 64
  kbase := 0
  kcnt := 0
  pfb := 65536
  pinb := 0
  biasMax := 256
  own := []
  unowned := []
  fmt := Vector.replicate 16 fmtReset
  alg := Vector.replicate 4 none
  ctxs := []
  running := none
  sliceDue := 0
  last := 63
  preempting := false
  preemptStart := 0
  faulted := false
  groups := []
  expansions := 0
  splits := 0
  late := 0
  plimOver := 0
  s2faults := 0
  races := 0
  digestFails := 0

/-- A final command that the next notification of its queue covers (R401): its number, its cause where it ended FAILED or ABORTED, and COAL
and NADDR of the queue as it was accepted (R384). -/
structure Final where
  seq : Nat
  bad : Option Nat
  coal : Nat
  naddr : Nat
deriving DecidableEq, Repr

/-- A command queue (R384), its coalescing window, the final commands that are not notified yet, and the highest SEQ notified (R401). -/
structure Queue where
  en : Bool
  naddr : Nat
  coal : Nat
  prio : Nat
  lastSeq : Nat
  window : Option Nat
  finals : List Final
  notified : Nat
deriving DecidableEq, Repr

def Queue.reset : Queue := ⟨false, 0, 0, 0, 0, none, [], 0⟩

/-- STATE of a journal entry (Table 19.5). -/
inductive JState
  | empty | accepted | dispatched | retired | failed | aborted
deriving DecidableEq, Repr

/-- A journal entry (Table 19.5), with the command it journals; the configuration of its queue as it was accepted (R384); the sequence
dependences not yet met, and, once all are (R391), the regions that the acquire of its event word closes; the member list that a
GROUP read as it started (R400); and whether the tasks of a LAUNCH start with an acquire (R394). -/
structure JEntry where
  seq : Nat
  ctag : Nat
  cdig : Nat
  res : Word
  state : JState
  cause : Nat
  queue : Nat
  kind : Nat
  tacc : Nat
  tdis : Nat
  tend : Nat
  cmd : List Byte
  prio : Nat
  coal : Nat
  naddr : Nat
  deps : List Nat
  met : Option (Map Nat)
  members : Option (List Nat)
  syncs : Bool
deriving DecidableEq, Repr

/-- A virtual function: its record (R437), queues, sequence counter (R386), journal (R388) and measurement log (R446). -/
structure VF where
  pid : Nat
  en : Bool
  kbase : Nat
  kcnt : Nat
  s2root : Nat
  s2key : Nat
  mask0 : Word
  mask1 : Word
  queues : Map Queue
  seqNext : Nat
  journal : Map JEntry
  mlog : List (List Byte)
deriving DecidableEq, Repr

/-- R437, R386: masks all ones; the sequence counter starts at 1. -/
def VF.reset : VF := ⟨0, false, 0, 0, 0, 0, BitVec.allOnes 64, BitVec.allOnes 64, [], 1, [], []⟩

/-- A distributor of one launch (R38, R39, R368). -/
structure Dist where
  die : Nat
  ranges : List Nat
  steals : Nat
  retiredRanges : Nat
deriving DecidableEq, Repr

/-- A unit's hold on a launch: the range it works on, the next group of it, and whether a request waits (R33, R35, R368). -/
structure LUnit where
  range : Option Nat
  nextGrp : Nat
  waiting : Bool
deriving DecidableEq, Repr

/-- A launch: its descriptor's fields, distributors, units, retired digests, released barriers; whether its tasks start with an acquire of
package scope, and the regions that its event word's acquire closed (R394); the cores on which a task of it has started, and how it stops, with the
cause that its entry will then have. -/
structure Launch where
  pid : Nat
  slot : Nat
  queue : Nat
  entry : Word
  n0 : Nat
  n1 : Nat
  n2 : Nat
  size : Nat
  z : Nat
  level : Nat
  flags : Nat
  stealk : Nat
  digest : Word
  prick : Nat
  fr : Nat
  sr : Nat
  doneAddr : Word
  doneVal : Word
  dists : List Dist
  units : Map LUnit
  retired : Map Word
  barReleased : Map Nat
  syncs : Bool
  acquires : Map Nat
  started : List Nat
  stopped : Bool
  fenceFail : Bool
  stopCause : Nat
deriving DecidableEq, Repr

/-- Which kind of agent (R111, Table 20.1 INFO of RACE). -/
inductive AgentKind
  | strand | transfer | seqRun | collective
deriving DecidableEq, Repr

/-- An agent of the consistency model (R111): where it is, the number of its current region (R114), how many of its regions
it has released toward core, cluster, package and domain scope (R117 step 1), and how many regions of each other agent are
closed toward it (R117 step 2). A transfer carries its issuer, and doneAt, the region of the issuer that observed its completion. -/
structure Agent where
  kind : AgentKind
  core : Nat
  strand : Nat
  pid : Nat
  region : Nat
  rel : Vector Nat 4
  seen : Map Nat
  issuer : Nat
  issueSeq : Nat
  doneAt : Option Nat
deriving DecidableEq, Repr

/-- One block of a region's footprint (R114): agent, region, 64-byte block, read or write, when it entered, its chunk, whether
a transfer made the access, and whether it is closed toward the issuer of that transfer (R117, R124). -/
structure Foot where
  uid : Nat
  region : Nat
  block : Nat
  wr : Bool
  seqNo : Nat
  chunk : Nat
  xf : Bool
  closed : Bool
deriving DecidableEq, Repr

/-- Bytes of chunk `chunk`, of n bytes, that wait for the rest of their 32-byte destination block, which a later chunk of the same
copy writes too (R126): the block's number in the address as formed, and in the domain. -/
structure HeldBlock where
  chunk : Nat
  n : Nat
  va : Nat
  da : Nat
  store : PStore
deriving DecidableEq, Repr

/-- A 32-byte block as it stood, read under key material mat: one that a chunk read in part, for the later chunks of its copy that read
the rest (R126), or one that the transfer has overwritten since (own; R272). -/
structure SeenBlock where
  va : Nat
  da : Nat
  mat : Option Nat
  own : Bool
  bytes : List Byte
deriving DecidableEq, Repr

/-- A transfer: a COPY or a sequencer run (R271, R291). counts, lss and lds are the slot's levels, innermost first (a COPY has
none). next is the number of the next chunk: those below it are written. stop holds the code and side that ended it; complete
says it has reported (R277); arrived holds, per chunk, the number of the phase its arrival counted toward, and final that of
the final arrival (R280, R287). slack is that of its issue; waits holds the slack of each copy emitted and not finished, oldest first
(R138); stalled says that a stage-2 fault is its stopping point until its context runs again (R426); held and seen keep 32-byte
blocks whole (R126). -/
structure Xfer where
  uid : Nat
  core : Nat
  strand : Nat
  pid : Nat
  task : Option Task
  x : XferOp
  sb : Word
  ss : Word
  db : Word
  ds : Word
  ordered : Bool
  slot : Option Nat
  counts : List Nat
  lss : List Word
  lds : List Word
  bar : Nat
  stat : SReg
  slack : Nat
  emitted : Nat
  next : Nat
  stop : Option (Nat × Bool)
  late : Nat
  complete : Bool
  arrived : List (Nat × Nat)
  final : Option Nat
  waits : List Nat
  stalled : Bool
  held : List HeldBlock
  seen : List SeenBlock
deriving DecidableEq, Repr

/-- A collective on one slot of a strand (R297–R301), of the partition's context in slot ctx; done is its status CODE and flags once complete; slack is the least that remains to
its contribution (R138); stalled as for a transfer. -/
structure Coll where
  uid : Nat
  core : Nat
  strand : Nat
  pid : Nat
  slot : Nat
  kind : Nat
  rop : Nat
  fmt : Nat
  grp : Nat
  n : Nat
  src : Word
  dst : Word
  done : Option (Nat × Nat)
  slack : Nat
  stalled : Bool
  ctx : Nat
deriving DecidableEq, Repr

/-- What a packet is: a request that a slice answers with data or with the acknowledgement of a store, or a message, which has no
reply (of a barrier, a multicast, a collective: R138, R187, R297). -/
inductive PKind
  | data | ack | msg
deriving DecidableEq, Repr

/-- A packet that waits in an arbiter (R136, R140): its class, slack, age, whether it is carried (R145), the core and the strand
that issued it, the core and the slice there that its request goes to (0 lane memory, 1 vault, 2 cluster cache, 3 far memory, 4 fabric
port, 5 the core itself), the agent it was issued for (of a prefetch the partition), what it is, and the bytes its reply holds. -/
structure Packet where
  cls : Nat
  slack : Nat
  age : Nat
  carried : Bool
  core : Nat
  strand : Nat
  target : Nat
  slice : Nat
  uid : Nat
  kind : PKind
  bytes : Nat
deriving DecidableEq, Repr

/-- A switch: the input queues of each arbiter of its tree (R140), by nodeKey; how many inputs it has; and for each arbiter the input
served last (R141). -/
structure Arb where
  nodes : Map (List (List Packet))
  size : Nat
  last : Map Nat
deriving DecidableEq, Repr

/-- A span table entry (Table 5.3). -/
structure Span where
  isOpen : Bool
  cls : Nat
deriving DecidableEq, Repr

/-- The management function (R431, R432): BUSY and STATUS, the reply area, the stage-2 fault ring, and the function whose S2INVAL is under way. -/
structure Mgmt where
  busy : Bool
  code : Nat
  seq : Nat
  window : Map Word
  reply : List Byte
  ring : Map (List Byte)
  prod : Nat
  cons : Nat
  s2pending : Option Nat
deriving DecidableEq, Repr

/-- Telemetry that belongs to no other part (Table 22.4) and the mark trace (R456). spareUsed counts retirements for good (R453); gone
holds the counters of partitions that exist no longer. -/
structure Tele where
  corrected : Map Nat
  uncorrectable : Map Nat
  retired : Nat
  retfail : Nat
  doorbells : Nat
  ringDrops : Nat
  doneFails : Nat
  restoreFails : Nat
  mtdrop : Nat
  fenced : Nat
  trace : Option (Nat × Nat × Nat)
  traceLen : Nat
  spareUsed : Nat
  gone : Map (List Nat)
deriving DecidableEq, Repr

/-- Firmware: the running and the inactive flash copy, the fused SVN counter, whether the inactive copy is new (the next reset
tries it first), a pending COMMIT, and whether the device answers only as a recovery endpoint (R444, R454, R457). status is the
recovery status: the check that failed, for the copy tried first and, × 4, for the other: 1 signature, 2 SVN. kept holds, in that state,
the virtual functions' records, whose journals survive (R390). -/
structure Firmware where
  image : List Byte
  other : List Byte
  svn : Nat
  fresh : Bool
  commit : Bool
  recovery : Bool
  status : Nat
  kept : Map VF
deriving DecidableEq, Repr

/-- Who acts: a strand (core and strand number), or the advice context of partition pid on core; the fetched first word (the
INFO of Table 20.1) and the half of a pair word; and, under a pre-emption, the element or k step before which the instruction
stops (R204, R254, R413). -/
structure Cur where
  core : Nat
  strand : Nat
  pid : Nat
  word : Word
  half : Bool
  limit : Option Nat
deriving DecidableEq, Repr

/-- What leaves the device over the fabric: kind, address or function, payload (R383, R401, R427). -/
structure Msg where
  kind : Nat
  dest : Nat
  data : List Byte
deriving DecidableEq, Repr

/-- The bound prickings: code words and mark index of handle n (R364, R365). -/
structure Prick where
  code : List (BitVec 32)
  index : List (Nat × Nat)
deriving DecidableEq, Repr

/-- A load whose replies are under way, as long as its instruction may be squashed (R412): the strand before it, the registers it has
written, its agent's region and records then, the next access number, and how many splits and expansions it has counted. -/
structure Flight where
  x : Strand
  sw : List SReg
  mw : List MReg
  region : Nat
  foot : List Foot
  from_ : Nat
  splits : Nat
  expansions : Nat
deriving DecidableEq, Repr

/-- The whole machine. flights holds the loads under way, by strand (R412). memKey holds the key material of each 64-byte data unit (R109), by unit; poison the structure of each
uncorrectable 64-bit word (R451), by word. nextTab is the next span table with the number of its first frame (R144). barFlips
counts, per barrier word, its phases so far; keys of the maps: strand core × 8 + k; pcore
pid × 1024 + core; launch vfn + 1024 × seq; journal seq mod 4,096. -/
structure State where
  mem : Memory
  memKey : Map Nat
  poison : Map Nat
  keys : Map Nat
  strands : Map Strand
  flights : Map Flight
  cores : Map Core
  pcores : Map PCore
  clusters : Map Cluster
  parts : Map Part
  vfs : Map VF
  launches : Map Launch
  pricks : Map Prick
  agents : Map Agent
  foot : List Foot
  accSeq : Nat
  xfers : Map Xfer
  colls : Map Coll
  barFlips : Map Nat
  mgmt : Mgmt
  tele : Tele
  fw : Firmware
  arbs : Map Arb
  span : Nat
  spanTab : Vector Span 32
  nextTab : Option (Nat × Vector Span 32)
  now : Nat
  cur : Cur
  agenda : List Instr
  fresh : Nat
  freeCtr : Nat
  out : List Msg
deriving DecidableEq, Repr

/-- Why the machine stops. -/
inductive Fault
  /-- Raised by step alone: the package is stopped, or ROM accepted no firmware image, and it answers only as a recovery
  endpoint until a reset (R444, R454). Safe: the manual lets nothing run then. -/
  | recoveryOnly
deriving DecidableEq, Repr

/-- Why an instruction has no meaning here. -/
inductive Refusal
  /-- Raised by an arm of exec that is not written yet. Safe. -/
  | notModelled (mnemonic : String)
deriving DecidableEq, Repr

/-- The package after a cold reset (R390, R444, R456, Table 5.3, Table 2.6): the journal and the counters are empty, no partition
or virtual function exists, every span is open, slot 2047 holds the firmware key (R441). Values the manual does not give
are those of logs 2–6. -/
def State.reset : State where
  mem := []
  memKey := []
  poison := []
  keys := [(2047, 0)]
  strands := []
  flights := []
  cores := []
  pcores := []
  clusters := []
  parts := []
  vfs := []
  launches := []
  pricks := []
  agents := []
  foot := []
  accSeq := 0
  xfers := []
  colls := []
  barFlips := []
  mgmt := ⟨false, 0, 0, [], [], [], 0, 0, none⟩
  tele := ⟨[], [], 0, 0, 0, 0, 0, 0, 0, 0, none, 0, 0, []⟩
  fw := ⟨Config.flashImage, Config.flashImage, 0, false, false, false, 0, []⟩
  arbs := []
  span := 0
  spanTab := Vector.replicate 32 ⟨true, 0⟩
  nextTab := none
  now := 0
  cur := ⟨0, 0, 0, 0, false, none⟩
  agenda := []
  fresh := 1
  freeCtr := 0
  out := []

end Sys2Proof.Machine
end

