-- ==== Sys2Proof/Machine/Regs.lean ====
section
/-!
DEFINITION. Access to the parts of the state: strands, registers, partitions, contexts, cores. Every read or write of a scalar
register goes through rS and wS (R43).
-/
namespace Sys2Proof.Machine

/-- Where strand k of a core stands in State.strands. -/
def skey (core k : Nat) : Nat := core * 8 + k

def State.strand (s : State) (core k : Nat) : Strand := Map.getD s.strands (skey core k) Strand.reset
def State.setStrand (s : State) (core k : Nat) (x : Strand) : State := { s with strands := Map.set s.strands (skey core k) x }

/-- The acting strand. -/
def State.me (s : State) : Strand := s.strand s.cur.core s.cur.strand
def State.setMe (s : State) (x : Strand) : State := s.setStrand s.cur.core s.cur.strand x

/-- R43: s0 reads as zero, and a write to it is discarded. -/
def Strand.rS (x : Strand) (r : SReg) : Word := if r.val = 0 then 0 else x.s.get r
def Strand.wS (x : Strand) (r : SReg) (v : Word) : Strand := if r.val = 0 then x else { x with s := x.s.set r.val v r.isLt }

def State.rS (s : State) (r : SReg) : Word := s.me.rS r
def State.wS (s : State) (r : SReg) (v : Word) : State := s.setMe (s.me.wS r v)

/-- The instruction at pc commits and takes n bytes of code: pc moves past it and VSX returns to 0 (R20, R23, Table 6.1). -/
def State.advance (s : State) (n : Nat) : State :=
  s.setMe { s.me with pc := s.me.pc + BitVec.ofNat 64 n, vsx := 0 }

/-- Control goes to t (R177). -/
def State.jump (s : State) (t : Word) : State := s.setMe { s.me with pc := t, vsx := 0 }

/-- Merges flags into FPFLAGS (R76, R174). -/
def State.raise (s : State) (fl : Nat) : State := s.setMe { s.me with fpflags := s.me.fpflags ||| fl }

/-! ## Partitions, contexts, functions -/

def State.part (s : State) (pid : Nat) : Part := Map.getD s.parts pid Part.reset
def State.setPart (s : State) (pid : Nat) (p : Part) : State := { s with parts := Map.set s.parts pid p }
/-- The partition of the acting agent. -/
def State.myPart (s : State) : Part := s.part s.cur.pid

/-- First lane group of a partition on a core (Table 21.4). -/
def Part.k0 (p : Part) (core : Nat) : Nat := Map.getD p.own core 0
def Part.owns (p : Part) (core : Nat) : Bool := (Map.get? p.own core).isSome
/-- Lane group k of a core belongs to the partition. -/
def Part.ownsGroup (p : Part) (core k : Nat) : Bool :=
  match Map.get? p.own core with
  | some k0 => decide (k0 ≤ k ∧ k < k0 + p.g)
  | none => false

/-- The partition that owns lane group k of a core, searched among the records. -/
def ownerOf : Map Part → Nat → Nat → Option Nat
  | [], _, _ => none
  | (pid, p) :: ps, core, k => if p.ownsGroup core k then some pid else ownerOf ps core k

/-- The running context of a partition (R403). -/
def Part.ctx (p : Part) : Ctx :=
  match p.running with
  | some slot => Map.getD p.ctxs slot Ctx.reset
  | none => Ctx.reset
def Part.slot (p : Part) : Nat := p.running.getD 0
def State.myCtx (s : State) : Ctx := s.myPart.ctx

def State.vf (s : State) (vfn : Nat) : VF := Map.getD s.vfs vfn VF.reset
def State.setVf (s : State) (vfn : Nat) (v : VF) : State := { s with vfs := Map.set s.vfs vfn v }

def lkey (vfn seq : Nat) : Nat := vfn + 1024 * seq
def State.launchOf (s : State) (vfn seq : Nat) : Option Launch := Map.get? s.launches (lkey vfn seq)
/-- The launch of the acting strand's task. -/
def State.myLaunch (s : State) : Option Launch :=
  match s.me.task with
  | some t => s.launchOf t.vfn t.seq
  | none => none

/-- FLAGS of a launch descriptor (Table 19.6). -/
def Launch.det (l : Launch) : Bool := l.flags.testBit 0
def Launch.idemp (l : Launch) : Bool := l.flags.testBit 1
def Launch.serial (l : Launch) : Bool := l.flags.testBit 2
def Launch.digv (l : Launch) : Bool := l.flags.testBit 4
def Launch.doneFlag (l : Launch) : Bool := l.flags.testBit 5
/-- Does the acting strand run in a DET launch (R367)? -/
def State.inDet (s : State) : Bool := match s.myLaunch with | some l => l.det | none => false

def State.coreOf (s : State) (core : Nat) : Core := Map.getD s.cores core Core.reset
def State.setCore (s : State) (core : Nat) (c : Core) : State := { s with cores := Map.set s.cores core c }
def State.pcore (s : State) (pid core : Nat) : PCore := Map.getD s.pcores (pid * 1024 + core) PCore.reset
def State.setPCore (s : State) (pid core : Nat) (c : PCore) : State := { s with pcores := Map.set s.pcores (pid * 1024 + core) c }
def State.cluster (s : State) (n : Nat) : Cluster := Map.getD s.clusters n Cluster.reset
def State.setCluster (s : State) (n : Nat) (c : Cluster) : State := { s with clusters := Map.set s.clusters n c }

/-! ## Places (R4–R9) -/

def coreX (core : Nat) : Nat := core % 32
def coreY (core : Nat) : Nat := core / 32
def coreAt (x y : Nat) : Nat := y * 32 + x
def clusterOf (core : Nat) : Nat := coreY core / 4 * 8 + coreX core / 4
def dieOf (core : Nat) : Nat := coreX core / 16 + 2 * (coreY core / 12)

/-- g of the acting strand's partition, and its lanes L (R9, R24). -/
def State.g (s : State) : Nat := s.myPart.g
def State.lanes (s : State) : Nat := 8 * s.g
/-- G for the code in VG (Table 2.6). -/
def State.vgroup (s : State) : Nat := 2 ^ s.me.vg

/-! ## Features (R335, Table 14.3) -/

/-- Leaf 0 of the device: every feature present, NBV 1. -/
def leaf0 : Nat := 0xFF01
/-- Leaf 0 as masked for a function (R438). -/
def VF.leaf0 (v : VF) : Nat :=
  (bits Machine.leaf0 63 8 &&& bits v.mask0.toNat 63 8) * 256 + Nat.min (Machine.leaf0 % 256) (v.mask0.toNat % 256)
/-- Is enforced bit n of leaf 0 set for the acting strand's function? -/
def State.feature (s : State) (n : Nat) : Bool := (s.vf s.myCtx.vfn).leaf0.testBit n

/-- A fresh identity for an agent or a transfer. -/
def State.newId (s : State) : Nat × State := (s.fresh, { s with fresh := s.fresh + 1 })

end Sys2Proof.Machine
end

