-- ==== Sys2Proof/Machine/Race.lean ====
section
/-!
DEFINITION. Agents, regions, footprints and races (R111–R125). A region is named by its agent and a number that rises at every
synchronising operation; a release records, per level of the hierarchy, how many regions it has released; an acquire records how
many regions of every agent in its scope are closed toward the acquirer.
-/
namespace Sys2Proof.Machine

/-- Transfers, sequencer runs and collectives follow the closure rules of transfers (R117, R280). -/
def Agent.isTransfer (a : Agent) : Bool :=
  match a.kind with
  | .transfer => true
  | .seqRun => true
  | .strand => false
  | .collective => true

/-- The code of RACE INFO [15:13] (Table 20.1). -/
def Agent.code (a : Agent) : Nat :=
  match a.kind with
  | .strand => 0
  | .transfer => 1
  | .seqRun => 2
  | .collective => 3

/-- The smallest level whose unit holds both agents: 1 core, 2 cluster, 3 package (R113); a collective has domain scope (R111). Log 16. -/
def levelOf (a b : Agent) : Nat :=
  if decide (a.kind = .collective) || decide (b.kind = .collective) then 4
  else if a.core = b.core then 1 else if clusterOf a.core = clusterOf b.core then 2 else 3

/-- Scope S of a includes b (R113): the units are restricted to the partition. -/
def includesAgent (scope : Nat) (a b : Agent) : Bool := decide (a.pid = b.pid) && decide (levelOf a b ≤ scope)

def relAt (a : Agent) (level : Nat) : Nat := a.rel.toList.getD (level - 1) 0

/-- Is the record f of agent a open to agent b, whose number is bId (R117)? A transfer's record is open to its issuer until the
issuer has observed the completion or acquired the chunk; to another agent until the issuer's region that observed the completion
is closed toward it. -/
def openTo (a : Agent) (f : Foot) (bId : Nat) (b : Agent) : Bool :=
  if f.uid = bId ∨ (f.xf && b.isTransfer) = true then false
  else if a.isTransfer then
    if a.issuer = bId then !f.closed
    else match a.doneAt with | some r => decide (Map.getD b.seen a.issuer 0 ≤ r) | none => true
  else if b.isTransfer then
    (if b.issuer = f.uid then decide (b.issueSeq ≤ f.seqNo) else decide (Map.getD b.seen f.uid 0 ≤ f.region))
  else decide (Map.getD b.seen f.uid 0 ≤ f.region)

def noAgent : Agent := ⟨.strand, 0, 0, 0, 0, Vector.replicate 4 0, [], 0, 0, none⟩

/-- The record of an earlier access with which an access of agent id to these blocks conflicts (R118). DESIGN CHOICE (log 75): of
several the newest is taken, as the A that the trap registers name; the spec does not say which. -/
def findConflict (s : State) (id : Nat) (blocks : List Nat) (wr : Bool) : Option Foot :=
  let b := Map.getD s.agents id noAgent
  s.foot.find? (fun f => blocks.contains f.block && (f.wr || wr) && openTo (Map.getD s.agents f.uid noAgent) f id b)

/-- INFO of RACE (Table 20.1). -/
def raceInfo (s : State) (id : Nat) : Word :=
  let a := Map.getD s.agents id noAgent
  BitVec.ofNat 64 (a.core + a.strand * 2 ^ 10 + a.code * 2 ^ 13 + Config.packageId * 2 ^ 16)

/-- Adds one block to the footprint of agent id's current region, or renews its record (R114). -/
def addBlock (foot : List Foot) (id region blk : Nat) (wr xf : Bool) (seqNo chunk : Nat) : List Foot :=
  ⟨id, region, blk, wr, seqNo, chunk, xf, false⟩ ::
    foot.filter (fun f => !(decide (f.uid = id) && decide (f.region = region) && decide (f.block = blk) && decide (f.wr = wr)
      && decide (f.chunk = chunk)))

/-- How many distinct blocks a region's footprint holds (R120). -/
def footSize (foot : List Foot) (id region : Nat) : Nat :=
  ((foot.filter (fun f => decide (f.uid = id) && decide (f.region = region))).map (·.block)).eraseDups.length

/-- The region number of an agent rises by one. -/
def State.endRegion (s : State) (id : Nat) : State :=
  match Map.get? s.agents id with
  | some a => { s with agents := Map.set s.agents id { a with region := a.region + 1 } }
  | none => s

/-- Adds the blocks that one access reads and writes to the footprint; the region is split before the access that would add block
4,097 (R120). -/
def State.addFoot (s : State) (id : Nat) (rd wr : List Nat) (chunk : Nat) : State :=
  match Map.get? s.agents id with
  | none => s
  | some a =>
    let news := ((rd ++ wr).eraseDups).filter (fun b =>
      !s.foot.any (fun f => decide (f.uid = id) && decide (f.region = a.region) && decide (f.block = b)))
    let split := decide (4096 < footSize s.foot id a.region + news.length)
    let s1 :=
      if split then
        let p := s.part a.pid
        (s.endRegion id).setPart a.pid { p with splits := p.splits + 1 }
      else s
    let region := if split then a.region + 1 else a.region
    let add (wr : Bool) (ft : List Foot) (b : Nat) : List Foot := addBlock ft id region b wr a.isTransfer s1.accSeq chunk
    { s1 with
      foot := wr.foldl (add true) (rd.foldl (add false) s1.foot)
      accSeq := s1.accSeq + 1 }

/-- The blocks that n bytes at a touch (R114). -/
def blocksOf (a n : Nat) : List Nat := if n = 0 then [] else (List.range ((a + n - 1) / 64 - a / 64 + 1)).map (· + a / 64)

/-- Step 1 of R117: agent a's regions up to the current one are released toward every level the scope reaches, and the region
ends. -/
def releaseAgent (scope : Nat) (a : Agent) : Agent :=
  let rel := Vector.ofFn (fun (i : Fin 4) => if i.val + 1 ≤ scope then a.region + 1 else a.rel.get i)
  { a with rel := rel, region := a.region + 1 }

/-- Step 2 of R117: what the other agents in scope have released toward a is closed toward a. -/
def acquireAgent (scope : Nat) (agents : Map Agent) (id : Nat) (a : Agent) : Agent :=
  { a with seen := agents.foldl (fun m c =>
      if c.1 = id ∨ c.2.isTransfer = true ∨ includesAgent scope a c.2 = false then m
      else Map.set m c.1 (Nat.max (Map.getD m c.1 0) (relAt c.2 (levelOf a c.2)))) a.seen }

/-- A synchronising operation of a scope (Table 4.2): it ends the agent's region, releases it and acquires. -/
def State.syncAgent (s : State) (id scope : Nat) : State :=
  match Map.get? s.agents id with
  | none => s
  | some a => { s with agents := Map.set s.agents id (acquireAgent scope s.agents id (releaseAgent scope a)) }

/-- A synchronising operation of the acting strand. -/
def State.sync (s : State) (scope : Nat) : State := s.syncAgent s.me.uid scope

/-- Step 2 of R117 alone, for the acting strand: a further attempt of an instruction whose region has ended already (R240). -/
def State.syncAgain (s : State) (scope : Nat) : State :=
  match Map.get? s.agents s.me.uid with
  | none => s
  | some a => { s with agents := Map.set s.agents s.me.uid (acquireAgent scope s.agents s.me.uid a) }

/-- The chunks of transfer tid for which chunk answers true are closed toward its issuer (R117, R124). -/
def State.closeChunks (s : State) (tid : Nat) (chunk : Nat → Bool) : State :=
  { s with foot := s.foot.map (fun f => if f.uid = tid ∧ chunk f.chunk = true then { f with closed := true } else f) }

/-- The completion of transfer tid is observed by its issuer, the strand agent id, in its current region (R117): all of the
transfer's region is closed toward it, and toward other agents once that region is. -/
def State.observe (s : State) (id tid : Nat) : State :=
  let region := (Map.getD s.agents id noAgent).region
  let s1 := s.closeChunks tid (fun _ => true)
  match Map.get? s1.agents tid with
  | some a => { s1 with agents := Map.set s1.agents tid { a with doneAt := some (a.doneAt.getD region) } }
  | none => s1

/-! ## The shape of a transfer (R271, R290, R291) -/

def rowLen (x : XferOp) : Nat := x.rlenM1.toNat + 1
def rowCount (x : XferOp) : Nat := x.nrowM1.toNat + 1
/-- nc of R271. -/
def rowChunks (x : XferOp) : Nat := (rowLen x + 4095) / 4096
/-- NROW × nc. -/
def copyChunks (x : XferOp) : Nat := rowCount x * rowChunks x
def copyBytes (x : XferOp) : Nat := rowCount x * rowLen x

/-- How many copies the levels emit. -/
def copiesOf (counts : List Nat) : Nat := counts.foldl (· * ·) 1

/-- Σ i_l × S_l for emission e: level 0, the first of the lists, varies fastest. -/
def iterOffset : List Nat → List Word → Nat → Word
  | c :: cs, w :: ws, e => BitVec.ofNat 64 (e % c) * w + iterOffset cs ws (e / c)
  | _, _, _ => 0

def Xfer.total (t : Xfer) : Nat := copiesOf t.counts * copyChunks t.x

/-- A chunk: its source and destination addresses and its length. -/
structure Chunk where
  src : Word
  dst : Word
  n : Nat
deriving DecidableEq, Repr

def Xfer.chunk (t : Xfer) (k : Nat) : Chunk :=
  let e := k / copyChunks t.x
  let r := k % copyChunks t.x / rowChunks t.x
  let j := k % copyChunks t.x % rowChunks t.x
  let at_ (b st : Word) (ls : List Word) : Word :=
    b + iterOffset t.counts ls e + BitVec.ofNat 64 r * st + BitVec.ofNat 64 (4096 * j)
  ⟨at_ t.sb t.ss t.lss, at_ t.db t.ds t.lds, Nat.min 4096 (rowLen t.x - 4096 * j)⟩

/-- The bytes of the chunks that precede chunk k. -/
def Xfer.before (t : Xfer) (k : Nat) : Nat :=
  let q := k % copyChunks t.x
  k / copyChunks t.x * copyBytes t.x + q / rowChunks t.x * rowLen t.x + 4096 * (q % rowChunks t.x)

/-- A new strand agent, for a task that starts (R111, R114). -/
def newStrandAgent (core k pid : Nat) : Agent := ⟨.strand, core, k, pid, 0, Vector.replicate 4 0, [], 0, 0, none⟩

end Sys2Proof.Machine
end

