-- ==== Sys2Proof/Machine/Access.lean ====
section
/-!
DEFINITION. How one access reaches memory: the address forms (R96–R102), the two-stage walk and the TLBs (R421–R430), keys (R109,
R442), uncorrectable data (R452), races (R118), in the order of R180 steps 3 to 7. Everything here answers either a Stop or the
data and the next state.
-/
namespace Sys2Proof.Machine

/-- What an access does (Table 21.7, R424). -/
inductive Kind
  | read | write | atomic | fetch
deriving DecidableEq, Repr

def Kind.writes : Kind → Bool
  | .write => true
  | .atomic => true
  | .read => false
  | .fetch => false

/-- A stage-2 failure: the fields of Table 21.7 that the walk knows. -/
structure S2F where
  level : Nat
  kind : Nat
  pkg : Nat
  ipa : Nat
  daddr : Nat
deriving DecidableEq, Repr

/-- Why an instruction or a chunk stops: a trap cause with its ADDR and INFO (Table 20.1), a stage-2 fault (R426), or a
pre-emption, which takes no trap (R204). -/
inductive Stop
  | trap (cause : Nat) (addr info : Word)
  | s2 (f : S2F)
  | preempt
deriving DecidableEq, Repr

/-! Causes (Table 20.1). -/
def cILLEGAL : Nat := 0x01
def cBTARGET : Nat := 0x02
def cPAIRCONF : Nat := 0x03
def cPRIV : Nat := 0x04
def cFMTTAG : Nat := 0x08
def cARITY : Nat := 0x0A
def cPAGE : Nat := 0x10
def cPERM : Nat := 0x11
def cSPACE : Nat := 0x12
def cALIGN : Nat := 0x13
def cSTRIDE : Nat := 0x14
def cUNCORR : Nat := 0x18
def cRACE : Nat := 0x20
def cDETATOM : Nat := 0x21
def cDIGEST : Nat := 0x22
def cSLACKEX : Nat := 0x28
def cTHERMAL : Nat := 0x29
def cCTXFEAT : Nat := 0x30
def cSVC : Nat := 0x38
def cBRK : Nat := 0x39

/-- INFO of a memory fault (Table 20.1). -/
def memInfo (sp : Nat) (k : Kind) : Word :=
  BitVec.ofNat 64 (b2n k.writes + 2 * b2n (decide (k = .fetch)) + 256 * sp)

/-! ## The package physical map (Table 4.1) -/

/-- What lies at a package physical address. -/
inductive Place
  | far
  | vault (core off : Nat)
  | lane (core off : Nat)
  | none
deriving DecidableEq, Repr

def placeOf (pa : Nat) : Place :=
  if pa < 0x001800000000 then .far
  else if 0x200000000000 ≤ pa ∧ pa < 0x203000000000 then
    (let o := (pa - 0x200000000000) % 0x10000000
     if o < 0xA000000 then .vault ((pa - 0x200000000000) / 0x10000000) o else .none)
  else if 0x300000000000 ≤ pa ∧ pa < 0x3000C0000000 then
    .lane ((pa - 0x300000000000) / 0x400000) ((pa - 0x300000000000) % 0x400000)
  else .none

def laneBase (core : Nat) : Nat := 0x300000000000 + core * 0x400000
def vaultBase (core : Nat) : Nat := 0x200000000000 + core * 0x10000000

/-- Is the domain address in this package (R102)? -/
def isLocal (da : Nat) : Bool := decide (da < 2 ^ 56) && decide (da / 2 ^ 48 = Config.packageId)
def isEndpoint (da : Nat) : Bool := decide (2 ^ 56 ≤ da)

/-- The place of a domain address, if it is local. -/
def daPlace (da : Nat) : Place := if isLocal da then placeOf (da % 2 ^ 48) else .none

/-- Structure code of an uncorrectable read (Table 20.1). -/
def structOf (da : Nat) : Nat :=
  match daPlace da with
  | .lane _ _ => 2
  | .vault _ _ => 4
  | .far => 5
  | .none => 5

/-! ## Reading and writing bytes under a key (R109, R110, R443) -/

/-- The key material a byte's 64-byte data unit was written under (R109); none: plaintext, or nothing has written it. -/
def State.keyAt (s : State) (da : Nat) : Option Nat := Map.get? s.memKey (da / 64)

/-- Material as a reading key of Config.noise. -/
def matCode (mat : Option Nat) : Nat := match mat with | some k => k + 1 | none => 0

/-- Byte i of unit u, written under material k, as material mat reads it: the decryption of the stored ciphertext (R109). It is a
free value (log 1), the same at each read until the unit is written. -/
def State.foreign (s : State) (u k : Nat) (mat : Option Nat) (i : Nat) : Byte :=
  Config.noise u k (matCode mat) (leNat (Memory.readN s.mem (64 * u) 64)) i

/-- One byte read under key material mat (none: plaintext memory). The state goes along unchanged. DESIGN CHOICE (log 47): what the device
itself wrote without a key reads as written under every key. -/
def State.readByte (s : State) (da : Nat) (mat : Option Nat) : Byte × State :=
  match s.keyAt da with
  | none => (Memory.read s.mem da, s)
  | some k => if mat = some k then (Memory.read s.mem da, s) else (s.foreign (da / 64) k mat (da % 64), s)

def State.readBytes (s : State) (da : Nat) (mat : Option Nat) : Nat → List Byte × State
  | 0 => ([], s)
  | n + 1 =>
    let (b, s1) := s.readByte da mat
    let (bs, s2) := s1.readBytes (da + 1) mat n
    (b :: bs, s2)

def setKey (m : Map Nat) (u : Nat) : Option Nat → Map Nat
  | some k => Map.set m u k
  | none => Map.erase m u

/-- Memory with the unit of da as material mat reads it: a write of part of a unit re-encrypts the rest as decrypted so (R109). -/
def State.unitAs (s : State) (da : Nat) (mat : Option Nat) : Memory :=
  match s.keyAt da with
  | none => s.mem
  | some k =>
    if mat = some k then s.mem
    else Memory.writeN s.mem (da / 64 * 64) ((List.range 64).map (s.foreign (da / 64) k mat))

/-- One byte written under key material mat. -/
def State.writeByte (s : State) (da : Nat) (mat : Option Nat) (b : Byte) : State :=
  { s with mem := Memory.write (s.unitAs da mat) da b, memKey := setKey s.memKey (da / 64) mat }

/-- The uncorrectable words left after these bytes are written, in address order: a word that is written whole is sound again
(R451). run counts the bytes of the word at hand, next is the address that continues it. -/
def healWords : List Host.Cell → Nat → Nat → Map Nat → Map Nat
  | [], _, _, m => m
  | c :: cs, next, run, m =>
    let run1 := if c.1 % 8 = 0 then 1 else if c.1 = next ∧ run ≠ 0 then run + 1 else 0
    healWords cs (c.1 + 1) run1 (if run1 = 8 then Map.erase m (c.1 / 8) else m)

/-- Bytes with their addresses, from a on. -/
def cellsAt (a : Nat) : List Byte → List Host.Cell
  | [] => []
  | b :: bs => (a, b) :: cellsAt (a + 1) bs

/-- Bytes written at their addresses, in address order. -/
def State.writeCells (s : State) (mat : Option Nat) (cs : List Host.Cell) : State :=
  let s1 := cs.foldl (fun s c => s.writeByte c.1 mat c.2) s
  { s1 with poison := healWords cs 0 0 s1.poison }

def State.writeBytes (s : State) (da : Nat) (mat : Option Nat) (bs : List Byte) : State := s.writeCells mat (cellsAt da bs)

/-- The byte that holds old once the named part of it is that of new. -/
def Part8.put (p : Part8) (old new : Byte) : Byte :=
  match p with
  | .whole => new
  | .low => BitVec.ofNat 8 (old.toNat / 16 * 16 + new.toNat % 16)
  | .high => BitVec.ofNat 8 (new.toNat / 16 * 16 + old.toNat % 16)

/-- A buffered store is performed (R181). It is performed whole: DESIGN CHOICE (log 73) where the spec makes an element that is not
naturally aligned atomic per byte only (R103), so that other observers never see part of it. A nibble joins what its byte holds then,
as the store's key reads it; no word becomes sound by it. -/
def State.perform (s : State) (p : PStore) : State :=
  match p.part with
  | .whole => s.writeCells p.key p.bytes
  | _ => p.bytes.foldl (fun s c => s.writeByte c.1 p.key (p.part.put (s.readByte c.1 p.key).1 c.2)) s

/-- The structure of the first uncorrectable word among those that the n bytes at da touch (R452). -/
def State.poisoned (s : State) (da : Nat) : Nat → Option Nat
  | 0 => none
  | n + 1 =>
    match Map.get? s.poison (da / 8) with
    | some st => some st
    | none => s.poisoned (da + 1) n

/-- The structure of the first uncorrectable word among those that the n bytes at da touch, leaving out the bytes that own answers
true for. -/
def State.poisonedBut (s : State) (own : Nat → Bool) (da : Nat) : Nat → Option Nat
  | 0 => none
  | n + 1 =>
    match (if own da then none else Map.get? s.poison (da / 8)) with
    | some st => some st
    | none => s.poisonedBut own (da + 1) n

/-- The youngest buffered store of the strand that covers da (R116): its byte, what of it is written, its key. -/
def buffered (stores : List PStore) (da : Nat) : Option (Byte × Part8 × Option Nat) :=
  stores.reverse.findSome? (fun p => (p.bytes.find? (fun c => c.1 == da)).map (fun c => (c.2, p.part, p.key)))

/-- A load of da under key material mat takes its byte from a buffered store, and reads no memory. -/
def ownByte (stores : List PStore) (da : Nat) (mat : Option Nat) : Bool :=
  match buffered stores da with
  | some (_, part, k) => decide (part = .whole ∧ k = mat)
  | none => false

/-- One byte as the strand sees it: its own youngest buffered store, else memory. A store under another key, or of a nibble, is read as
it will stand in memory. -/
def State.loadByte (s : State) (da : Nat) (mat : Option Nat) : Byte × State :=
  match buffered s.me.stores da with
  | some (b, part, k) =>
    if part = .whole ∧ k = mat then (b, s) else (((s.me.stores.foldl State.perform s).readByte da mat).1, s)
  | none => s.readByte da mat

def State.loadBytes (s : State) (da : Nat) (mat : Option Nat) : Nat → List Byte × State
  | 0 => ([], s)
  | n + 1 =>
    let (b, s1) := s.loadByte da mat
    let (bs, s2) := s1.loadBytes (da + 1) mat n
    (b :: bs, s2)

/-! ## The two-stage walk (R421–R427) -/

def eV (e : Nat) : Bool := e.testBit 0
def eLeaf (e : Nat) : Bool := e.testBit 1
def eR (e : Nat) : Bool := e.testBit 2
def eW (e : Nat) : Bool := e.testBit 3
def eX (e : Nat) : Bool := e.testBit 4
def eCmp (e : Nat) : Nat := bits e 6 5
def eNorace (e : Nat) : Bool := e.testBit 7
def eGlob (e : Nat) : Bool := e.testBit 8
/-- ADDR as an address: bits [56:16]. -/
def eAddr (e : Nat) : Nat := bits e 52 12 * 65536
def eKey (e : Nat) : Nat := bits e 63 53

/-- R424: the entry makes the walk fail. stage1 tells which stage it belongs to. -/
def entryBad (stage1 : Bool) (level e : Nat) : Bool :=
  !eV e || decide (bits e 11 9 ≠ 0) || (eLeaf e && decide (level = 2)) || (!eLeaf e && decide (level = 0))
    || (eLeaf e && decide (level = 1) && decide (bits (eAddr e) 28 16 ≠ 0))
    || (!eLeaf e && decide (eKey e ≠ 0 ∨ bits e 8 2 ≠ 0))
    || (stage1 && eLeaf e && decide (eCmp e = 3))
    || (!stage1 && decide (eKey e ≠ 0 ∨ bits e 8 5 ≠ 0))

/-- Table index of an address at a level (R422). -/
def tableIndex (level a : Nat) : Nat := a / 2 ^ (16 + 13 * level) % 8192

/-- The page offset under a leaf of this level. -/
def pageOffset (level a : Nat) : Nat := a % 2 ^ (16 + 13 * level)

structure Perm where
  r : Bool
  w : Bool
  x : Bool
deriving DecidableEq, Repr

def Perm.allows (p : Perm) : Kind → Bool
  | .read => p.r
  | .write => p.w
  | .atomic => p.r && p.w
  | .fetch => p.x

/-- What a walk answers when it fails: a stage-2 fault, an uncorrectable table entry (its structure), or a stage-1 failure. -/
inductive WalkFail
  | s2 (f : S2F)
  | uncorr (structure_ : Nat)
  | page
deriving DecidableEq, Repr

/-- The key material under which a table entry at domain address a is read: the slot of the package that holds it (R443); none: this
package's slot is empty. -/
def tableKey (s : State) (a key : Nat) : Option Nat :=
  if isLocal a || isEndpoint a then Map.get? s.keys key else some (Config.remoteSlot (a / 2 ^ 48) key)

/-- The stage-2 entry for ipa in a table of a level, read under the function's table key and checked. fk is the KIND of
Table 21.7. -/
def entry2 (s : State) (v : VF) (ipa fk level table : Nat) : Except WalkFail (Nat × State) :=
  match tableKey s (table + 8 * tableIndex level ipa) v.s2key with
  | none => .error (.s2 ⟨level, fk, 0, ipa, 0⟩)
  | some mat =>
    let a := table + 8 * tableIndex level ipa
    match s.poisoned a 8 with
    | some st => .error (.uncorr st)
    | none =>
      let r := s.readBytes a (some mat) 8
      if entryBad false level (leNat r.1) then .error (.s2 ⟨level, fk, 0, ipa, 0⟩) else .ok (leNat r.1, r.2)

/-- What a stage-2 leaf e of a level answers: the address, the level and the permissions. -/
def leaf2 (ipa level e : Nat) (s : State) : Nat × Nat × Perm × State := (eAddr e + pageOffset level ipa, level, ⟨eR e, eW e, eX e⟩, s)

/-- Stage 2 from one level down. -/
def walk2 (s : State) (v : VF) (ipa fk : Nat) : Nat → Nat → Except WalkFail (Nat × Nat × Perm × State)
  | 0, table =>
    match entry2 s v ipa fk 0 table with
    | .error f => .error f
    | .ok r => if eLeaf r.1 then .ok (leaf2 ipa 0 r.1 r.2) else .error (.s2 ⟨0, fk, 0, ipa, 0⟩)
  | l + 1, table =>
    match entry2 s v ipa fk (l + 1) table with
    | .error f => .error f
    | .ok r => if eLeaf r.1 then .ok (leaf2 ipa (l + 1) r.1 r.2) else walk2 r.2 v ipa fk l (eAddr r.1)

/-- R427 on a translated address: LEVEL and PKG of the stage-2 fault that refuses it. -/
def ownership (p : Part) (da : Nat) (write : Bool) : Option (Nat × Nat) :=
  if isEndpoint da then none
  else if isLocal da then
    match placeOf (da % 2 ^ 48) with
    | .lane core off => if p.ownsGroup core (off / 0x80000) then none else some (3, 0)
    | .vault core off => if p.ownsGroup core (off / 0x1400000) then none else some (3, 0)
    | .far => if 0x0017C0000000 ≤ da % 2 ^ 48 then some (3, 0) else none
    | .none => none
  else if Config.remoteGrants (da / 2 ^ 48) p.tclass da write then none else some (4, da / 2 ^ 48)

/-- R101: does the map hold something at this address? Table 4.1 is that of every package; an endpoint maps its own memory. -/
def mapped (da : Nat) : Bool := isEndpoint da || decide (placeOf (da % 2 ^ 48) ≠ .none)

/-- Is the address in lane memory, of this package or another? -/
def isLane (da : Nat) : Bool := !isEndpoint da && (match placeOf (da % 2 ^ 48) with | .lane _ _ => true | _ => false)

/-- Structure code where the address names lane memory or a vault of a fenced die (R455). -/
def fencedPlace (fenced da : Nat) : Option Nat :=
  match daPlace da with
  | .lane core _ => if fenced.testBit (dieOf core) then some 2 else none
  | .vault core _ => if fenced.testBit (dieOf core) then some 4 else none
  | .far => none
  | .none => none

/-- Translation of an IPA for an access that needs k at stage 2 (R421, R424, R426): the address, the level of the leaf, its permissions. -/
def stage2 (s : State) (v : VF) (ipa : Nat) (k : Kind) (fk : Nat) : Except WalkFail (Nat × Nat × Perm × State) :=
  if 2 ^ 55 ≤ ipa then .error (.s2 ⟨2, fk, 0, ipa, 0⟩)
  else
    match walk2 s v ipa fk 2 v.s2root with
    | .error f => .error f
    | .ok (da, level, p, s1) => if p.allows k then .ok (da, level, p, s1) else .error (.s2 ⟨level, fk, 0, ipa, 0⟩)

/-- A finished stage-1 walk. -/
structure Leaf1 where
  entry : Nat
  level : Nat
deriving DecidableEq, Repr

/-- A fenced die, ownership, then the map (R180 step 4, R427, R455), on the place of a stage-1 table entry: none where it may be
read. -/
def tableRefused (s : State) (p : Part) (ipa a : Nat) : Option WalkFail :=
  match fencedPlace s.tele.fenced a with
  | some st => some (.uncorr st)
  | none =>
    match ownership p a false with
    | some (l, pk) => some (.s2 ⟨l, 3, pk, ipa, a⟩)
    | none => if mapped a then none else some .page

/-- The stage-1 entry for va in a table of a level: its own IPA is translated first (KIND 3) and the place checked, then it is read
under the context's table key and checked. -/
def entry1 (s : State) (p : Part) (v : VF) (c : Ctx) (va level table : Nat) : Except WalkFail (Nat × State) :=
  let ipa := table + 8 * tableIndex level va
  match stage2 s v ipa .read 3 with
  | .error f => .error f
  | .ok (a, _, _, s1) =>
    match tableRefused s p ipa a with
    | some f => .error f
    | none =>
      match tableKey s a c.tkey with
      | none => .error .page
      | some mat =>
        match s1.poisoned a 8 with
        | some st => .error (.uncorr st)
        | none =>
          let r := s1.readBytes a (some mat) 8
          if entryBad true level (leNat r.1) then .error .page else .ok (leNat r.1, r.2)

/-- Stage 1 from one level down. -/
def walk1 (s : State) (p : Part) (v : VF) (c : Ctx) (va : Nat) : Nat → Nat → Except WalkFail (Leaf1 × State)
  | 0, table =>
    match entry1 s p v c va 0 table with
    | .error f => .error f
    | .ok r => if eLeaf r.1 then .ok (⟨r.1, 0⟩, r.2) else .error .page
  | l + 1, table =>
    match entry1 s p v c va (l + 1) table with
    | .error f => .error f
    | .ok r => if eLeaf r.1 then .ok (⟨r.1, l + 1⟩, r.2) else walk1 r.2 p v c va l (eAddr r.1)

/-- R442: the leaf's key lies in the function's range and its slot is loaded. -/
def keyOk (s : State) (v : VF) (key : Nat) : Bool :=
  decide (v.kbase ≤ key ∧ key < v.kbase + v.kcnt) && (Map.get? s.keys key).isSome

/-- A place that an access has reached: domain address, key material (none: plaintext), whether races are checked (R121),
whether the page is compressed (R107), and the key id (R110). -/
structure Loc where
  da : Nat
  mat : Option Nat
  checked : Bool
  cmp : Bool
  kid : Nat
deriving DecidableEq, Repr

/-- The key material of a key id at an address: keys act on far memory and vaults (R109, R110), with the slot of the home package (R443).
DESIGN CHOICE (log 6): what another package holds in its slots is a constant of the run. -/
def matFor (s : State) (da key : Nat) : Option Nat :=
  if isEndpoint da || isLane da then none
  else if isLocal da then Map.get? s.keys key
  else some (Config.remoteSlot (da / 2 ^ 48) key)

/-- CMP acts on far memory and vaults; on lane memory and endpoints it has no effect (R106). -/
def cmpAt (da : Nat) (cmp : Bool) : Bool := cmp && !isEndpoint da && !isLane da

def tlbHit (vfn slot pid page : Nat) (k : Kind) (e : TlbEntry) : Bool :=
  decide (e.vfn = vfn) && decide (e.pid = pid) && (e.glob || decide (e.slot = slot))
    && decide (e.page = page) && Perm.allows ⟨e.r, e.w, e.x⟩ k

/-- First in, first out (log 10). -/
def tlbInsert (limit : Nat) (t : List TlbEntry) (e : TlbEntry) : List TlbEntry :=
  (t ++ [e]).drop ((t.length + 1) - limit)

/-- Checks after a translation: a fenced die, ownership, then the map (R180 step 4, R427, R455). -/
def afterWalk (fenced : Nat) (p : Part) (sp : Nat) (va : Word) (ipa da : Nat) (k : Kind) : Except Stop Unit :=
  match fencedPlace fenced da with
  | some st => .error (.trap cUNCORR va (BitVec.ofNat 64 st))
  | none =>
  match ownership p da k.writes with
  | some (l, pk) => .error (.s2 ⟨l, (match k with | .read => 0 | .write => 1 | .atomic => 1 | .fetch => 2), pk, ipa, da⟩)
  | none => if mapped da then .ok () else .error (.trap cPAGE va (memInfo sp k))

/-- KIND of Table 21.7. -/
def Kind.s2 : Kind → Nat
  | .read => 0
  | .write => 1
  | .atomic => 1
  | .fetch => 2

/-- Steps 3 and 4 of R180 for one page: VA translation for partition pid's context in slot (R421–R429): TLBs of the core and of its
cluster, then the walk. The answer's key, permissions and attributes come from the stage-1 leaf (R424); it also says whether that leaf
permits k, in which case the translation is cached. A fault's ADDR is ea, the address of the access. -/
def translateAt (s : State) (pid slot core : Nat) (ea va : Word) (k : Kind) : Except Stop (Loc × Bool × State) :=
  let p := s.part pid
  let c := Map.getD p.ctxs slot Ctx.reset
  let v := s.vf c.vfn
  let info := memInfo 0 k
  if 2 ^ 55 ≤ va.toNat then .error (.trap cPAGE ea info)
  else
    let page := va.toNat / 65536
    let co := s.coreOf core
    let cl := s.cluster (clusterOf core)
    match (co.tlb ++ cl.tlb).find? (tlbHit c.vfn slot pid page k) with
    | some e =>
      let da := e.da + va.toNat % 65536
      match afterWalk s.tele.fenced p 0 ea (e.ipa + va.toNat % 65536) da k with
      | .error t => .error t
      | .ok () => .ok (⟨da, matFor s da e.key, !e.norace && !isEndpoint da, cmpAt da e.cmp, e.key⟩, true, s)
    | none =>
      match walk1 s p v c va.toNat 2 c.root with
      | .error (.s2 f) => .error (.s2 f)
      | .error (.uncorr st) => .error (.trap cUNCORR ea (BitVec.ofNat 64 st))
      | .error .page => .error (.trap cPAGE ea info)
      | .ok (l, s1) =>
        let e := l.entry
        if keyOk s v (eKey e) = false then .error (.trap cPAGE ea info)
        else
          let ipa := eAddr e + pageOffset l.level va.toNat
          match stage2 s1 v ipa k k.s2 with
          | .error (.s2 f) => .error (.s2 f)
          | .error (.uncorr st) => .error (.trap cUNCORR ea (BitVec.ofNat 64 st))
          | .error .page => .error (.trap cPAGE ea info)
          | .ok (da, level2, p2, s2) =>
            match afterWalk s.tele.fenced p 0 ea ipa da k with
            | .error t => .error t
            | .ok () =>
              let l1 : Loc := ⟨da, matFor s da (eKey e), !eNorace e && !isEndpoint da, cmpAt da (decide (eCmp e ≠ 0)), eKey e⟩
              if Perm.allows ⟨eR e, eW e, eX e⟩ k = false then .ok (l1, false, s2)
              else
                let ent : TlbEntry :=
                  ⟨c.vfn, slot, eGlob e, page, decide (l.level = 1), ipa - ipa % 65536, decide (level2 = 1), da - da % 65536, eKey e, eR e && p2.r, eW e && p2.w, eX e && p2.x,
                    eNorace e, decide (eCmp e ≠ 0), pid⟩
                let co := s2.coreOf core
                let s3 := s2.setCore core { co with tlb := tlbInsert 128 co.tlb ent }
                let cl := s3.cluster (clusterOf core)
                let s4 := s3.setCluster (clusterOf core) { cl with tlb := tlbInsert 4096 cl.tlb ent }
                .ok (l1, true, s4)

/-- Steps 3 to 5 of R180 for an address of one page. -/
def translate (s : State) (pid slot core : Nat) (va : Word) (k : Kind) : Except Stop (Loc × State) :=
  match translateAt s pid slot core va va k with
  | .error t => .error t
  | .ok (l, allowed, s1) => if allowed then .ok (l, s1) else .error (.trap cPERM va (memInfo 0 k))

/-! ## Address forms (R97–R100) -/

/-- R100: the core-id field read as a displacement from core (x, y); none: outside the grid. -/
def localCore (core field : Nat) : Option Nat :=
  let x : Int := (coreX core : Int) + sintOf 5 (field % 32)
  let y : Int := (coreY core : Int) + sintOf 5 (field / 32)
  if 0 ≤ x ∧ x < 32 ∧ 0 ≤ y ∧ y < 24 then some (coreAt x.toNat y.toNat) else none

/-- The core an LM or VT address names: its field, or with LOCAL the displaced core. -/
def namedCore (core : Nat) (loc : Bool) (field : Nat) : Option Nat := if loc then localCore core field else some field

/-- Effective address with LOCAL applied (R180); an address outside the grid keeps its field. -/
def effLocal (core sp : Nat) (loc : Bool) (ea : Word) : Word :=
  if loc && decide (sp ≠ 0) then
    let lo := if sp = 1 then 22 else 28
    match localCore core (bits ea.toNat (lo + 9) lo) with
    | some c => BitVec.ofNat 64 (putBits ea.toNat (lo + 9) lo c)
    | none => ea
  else ea

/-- The core an LM or VT access reaches; for VA the acting core. -/
def targetCore (core sp : Nat) (loc : Bool) (ea : Word) : Nat :=
  if sp = 0 then core
  else (namedCore core loc (if sp = 1 then bits ea.toNat 31 22 else bits ea.toNat 37 28)).getD core

/-- R98: an LM address of n bytes for partition p. -/
def lmPlace (p : Part) (core : Nat) (loc : Bool) (ea : Word) (n : Nat) : Option Nat :=
  if 2 ^ 32 ≤ ea.toNat then none
  else
    match namedCore core loc (bits ea.toNat 31 22) with
    | none => none
    | some c =>
      let off := bits ea.toNat 21 0
      if p.owns c && decide (off + n ≤ 0x80000 * p.g) then some (laneBase c + 0x80000 * p.k0 c + off) else none

/-- R99: a VT address of n bytes for partition p and context c. -/
def vtPlace (p : Part) (ctx : Ctx) (core : Nat) (loc : Bool) (ea : Word) (n : Nat) : Option Nat :=
  if 2 ^ 38 ≤ ea.toNat then none
  else
    match namedCore core loc (bits ea.toNat 37 28) with
    | none => none
    | some c =>
      let off := bits ea.toNat 27 0
      if p.owns c && decide (off + n ≤ ctx.vwlim) then some (vaultBase c + 0x1400000 * p.k0 c + ctx.vwbase + off) else none

/-- A piece of an access: a place and how many bytes lie there. -/
structure Piece where
  loc : Loc
  n : Nat
deriving DecidableEq, Repr

/-- Who accesses: partition, context slot, core (for LOCAL and the TLB). -/
structure Who where
  pid : Nat
  slot : Nat
  core : Nat
deriving DecidableEq, Repr

def State.who (s : State) : Who := ⟨s.cur.pid, s.myPart.slot, s.cur.core⟩

/-- Steps 3 to 5 of R180 for n bytes at ea of space sp (n is at most one page): the pieces it falls into, in address order. An access
over two pages takes each step for both pages before the next one (R180, R235). DESIGN CHOICE (log 75): while the slot that a vault window's key id names is empty, which the spec leaves open, a VT access reaches
the vault without key material. -/
def resolve (s : State) (w : Who) (sp : Nat) (loc : Bool) (ea : Word) (n : Nat) (k : Kind) : Except Stop (List Piece × State) :=
  let p := s.part w.pid
  if sp = 0 then
    let first := Nat.min n (65536 - ea.toNat % 65536)
    let ea2 := ea + BitVec.ofNat 64 first
    if first = n then
      match translate s w.pid w.slot w.core ea k with
      | .error t => .error t
      | .ok (l, s1) => .ok ([⟨l, n⟩], s1)
    else if 2 ^ 55 ≤ ea2.toNat then .error (.trap cPAGE ea (memInfo 0 k))
    else
      match translateAt s w.pid w.slot w.core ea ea k with
      | .error t => .error t
      | .ok (l, ok1, s1) =>
        match translateAt s1 w.pid w.slot w.core ea ea2 k with
        | .error t => .error t
        | .ok (l2, ok2, s2) =>
          if ok1 && ok2 then .ok ([⟨l, first⟩, ⟨l2, n - first⟩], s2) else .error (.trap cPERM ea (memInfo 0 k))
  else if sp = 1 then
    match lmPlace p w.core loc ea n with
    | some da => .ok ([⟨⟨da, none, true, false, 0⟩, n⟩], s)
    | none => .error (.trap cSPACE (effLocal w.core sp loc ea) (memInfo sp k))
  else
    let ctx := Map.getD p.ctxs w.slot Ctx.reset
    match vtPlace p ctx w.core loc ea n with
    | some da => .ok ([⟨⟨da, Map.get? s.keys ctx.vwkey, true, false, ctx.vwkey⟩, n⟩], s)
    | none => .error (.trap cSPACE (effLocal w.core sp loc ea) (memInfo sp k))

/-- The bytes that a partial write of n bytes at a reads: its first and its last 256-byte block, where it does not cover them
(R107). Start and length of each. -/
def partialBlocks (a n : Nat) : List (Nat × Nat) :=
  if n = 0 then []
  else
    let one (b : Nat) : List (Nat × Nat) := if a ≤ 256 * b ∧ 256 * (b + 1) ≤ a + n then [] else [(256 * b, 256)]
    if a / 256 = (a + n - 1) / 256 then one (a / 256) else one (a / 256) ++ one ((a + n - 1) / 256)

/-- Step 6 of R180: an uncorrectable word among those read. A write to a compressed page reads the blocks that it covers only in
part; a full-block write reads none (R107): full lists, by their numbers in a 64 KiB page, the blocks that the access's
instruction writes whole (R238). An atomic reads its bytes and, on a compressed page, their block. A load reads no memory for the bytes
that the stores of own supply (R116). -/
def piecesPoisoned (s : State) (ps : List Piece) (k : Kind) (full : List Nat := []) (own : List PStore := []) : Option Nat :=
  ps.findSome? (fun p =>
    let blocks (_ : Unit) : Option Nat :=
      if p.loc.cmp then
        ((partialBlocks p.loc.da p.n).filter (fun b => !full.contains (b.1 / 256 % 256))).findSome? (fun b => s.poisoned b.1 b.2)
      else none
    match k with
    | .write => blocks ()
    | .atomic => (s.poisoned p.loc.da p.n).or (blocks ())
    | .read => s.poisonedBut (fun a => ownByte own a p.loc.mat) p.loc.da p.n
    | .fetch => s.poisoned p.loc.da p.n)

/-- The blocks of the checked pieces (R114, R121). -/
def piecesBlocks (ps : List Piece) : List Nat := ps.flatMap (fun p => if p.loc.checked then blocksOf p.loc.da p.n else [])

/-- The issuer of transfer tid has observed its completion (R117, R280). -/
def State.observed (s : State) (tid : Nat) : Bool := (Map.getD s.agents tid noAgent).doneAt.isSome

/-- The blocks of one side of a chunk that lie in memory and are checked for races; none where its addresses do not translate. The walk
leaves no trace. -/
def chunkBlocks (s : State) (t : Xfer) (sp : Nat) (loc : Bool) (a : Word) (n : Nat) (k : Kind) : List Nat :=
  match resolve s ⟨t.pid, (s.part t.pid).slot, t.core⟩ sp loc a n k with
  | .ok (ps, _) => piecesBlocks ps
  | .error _ => []

/-- A transfer of strand agent id, one with a chunk mask, that has yet to write one of these blocks, or, where the access writes, to read
one: from its issue until its completion is observed, its region is open to its issuer in every chunk whose bit is clear, those of
copies not yet emitted and of a transfer that has stopped among them (R114, R117, R124, R131 d). Blocks are compared as they lie in the
domain. -/
def inFlight (s : State) (id : Nat) (blocks : List Nat) (wr : Bool) : Option Nat :=
  (s.xfers.find? (fun c =>
    let t := c.2
    decide (t.uid = id) && decide (t.x.cm.val ≠ 0) && !s.observed c.1
      && (List.range (t.total - t.next)).any (fun i =>
        let k := t.chunk (t.next + i)
        (chunkBlocks s t t.x.dsp.val t.x.dloc k.dst k.n .write).any blocks.contains
          || (wr && (chunkBlocks s t t.x.ssp.val t.x.sloc k.src k.n .read).any blocks.contains)))).map (·.1)

/-- The agent with which a plain access of strand agent id conflicts (R118). -/
def conflictOf (s : State) (id : Nat) (ps : List Piece) (wr : Bool) : Option Nat :=
  match findConflict s id (piecesBlocks ps) wr with
  | some f => some f.uid
  | none => if (piecesBlocks ps).isEmpty then none else inFlight s id (piecesBlocks ps) wr

/-- Steps 3 to 7 of R180 for agent id: the pieces of an access that may be performed. A plain access is checked for races (R118);
the accesses of R115 are not. -/
def checkAccess (s : State) (w : Who) (id : Nat) (plain : Bool) (sp : Nat) (loc : Bool) (ea : Word) (n : Nat) (k : Kind)
    (full : List Nat := []) : Except Stop (List Piece × State) :=
  match resolve s w sp loc ea n k with
  | .error t => .error t
  | .ok (ps, s1) =>
    match piecesPoisoned s1 ps k full (if id = s.me.uid then s.me.stores else []) with
    | some st => .error (.trap cUNCORR (effLocal w.core sp loc ea) (BitVec.ofNat 64 st))
    | none =>
      match if plain then conflictOf s1 id ps k.writes else none with
      | some a => .error (.trap cRACE (effLocal w.core sp loc ea) (raceInfo s1 a))
      | none => .ok (ps, s1)

/-- The blocks of an access enter its agent's footprint (R114). -/
def State.footPieces (s : State) (id : Nat) (ps : List Piece) (wr : Bool) : State :=
  s.addFoot id (if wr then [] else piecesBlocks ps) (if wr then piecesBlocks ps else []) 0

/-- An access that is performed as it is admitted: a plain one enters the footprint (R114). -/
def permit (s : State) (w : Who) (id : Nat) (plain : Bool) (sp : Nat) (loc : Bool) (ea : Word) (n : Nat) (k : Kind)
    (full : List Nat := []) : Except Stop (List Piece × State) :=
  match checkAccess s w id plain sp loc ea n k full with
  | .error t => .error t
  | .ok (ps, s1) => .ok (ps, if plain then s1.footPieces id ps k.writes else s1)

/-- The bytes of the pieces as the acting strand sees them. -/
def loadPieces (s : State) : List Piece → List Byte × State
  | [] => ([], s)
  | p :: ps =>
    let (bs, s1) := s.loadBytes p.loc.da p.loc.mat p.n
    let (cs, s2) := loadPieces s1 ps
    (bs ++ cs, s2)

/-- The bytes of the pieces in memory. -/
def readPieces (s : State) : List Piece → List Byte × State
  | [] => ([], s)
  | p :: ps =>
    let (bs, s1) := s.readBytes p.loc.da p.loc.mat p.n
    let (cs, s2) := readPieces s1 ps
    (bs ++ cs, s2)

/-- The stores that write these bytes over the pieces. -/
def storesOf : List Piece → List Byte → List PStore
  | [], _ => []
  | p :: ps, bs => ⟨cellsAt p.loc.da (bs.take p.n), .whole, p.loc.mat⟩ :: storesOf ps (bs.drop p.n)

/-- Performs stores at once. -/
def State.performAll (s : State) (ps : List PStore) : State := ps.foldl State.perform s

/-- The acting strand's store buffer drains, oldest first (R130, R181). Log 63. -/
def State.drain (s : State) : State :=
  let s1 := s.performAll s.me.stores
  s1.setMe { s1.me with stores := [] }

end Sys2Proof.Machine
end

