-- ==== Sys2Proof/Machine/Num.lean ====
section
/-!
DEFINITION. Exact values, number formats, rounding, the generator and the elementary functions (chapter 03, R72–R85).
An exact value is a signed fraction; sticky says that the true value lies strictly above the fraction, by less than anything a
rounding here can tell (used for square roots and for exp2/log2, whose results are irrational; log 9).
-/
namespace Sys2Proof.Machine

/-- An exact real, ±inf or NaN (R82). sig: a signalling NaN (R74). -/
inductive XV
  | nan (sig : Bool)
  | inf (neg : Bool)
  | fin (neg : Bool) (num den : Nat) (sticky : Bool)
deriving DecidableEq, Repr

/-- The exception flags of FPFLAGS (Table 2.6). -/
def flagNV : Nat := 1
def flagDZ : Nat := 2
def flagOF : Nat := 4
def flagUF : Nat := 8
def flagNX : Nat := 16

def XV.zero (neg : Bool) : XV := .fin neg 0 1 false
def XV.ofNat (n : Nat) : XV := .fin false n 1 false
def XV.ofInt (i : Int) : XV := .fin (decide (i < 0)) i.natAbs 1 false
def XV.isNan : XV → Bool | .nan _ => true | _ => false
def XV.isSig : XV → Bool | .nan b => b | _ => false
def XV.isZero : XV → Bool | .fin _ n _ s => decide (n = 0) && !s | _ => false
def XV.isInf : XV → Bool | .inf _ => true | _ => false
def XV.neg : XV → Bool | .nan _ => false | .inf b => b | .fin b _ _ _ => b

def XV.negate : XV → XV
  | .nan s => .nan s
  | .inf b => .inf (!b)
  | .fin b n d s => .fin (!b) n d s

/-- NV for a signalling operand (R74). -/
def sigFlag (a : XV) : Nat := if a.isSig then flagNV else 0

/-- Brings two fractions to one denominator. -/
def commonDen (n1 d1 n2 d2 : Nat) : Nat × Nat × Nat :=
  if d1 = d2 then (n1, n2, d1)
  else if d2 % d1 = 0 then (n1 * (d2 / d1), n2, d2)
  else if d1 % d2 = 0 then (n1, n2 * (d1 / d2), d1)
  else (n1 * d2, n2 * d1, d1 * d2)

/-- The exact sum; a zero sum is −0 if every term is −0, else +0, except −0 under RDN (R73). inf − inf is invalid. -/
def addX (rdn : Bool) (a b : XV) : XV × Nat :=
  match a, b with
  | .nan _, _ => (.nan false, 0)
  | _, .nan _ => (.nan false, 0)
  | .inf x, .inf y => if x = y then (.inf x, 0) else (.nan false, flagNV)
  | .inf x, _ => (.inf x, 0)
  | _, .inf y => (.inf y, 0)
  | .fin sa na da ka, .fin sb nb db kb =>
    let (x, y, d) := commonDen na da nb db
    if sa = sb then
      if x + y = 0 && !ka && !kb then (XV.zero (sa || rdn), 0) else (.fin sa (x + y) d (ka || kb), 0)
    else if x = y then (XV.zero rdn, 0)
    else if x > y then (.fin sa (x - y) d (ka || kb), 0)
    else (.fin sb (y - x) d (ka || kb), 0)

/-- The exact product; inf × 0 is invalid. -/
def mulX (a b : XV) : XV × Nat :=
  match a, b with
  | .nan _, _ => (.nan false, 0)
  | _, .nan _ => (.nan false, 0)
  | .inf x, b => if b.isZero then (.nan false, flagNV) else (.inf (x != b.neg), 0)
  | a, .inf y => if a.isZero then (.nan false, flagNV) else (.inf (a.neg != y), 0)
  | .fin sa na da ka, .fin sb nb db kb => (.fin (sa != sb) (na * nb) (da * db) (ka || kb), 0)

/-- The exact quotient; x/0 is an infinity with DZ, 0/0 and inf/inf are invalid. -/
def divX (a b : XV) : XV × Nat :=
  match a, b with
  | .nan _, _ => (.nan false, 0)
  | _, .nan _ => (.nan false, 0)
  | .inf _, .inf _ => (.nan false, flagNV)
  | .inf x, .fin sb _ _ _ => (.inf (x != sb), 0)
  | .fin sa _ _ _, .inf y => (XV.zero (sa != y), 0)
  | .fin sa na da _, .fin sb nb db _ =>
    if nb = 0 then (if na = 0 then (.nan false, flagNV) else (.inf (sa != sb), flagDZ))
    else if na = 0 then (XV.zero (sa != sb), 0)
    else (.fin (sa != sb) (na * db) (da * nb) false, 0)

/-- Integer square root by Newton's method from above; the fuel suffices for every size used here. -/
def isqrtLoop (n : Nat) : Nat → Nat → Nat
  | 0, x => x
  | f + 1, x =>
    let y := (x + n / x) / 2
    if y < x then isqrtLoop n f y else x

def isqrt (n : Nat) : Nat := if n = 0 then 0 else isqrtLoop n 200 (2 ^ (Nat.log2 n / 2 + 1))

/-- √a (R73). −0 gives −0; below zero is invalid. -/
def sqrtX (a : XV) : XV × Nat :=
  match a with
  | .nan _ => (.nan false, 0)
  | .inf true => (.nan false, flagNV)
  | .inf false => (.inf false, 0)
  | .fin s n d _ =>
    if n = 0 then (XV.zero s, 0)
    else if s then (.nan false, flagNV)
    else
      let k := 400 + Nat.log2 d
      let r := isqrt (n * 2 ^ (2 * k) / d)
      (.fin false r (2 ^ k) (decide (r * r * d ≠ n * 2 ^ (2 * k))), 0)

/-- 1/√a (R73): ±0 gives ±inf with DZ (−0 gives −inf), below zero is invalid. -/
def rsqrtX (a : XV) : XV × Nat :=
  match a with
  | .nan _ => (.nan false, 0)
  | .inf true => (.nan false, flagNV)
  | .inf false => (XV.zero false, 0)
  | .fin s n d _ =>
    if n = 0 then (.inf s, flagDZ)
    else if s then (.nan false, flagNV)
    else
      let k := 400 + Nat.log2 n
      let r := isqrt (d * 2 ^ (2 * k) / n)
      (.fin false r (2 ^ k) (decide (r * r * n ≠ d * 2 ^ (2 * k))), 0)

/-- Working precision of exp2 and log2 (log 9). -/
def expBits : Nat := 320

/-- Multiplies acc by 2^(2^-j) for each set bit j of the fraction f, top bit first; t is 2^(2^-j) in expBits bits. -/
def exp2Loop (f : Nat) : Nat → Nat → Nat → Nat
  | 0, _, acc => acc
  | j + 1, t, acc =>
    let t' := isqrt (t * 2 ^ expBits)
    exp2Loop f j t' (if f.testBit j then acc * t' / 2 ^ expBits else acc)

/-- 2^a (R73): exact for integers, else a sticky value of expBits bits; arguments beyond ±8192 act as ±8192. -/
def exp2X (a : XV) : XV × Nat :=
  match a with
  | .nan _ => (.nan false, 0)
  | .inf true => (XV.zero false, 0)
  | .inf false => (.inf false, 0)
  | .fin s n d _ =>
    let q := n / d
    let r := n % d
    if q ≥ 8192 then (if s then (.fin false 1 (2 ^ 8192) true, 0) else (.fin false (2 ^ 8192) 1 false, 0))
    else if r = 0 then (if s then (.fin false 1 (2 ^ q) false, 0) else (.fin false (2 ^ q) 1 false, 0))
    else
      -- a = i + f with f in (0, 1): i = q or −q − 1
      let fnum := if s then d - r else r
      let f := fnum * 2 ^ expBits / d
      let m := exp2Loop f expBits (2 ^ (expBits + 1)) (2 ^ expBits)
      -- a fraction below the working precision still lies strictly above, or below, the integer power
      let m := if f = 0 then 2 ^ expBits else m
      if s then (.fin false m (2 ^ (expBits + q + 1)) true, 0) else (.fin false (m * 2 ^ q) (2 ^ expBits) true, 0)

/-- The first n binary digits of log2 z, for z in [1, 2) held in w bits. -/
def log2Loop (w : Nat) : Nat → Nat → Nat → Nat
  | 0, _, acc => acc
  | n + 1, z, acc =>
    let y := z * z / 2 ^ w
    if y ≥ 2 ^ (w + 1) then log2Loop w n (y / 2) (2 * acc + 1) else log2Loop w n y (2 * acc)

/-- floor(log2(n/d)) for positive n, d. -/
def ilog2 (n d : Nat) : Int :=
  let k : Int := (Nat.log2 n : Int) - (Nat.log2 d : Int)
  -- 2^k ≤ n/d or one below
  let ok : Bool := if k ≥ 0 then decide (d * 2 ^ k.toNat ≤ n) else decide (d ≤ n * 2 ^ (-k).toNat)
  if ok then k else k - 1

/-- log2 a (R73): exact for powers of two, else sticky; ±0 gives −inf with DZ; below zero is invalid. -/
def log2X (a : XV) : XV × Nat :=
  match a with
  | .nan _ => (.nan false, 0)
  | .inf true => (.nan false, flagNV)
  | .inf false => (.inf false, 0)
  | .fin s n d _ =>
    if n = 0 then (.inf true, flagDZ)
    else if s then (.nan false, flagNV)
    else
      let k := ilog2 n d
      let w := 640
      let z := if k ≥ 0 then n * 2 ^ w / (d * 2 ^ k.toNat) else n * 2 ^ (w + (-k).toNat) / d
      if z = 2 ^ w ∧ (if k ≥ 0 then n = d * 2 ^ k.toNat else n * 2 ^ (-k).toNat = d) then (XV.ofInt k, 0)
      else
        let l := log2Loop w 256 z 0
        if k ≥ 0 then (.fin false (k.toNat * 2 ^ 256 + l) (2 ^ 256) true, 0)
        else (.fin true ((-k).toNat * 2 ^ 256 - l - 1) (2 ^ 256) true, 0)

/-- Is a < b, for values that are no NaN; zeros compare equal. -/
def ltX (a b : XV) : Bool :=
  match a, b with
  | .inf x, .inf y => x && !y
  | .inf x, _ => x
  | _, .inf y => !y
  | .fin sa na da _, .fin sb nb db _ =>
    let p := na * db
    let q := nb * da
    if sa && !sb then decide (p ≠ 0 ∨ q ≠ 0)
    else if !sa && sb then false
    else if sa then decide (q < p) else decide (p < q)
  | _, _ => false

def eqX (a b : XV) : Bool :=
  match a, b with
  | .inf x, .inf y => x == y
  | .fin sa na da _, .fin sb nb db _ => decide (na * db = nb * da) && (sa == sb || decide (na = 0))
  | _, _ => false

/-- minimumNumber / maximumNumber (R74): one NaN is ignored, two give NaN, −0 orders below +0. -/
def minX (a b : XV) : XV × Nat :=
  let fl := sigFlag a ||| sigFlag b
  if a.isNan && b.isNan then (.nan false, fl)
  else if a.isNan then (b, fl)
  else if b.isNan then (a, fl)
  else if a.isZero && b.isZero then ((if a.neg then a else b), fl)
  else if ltX b a then (b, fl) else (a, fl)

def maxX (a b : XV) : XV × Nat :=
  let fl := sigFlag a ||| sigFlag b
  if a.isNan && b.isNan then (.nan false, fl)
  else if a.isNan then (b, fl)
  else if b.isNan then (a, fl)
  else if a.isZero && b.isZero then ((if a.neg then b else a), fl)
  else if ltX a b then (b, fl) else (a, fl)

/-! ## Formats -/

/-- A number format (Tables 3.1, 3.2). -/
inductive Fmt
  | flt (eb mb : Nat)
  | int (signed : Bool) (w : Nat)
  | nar (v : Word)
deriving DecidableEq, Repr

/-- The fields of an FMTn register (Table 3.2). -/
def narW (v : Word) : Nat := bits v.toNat 3 0
def narE (v : Word) : Nat := bits v.toNat 15 12
def narS (v : Word) : Nat := bits v.toNat 16 16
def narSpec (v : Word) : Nat := bits v.toNat 18 17
def narSat (v : Word) : Bool := v.toNat.testBit 19
def narBias (v : Word) : Int := sintOf 8 (bits v.toNat 31 24)
def narScale (v : Word) : Nat := bits v.toNat 63 32
def narM (v : Word) : Nat := narW v - narS v - narE v

/-- The format a code names, given the partition's FMT0–FMT15; none for the reserved codes and for BITS (R72). -/
def fmtOf (fm : Vector Word 16) (code : Nat) : Option Fmt :=
  match code with
  | 0 => some (.flt 11 52)
  | 1 => some (.flt 8 23)
  | 2 => some (.flt 5 10)
  | 3 => some (.flt 8 7)
  | 8 => some (.int true 64)
  | 9 => some (.int true 32)
  | 10 => some (.int true 16)
  | 11 => some (.int true 8)
  | 12 => some (.int false 64)
  | 13 => some (.int false 32)
  | 14 => some (.int false 16)
  | 15 => some (.int false 8)
  | n => if 16 ≤ n ∧ n ≤ 31 then some (.nar (fm.toList.getD (n - 16) 0)) else none

/-- Element width in a register or in memory (R49, R80). -/
def Fmt.width : Fmt → Nat
  | .flt eb mb => eb + mb + 1
  | .int _ w => w
  | .nar v => if narW v ≤ 4 then 4 else 8

/-- Width of a code; BITS counts as 8 bits (R198), reserved codes as 8. -/
def codeWidth (fm : Vector Word 16) (code : Nat) : Nat :=
  match fmtOf fm code with
  | some f => f.width
  | none => 8

/-- The value of an IEEE-style pattern with eb exponent and mb fraction bits. -/
def decodeFlt (eb mb code : Nat) : XV :=
  let s := code.testBit (eb + mb)
  let e := bits code (eb + mb - 1) mb
  let m := code % 2 ^ mb
  let bias := 2 ^ (eb - 1) - 1
  if e = 2 ^ eb - 1 then
    (if m = 0 then .inf s else .nan (!(m.testBit (mb - 1))))
  else if e = 0 then .fin s m (2 ^ (bias - 1 + mb)) false
  else if e ≥ bias + mb then .fin s ((2 ^ mb + m) * 2 ^ (e - bias - mb)) 1 false
  else .fin s (2 ^ mb + m) (2 ^ (bias + mb - e)) false

/-- n × 2^k as an exact value. -/
def scaleBy (s : Bool) (n : Nat) (k : Int) : XV :=
  if k ≥ 0 then .fin s (n * 2 ^ k.toNat) 1 false else .fin s n (2 ^ (-k).toNat) false

/-- Decode(code, F) of R79: the raw value of a narrow code. Every NaN code is quiet (R74). -/
def decodeNar (v : Word) (code : Nat) : XV :=
  let w := narW v
  let c := code % 2 ^ w
  if narE v = 0 then
    (if narS v = 1 then
      let n := sintOf w c
      scaleBy (decide (n < 0)) n.natAbs (-(narBias v))
    else scaleBy false c (-(narBias v)))
  else
    let s := narS v = 1 && c.testBit (w - 1)
    let mB := narM v
    let e := c / 2 ^ mB % 2 ^ narE v
    let m := c % 2 ^ mB
    let top := 2 ^ narE v - 1
    if narSpec v = 0 ∧ e = top then (if m = 0 then .inf s else .nan false)
    else if narSpec v = 1 ∧ e = top ∧ m = 2 ^ mB - 1 then .nan false
    else if e = 0 then scaleBy s m (1 - narBias v - (mB : Int))
    else scaleBy s (2 ^ mB + m) ((e : Int) - narBias v - (mB : Int))

/-- The raw value of a pattern (R79, Table 3.1). -/
def Fmt.decode : Fmt → Nat → XV
  | .flt eb mb, c => decodeFlt eb mb c
  | .int true w, c => XV.ofInt (sintOf w c)
  | .int false w, c => XV.ofNat (c % 2 ^ w)
  | .nar v, c => decodeNar v c

/-- ScaleOf(F) as a fraction (R79); 1 for a fixed code. SCALE is a positive normal FP32 (R78). -/
def Fmt.scale : Fmt → Nat × Nat
  | .nar v => match decodeFlt 8 23 (narScale v) with
    | .fin _ n d _ => if n = 0 then (1, 1) else (n, d)
    | _ => (1, 1)
  | _ => (1, 1)

def XV.scaleUp (x : XV) (sc : Nat × Nat) : XV :=
  match x with
  | .fin s n d k => .fin s (n * sc.1) (d * sc.2) k
  | x => x

/-- The scaled value of a pattern (R79). -/
def Fmt.value (f : Fmt) (c : Nat) : XV := (f.decode c).scaleUp f.scale

def Fmt.isFloat : Fmt → Bool | .flt _ _ => true | _ => false
def Fmt.isInt : Fmt → Bool | .int _ _ => true | _ => false

/-- Fraction bits, exponent bias, and the largest finite magnitude code of a floating format. -/
structure FloatParams where
  mb : Nat
  bias : Int
  maxCode : Nat

def Fmt.params : Fmt → FloatParams
  | .flt eb mb => ⟨mb, (2 ^ (eb - 1) - 1 : Nat), (2 ^ eb - 1) * 2 ^ mb - 1⟩
  | .nar v =>
    let eb := narE v
    let mb := narM v
    ⟨mb, narBias v,
      if narSpec v = 0 then (2 ^ eb - 1) * 2 ^ mb - 1 else if narSpec v = 1 then 2 ^ (eb + mb) - 2 else 2 ^ (eb + mb) - 1⟩
  | .int _ _ => ⟨0, 0, 0⟩

/-! ## Rounding -/

/-- Rounding modes (R81). -/
inductive RMode
  | rne | rtz | rdn | rup | rna | sr
deriving DecidableEq, Repr

def rmodeOf : Nat → RMode
  | 0 => .rne | 1 => .rtz | 2 => .rdn | 3 => .rup | 4 => .rna | _ => .sr

/-- Chooses n or n + 1 for the magnitude (n + r/d) of sign s, r/d in (0, 1) with the sticky bit; rnd is the 16-bit draw
of R84. DESIGN CHOICE (log 75): the even neighbour of an RNE tie is the one with the even significand n; in a floating FMTn with
M = 0, where both neighbours of a tie have significand 1, this takes the larger magnitude; the spec does not say which is even. -/
def roundUp (mode : RMode) (s : Bool) (n r d : Nat) (sticky : Bool) (rnd : Nat) : Bool :=
  match mode with
  | .rtz => false
  | .rdn => s
  | .rup => !s
  | .rne => if 2 * r = d then (if sticky then true else decide (n % 2 = 1)) else decide (d < 2 * r)
  | .rna => decide (d ≤ 2 * r)
  | .sr =>
    if s then
      -- lo is the larger magnitude: f counts from it
      let q := (d - r) * 65536
      let f := if sticky && decide (q % d = 0) then q / d - 1 else q / d
      !(decide (rnd < f))
    else decide (rnd < r * 65536 / d)

/-- Splits y = num/den by the step 2^k: (n, r, d) with y / 2^k = n + r/d. -/
def splitStep (num den : Nat) (k : Int) : Nat × Nat × Nat :=
  let (p, q) := if k ≥ 0 then (num, den * 2 ^ k.toNat) else (num * 2 ^ (-k).toNat, den)
  (p / q, p % q, q)

/-- The canonical NaN pattern (R74, Table 3.3); none where the format has no NaN. -/
def Fmt.nanCode : Fmt → Option Nat
  | .flt eb mb => some ((2 ^ eb - 1) * 2 ^ mb + 2 ^ (mb - 1))
  | .int _ _ => none
  | .nar v =>
    if narE v = 0 then none
    else if narSpec v = 0 then some ((2 ^ narE v - 1) * 2 ^ narM v + 2 ^ (narM v - 1))
    else if narSpec v = 1 then some (2 ^ (narE v + narM v) - 1) else none

/-- Puts a sign on a magnitude code of a floating format. -/
def Fmt.signed (f : Fmt) (s : Bool) (c : Nat) : Nat :=
  match f with
  | .flt eb mb => c + b2n s * 2 ^ (eb + mb)
  | .nar v => if narS v = 1 then c + b2n s * 2 ^ (narW v - 1) else c
  | .int _ _ => c

/-- Has the format no sign (R82)? -/
def Fmt.unsigned : Fmt → Bool
  | .flt _ _ => false
  | .int sg _ => !sg
  | .nar v => narS v = 0

/-- The range of an integer or fixed-point format, in steps. -/
def Fmt.range : Fmt → Int × Int
  | .int true w => (-(2 ^ (w - 1) : Nat), (2 ^ (w - 1) : Nat) - 1)
  | .int false w => (0, (2 ^ w : Nat) - 1)
  | .nar v => if narS v = 1 then (-(2 ^ (narW v - 1) : Nat), (2 ^ (narW v - 1) : Nat) - 1) else (0, (2 ^ narW v : Nat) - 1)
  | .flt _ _ => (0, 0)

/-- Is the format an integer or a fixed-point one: its values are equally spaced? -/
def Fmt.fixed : Fmt → Bool
  | .int _ _ => true
  | .nar v => narE v = 0
  | .flt _ _ => false

def Fmt.patWidth : Fmt → Nat
  | .flt eb mb => eb + mb + 1
  | .int _ w => w
  | .nar v => narW v

/-- The largest finite value with a sign: of a floating format, and the range bound of the others. -/
def Fmt.largest (f : Fmt) (s : Bool) : Nat :=
  if f.fixed then patOf f.patWidth (if s then f.range.1 else f.range.2) else f.signed s f.params.maxCode

/-- The ±inf column of Table 3.3. -/
def Fmt.infResult (f : Fmt) (s : Bool) : Nat × Nat :=
  match f with
  | .flt eb mb => (f.signed s ((2 ^ eb - 1) * 2 ^ mb), 0)
  | .int _ _ => (f.largest s, flagNV)
  | .nar v =>
    if narSpec v = 0 then (f.signed s ((2 ^ narE v - 1) * 2 ^ narM v), 0)
    else if narSpec v = 1 ∧ !narSat v then (2 ^ (narE v + narM v) - 1, flagNV)
    else (f.largest s, flagNV)

/-- The last column of Table 3.3. -/
def Fmt.overflow (f : Fmt) (s : Bool) : Nat × Nat :=
  match f with
  | .flt eb mb => (f.signed s ((2 ^ eb - 1) * 2 ^ mb), flagOF ||| flagNX)
  | .int _ _ => (f.largest s, flagNV)
  | .nar v =>
    if narSat v ∨ narSpec v = 2 then (f.largest s, flagOF ||| flagNX)
    else if narSpec v = 0 then (f.signed s ((2 ^ narE v - 1) * 2 ^ narM v), flagOF ||| flagNX)
    else (2 ^ (narE v + narM v) - 1, flagOF ||| flagNX)

/-- In the directed modes of R82 a value beyond the largest finite magnitude takes the largest finite value. -/
def directedStays (mode : RMode) (s : Bool) : Bool :=
  decide (mode = .rtz) || (decide (mode = .rdn) && !s) || (decide (mode = .rup) && s)

/-- RoundTo(x, F, mode, i) of R82, given the draw of R84: the pattern and the flags. -/
def roundTo (f : Fmt) (mode : RMode) (rnd : Nat) (x : XV) : Nat × Nat :=
  match x with
  | .nan _ => match f.nanCode with
    | some c => (c, 0)
    | none => (0, flagNV)
  | .inf s => if f.unsigned && s then (0, flagNV) else f.infResult s
  | .fin s n d sticky =>
    let sc := f.scale
    let num := n * sc.2
    let den := d * sc.1
    if num = 0 && !sticky then (if f.fixed then 0 else if f.unsigned then 0 else f.signed s 0, 0)
    else if f.unsigned && s then (0, flagNV)
    else if f.fixed then
      let k : Int := match f with | .nar v => -(narBias v) | _ => 0
      let (m, r, q) := splitStep num den k
      let exact := decide (r = 0) && !sticky
      let m' := if exact then m else if roundUp mode s m r q sticky rnd then m + 1 else m
      let z : Int := if s then -(m' : Int) else m'
      if f.range.1 ≤ z ∧ z ≤ f.range.2 then (patOf f.patWidth z, if exact then 0 else flagNX)
      else if f.isInt then f.overflow s
      else if directedStays mode s then (f.largest s, flagOF ||| flagNX)
      else f.overflow s
    else
      let p := f.params
      let emin : Int := 1 - p.bias
      -- exponent of the top binade
      let etop : Int := (if p.maxCode / 2 ^ p.mb = 0 then 1 else (p.maxCode / 2 ^ p.mb : Nat)) - p.bias
      let k0 : Int := if num = 0 then emin - 4 * (p.mb + 20 : Nat) else ilog2 num den
      let k1 := if k0 < emin then emin else if k0 > etop then etop else k0
      let step := k1 - (p.mb : Int)
      let (m, r, q) := splitStep num den step
      let exact := decide (r = 0) && !sticky
      let m' := if exact then m else if roundUp mode s m r q sticky rnd then m + 1 else m
      -- codes of one sign rise linearly with the magnitude
      let code : Nat := if k1 = emin then m' else ((k1 + p.bias).toNat - 1) * 2 ^ p.mb + m'
      if code > p.maxCode then
        (if directedStays mode s then (f.largest s, flagOF ||| flagNX) else f.overflow s)
      else if exact then (f.signed s code, 0)
      else
        -- tininess after rounding with an unbounded exponent range (R75)
        let tiny : Bool :=
          if k0 ≥ emin then false
          else
            let (m2, r2, q2) := splitStep num den (k0 - (p.mb : Int))
            let up := (decide (r2 ≠ 0) || sticky) && roundUp mode s m2 r2 q2 sticky rnd
            !(up && decide (m2 + 1 = 2 ^ (p.mb + 1)) && decide (k0 = emin - 1))
        (f.signed s code, flagNX ||| (if tiny then flagUF else 0))

/-! ## The generator (R85) -/

def mixK1 : Word := 0xA3B195C4E27F0D6B
def mixK2 : Word := 0x7C15D0E94A83B2F5

def mix (x0 : Word) : Word :=
  let x := x0 ^^^ (x0 >>> 31)
  let x := x * mixK2
  let x := x ^^^ (x >>> 29)
  let x := x * mixK1
  x ^^^ (x >>> 32)

/-- RND(k, c). -/
def rndDraw (k c : Word) : Word := mix (k ^^^ (c * mixK1))

/-- The 16-bit draw of R84 for element index i. -/
def srDraw (seed sbase : Word) (i : Nat) : Nat := (rndDraw seed (sbase + BitVec.ofNat 64 i)).toNat % 65536

end Sys2Proof.Machine
end

