-- ==== Sys2Proof/Machine/Ops.lean ====
section
/-!
DEFINITION. The operations that instructions share: packets, loads and stores of the acting strand, code fetch and branch
targets, taking an exception (R407, R408) and returning from one (R409), stage-2 faults (R426), and how a meaning ends.
-/
namespace Sys2Proof.Machine

/-! ## Packets (R136) -/

/-- Bytes of the instruction: a literal slack marks an extended pair. -/
def slackBytes (slk : Slack) : Nat := match slk with | .cls _ => 8 | .lit _ => 16

/-- issued := min(4095, max(base + bias, floor)) of R136. -/
def State.issuedSlack (s : State) (slk : Slack) : Nat :=
  let base : Nat := match slk with | .cls n => s.me.slkt.get n | .lit u => u.toNat
  Nat.min 4095 (Nat.max ((base : Int) + s.me.bias).toNat s.myPart.floor)

def Arb.empty : Arb := ⟨[], 0, []⟩

/-- Every packet that waits in a switch. -/
def Arb.packets (a : Arb) : List Packet := a.nodes.flatMap (fun n => n.2.flatten)

/-- Each of its queues changed. -/
def Arb.mapQueues (f : List Packet → List Packet) (a : Arb) : Arb := { a with nodes := a.nodes.map (fun n => (n.1, n.2.map f)) }

/-- Appends p to queue q of a list of queues. -/
def pushQueue : List (List Packet) → Nat → Packet → List (List Packet)
  | [], 0, p => [[p]]
  | [], q + 1, p => [] :: pushQueue [] q p
  | l :: ls, 0, p => (l ++ [p]) :: ls
  | l :: ls, q + 1, p => l :: pushQueue ls q p

/-- Arbiter j of stage t of a tree (R140): its inputs are those numbered 5j, …, 5j + 4 of the stage. -/
def nodeKey (t j : Nat) : Nat := 64 * t + j

/-- A packet waits at input q of stage t. -/
def Arb.push (a : Arb) (t q : Nat) (p : Packet) : Arb :=
  { a with nodes := Map.set a.nodes (nodeKey t (q / 5)) (pushQueue (Map.getD a.nodes (nodeKey t (q / 5)) []) (q % 5) p) }

/-! Switches by key, 64 for each core. 0–3: outputs of its request router west, east, north, south; 4 + n: to slice n at the core
(down to lane memory, up to the vault, to the ports of cluster cache, far memory and fabric, to the core itself). 16 + n: the service of
slice n. 24: the reply bus, which the slices share. 32–36: outputs of the reply router, 36 to the core. 40: the copy engine's packet
queues (R133, R134, R140). -/
def reqKey (core out : Nat) : Nat := 64 * core + out
def sliceKey (core slice : Nat) : Nat := 64 * core + 16 + slice
def busKey (core : Nat) : Nat := 64 * core + 24
def replyKey (core out : Nat) : Nat := 64 * core + 32 + out
def engineKey (core : Nat) : Nat := 64 * core + 40

/-- Requests travel first in x, then in y; then vertically, or to the port, of their slice. -/
def reqOut (core target slice : Nat) : Nat :=
  if coreX target < coreX core then 0 else if coreX core < coreX target then 1
  else if coreY target < coreY core then 2 else if coreY core < coreY target then 3 else 4 + slice
/-- Replies travel first in y, then in x. -/
def replyOut (core target : Nat) : Nat :=
  if coreY target < coreY core then 2 else if coreY core < coreY target then 3
  else if coreX target < coreX core then 0 else if coreX core < coreX target then 1 else 4

/-- A packet enters input q of a switch at this cycle. -/
def State.enter (s : State) (key q : Nat) (p : Packet) : State :=
  let a := Map.getD s.arbs key Arb.empty
  let b := a.push 0 q { p with age := s.now, carried := false }
  { s with arbs := Map.set s.arbs key { b with size := Nat.max a.size (q + 1) } }

/-- A packet leaves its core by the request router. -/
def State.pushPacket (s : State) (p : Packet) : State := s.enter (reqKey p.core (reqOut p.core p.target p.slice)) 0 p

/-- The acting strand issues a packet (R133, R136). -/
def State.inject (s : State) (slk : Slack) (place : Nat × Nat) (kind : PKind) (bytes : Nat) : State :=
  s.pushPacket ⟨s.myPart.tclass, s.issuedSlack slk, s.now, false, s.cur.core, s.cur.strand, place.1, place.2, s.me.uid, kind, bytes⟩

/-- A line of a cluster that is in its cache under key id kid (R110). -/
def State.cached (s : State) (cluster i kid : Nat) : Bool :=
  match Map.get? (s.cluster cluster).lines i with
  | some l => decide (l.key = some kid)
  | none => false

/-- The core whose tier holds line i of a cluster's cache: the lines lie in turn over its cores (log 11). -/
def cacheCore (cluster i : Nat) : Nat := coreAt (cluster % 8 * 4 + i % 4) (cluster / 8 * 4 + i / 4 % 4)

/-- The slice that serves a place for a requester: lane memory and vault of the core that holds them; for far memory the cluster
cache where it holds the line, else the controller; the fabric port for other packages and endpoints (R133, R134; log 11). -/
def State.sliceOf (s : State) (own : Nat) (l : Loc) : Nat × Nat :=
  match daPlace l.da with
  | .lane c _ => (c, 0)
  | .vault c _ => (c, 1)
  | .far =>
    let n := clusterOf own
    let i := l.da / Config.lineBytes
    if s.cached n i l.kid then (cacheCore n i, 2) else (Config.farRouter (l.da % 2 ^ 48), 3)
  | .none => (Config.portRouter (l.da / 2 ^ 48 % 256), 4)

/-- Cache lines that n bytes at a touch, by number. -/
def linesAt (a n : Nat) : List Nat :=
  if n = 0 then []
  else (List.range ((a + n - 1) / Config.lineBytes - a / Config.lineBytes + 1)).map (· + a / Config.lineBytes)

/-- The slices that serve a piece, with the bytes of each: far memory line by line. -/
def State.portions (s : State) (own : Nat) (p : Piece) : List ((Nat × Nat) × Nat) :=
  match daPlace p.loc.da with
  | .far => (linesAt p.loc.da p.n).map (fun i =>
      let lo := Nat.max p.loc.da (i * Config.lineBytes)
      (s.sliceOf own { p.loc with da := lo }, Nat.min (p.loc.da + p.n) ((i + 1) * Config.lineBytes) - lo))
  | _ => [(s.sliceOf own p.loc, p.n)]

/-- Portions slice by slice, in the order in which they reach them. -/
def mergeShares (at_ : List ((Nat × Nat) × Nat)) : List ((Nat × Nat) × Nat) :=
  ((at_.map (·.1)).eraseDups).map (fun t => (t, (at_.filter (fun q => q.1 == t)).foldl (fun m q => m + q.2) 0))

/-- How many bytes of the pieces each slice holds, in the order in which the pieces reach them. -/
def State.shares (s : State) (own : Nat) (ps : List Piece) : List ((Nat × Nat) × Nat) := mergeShares (ps.flatMap (s.portions own))

/-- What an access touches of a cache line: the line, the key id, and the bytes by their offsets in it. -/
structure LinePart where
  line : Nat
  kid : Nat
  offs : List Nat
deriving DecidableEq, Repr

/-- The lines that pieces in far memory touch. -/
def lineParts (ps : List Piece) : List LinePart :=
  ps.flatMap (fun p =>
    match daPlace p.loc.da with
    | .far => (linesAt p.loc.da p.n).map (fun i =>
        ⟨i, p.loc.kid, (List.range Config.lineBytes).filter (fun o =>
          decide (p.loc.da ≤ i * Config.lineBytes + o ∧ i * Config.lineBytes + o < p.loc.da + p.n))⟩)
    | _ => [])

/-- Lines that are present in a cache. -/
def linesHeld (m : Map Line) : Nat := (m.filter (fun c => c.2.key.isSome)).length

/-- A line leaves the cache, its writes written back; its class stays (R357). -/
def dropLine (m : Map Line) (k : Nat) : Map Line :=
  let cls := (Map.getD m k Line.reset).cls
  if cls = 0 then Map.erase m k else Map.set m k { Line.reset with cls := cls }

/-- Room for line i in a cache that is full: one of the lines of class .stream gives way, else an ordinary one; a pinned line never does (R2,
R357). Log 21. -/
def makeRoom (now : Nat) (m : Map Line) (i : Nat) : Map Line :=
  if linesHeld m < Config.cacheLines then m
  else
    let of (cls : Nat) : List Nat := (m.filter (fun c => c.2.key.isSome && decide (c.2.cls = cls))).map (·.1)
    let cands := if of 2 = [] then of 0 else of 2
    match cands[Config.evicts now i % cands.length]? with
    | some k => dropLine m k
    | none => m

/-- Others have written these bytes of a line (R455). -/
def Line.overBy (l : Line) (os : List Nat) : Line := if l.back.isNone then l else { l with newer := (l.newer ++ os).eraseDups }

/-- An access reaches a line: one that is not there is filled under its key id, where there is room; one held under another id is not hit,
and the access goes to memory (R110). A write that hits it leaves what was last written back (R455). -/
def touchLine (s : State) (m : Map Line) (q : LinePart) (write : Bool) : Map Line :=
  let l := Map.getD m q.line Line.reset
  if l.key = none ∨ l.key = some q.kid then
    let m1 := if l.key = none then makeRoom s.now m q.line else m
    if l.key = none ∧ Config.cacheLines ≤ linesHeld m1 then m1
    else
      let a := q.line * Config.lineBytes
      let now : List Byte × Option Nat := (Memory.readN s.mem a Config.lineBytes, s.keyAt a)
      Map.set m1 q.line { l with
        key := some q.kid
        back := if write then some (l.back.getD now) else l.back
        newer := if write then l.newer.filter (fun o => !q.offs.contains o) else l.newer }
  else if write then Map.set m q.line (l.overBy q.offs)
  else m

/-- A write to far memory from outside cluster n: lines elsewhere that hold writes know which of their bytes are overwritten. -/
def State.overLines (s : State) (n : Nat) (qs : List LinePart) : State :=
  if qs.isEmpty then s
  else { s with clusters := s.clusters.map (fun c =>
    (c.1, if c.1 = n then c.2 else
      { c.2 with lines := c.2.lines.map (fun l => (l.1, l.2.overBy ((qs.filter (fun q => q.line == l.1)).flatMap (·.offs)))) })) }

/-- An access from a core reaches its cluster's cache, which holds this package's far memory. A write does so before it is performed. -/
def State.touchLines (s : State) (core : Nat) (ps : List Piece) (write : Bool) : State :=
  let n := clusterOf core
  let qs := lineParts ps
  let s1 := if write then s.overLines n qs else s
  let c := s1.cluster n
  if qs.isEmpty then s else s1.setCluster n { c with lines := qs.foldl (fun m q => touchLine s m q write) c.lines }

/-- Stores of an agent on a core that are performed at once. -/
def State.performFrom (s : State) (core : Nat) (ps : List Piece) (bs : List Byte) : State :=
  (s.touchLines core ps true).performAll (storesOf ps bs)

/-- The requests of these shares leave the acting strand. -/
def State.injectAll (s : State) (slk : Slack) (ack : Bool) (shares : List ((Nat × Nat) × Nat)) : State :=
  shares.foldl (fun s t => s.inject slk t.1 (if ack then .ack else .data) t.2) s

/-- One request of the acting strand for each slice that the pieces touch (R133). -/
def State.request (s : State) (slk : Slack) (ps : List Piece) (ack : Bool) : State :=
  (s.injectAll slk ack (s.shares s.cur.core ps)).touchLines s.cur.core ps ack

/-- The requests of a vector memory instruction: one for each slice that its elements touch (R133). A part of it leaves them to the turn that
ends it (log 45). -/
def State.requestVec (s : State) (slk : Slack) (ps : List Piece) (ack : Bool) : State :=
  let all := mergeShares (s.me.unsent ++ s.shares s.cur.core ps)
  let s1 := if s.cur.limit.isSome && !s.myPart.preempting then s.setMe { s.me with unsent := all }
    else (s.setMe { s.me with unsent := [] }).injectAll slk ack all
  s1.touchLines s.cur.core ps ack

/-! ## Loads under way (R412) -/

/-- Replies of data that a strand waits for: its instruction commits as the last of them arrives (R139). -/
def Packet.awaitedBy (p : Packet) (uid : Nat) : Bool := decide (p.uid = uid ∧ p.kind = .data ∧ p.strand < 8)
def State.awaitsData (s : State) (x : Strand) : Bool := s.arbs.any (fun c => c.2.packets.any (fun p => p.awaitedBy x.uid))

/-- Those replies will have no effect, and no count in EXS. -/
def State.abandon (s : State) (uid : Nat) : State :=
  { s with arbs := s.arbs.map (fun c => (c.1, c.2.mapQueues (fun q => q.filter (fun p => !p.awaitedBy uid)))) }

/-- The strand before its load: of what may have changed since, only what the load wrote goes back. -/
def Flight.back (f : Flight) (x : Strand) : Strand :=
  { x with
    pc := f.x.pc
    vsx := f.x.vsx
    v := f.x.v
    streams := f.x.streams
    fpflags := f.x.fpflags
    unsent := f.x.unsent
    s := f.sw.foldl (fun v r => v.set r.val (f.x.s.get r) r.isLt) x.s
    m := f.mw.foldl (fun v r => v.set r.val (f.x.m.get r) r.isLt) x.m
    binds := f.mw.foldl (fun v r => v.set r.val (f.x.binds.get r) r.isLt) x.binds
    run := .ready }

/-- The footprint without what the load added: a record that it renewed is as it was. -/
def Flight.footBack (f : Flight) (uid : Nat) (foot : List Foot) : List Foot :=
  foot.filterMap (fun g =>
    if g.uid = uid ∧ f.from_ ≤ g.seqNo then
      f.foot.find? (fun h => decide (h.region = g.region ∧ h.block = g.block ∧ h.wr = g.wr ∧ h.chunk = g.chunk))
    else some g)

/-- A load whose replies are under way is squashed: it has not happened, and its replies are abandoned (R412). Log 19. -/
def State.squash (s : State) (core k : Nat) : State :=
  let x := s.strand core k
  match Map.get? s.flights (skey core k) with
  | none => s
  | some f =>
    if f.x.uid = x.uid ∧ s.awaitsData x = true then
      let s1 := (s.abandon x.uid).setStrand core k (f.back x)
      let s2 := { s1 with
        flights := Map.erase s1.flights (skey core k)
        foot := f.footBack x.uid s1.foot
        agents := (match Map.get? s1.agents x.uid with
          | some a => Map.set s1.agents x.uid { a with region := f.region }
          | none => s1.agents) }
      match ownerOf s2.parts core k with
      | some pid =>
        let p := s2.part pid
        s2.setPart pid { p with splits := p.splits - f.splits, expansions := p.expansions - f.expansions }
      | none => s2
    else s

/-! ## How a meaning ends -/

/-- The result of an instruction before it ends: it committed; it stopped with the state its older instructions and committed
elements left; or it waits (R270). -/
inductive Res
  | ok (s : State)
  | stop (t : Stop) (s : State)
  | wait (w : Wait) (s : State)
deriving Repr

/-- ILLEGAL at the instruction (Table 20.1). -/
def State.illegal (s : State) : Res := .stop (.trap cILLEGAL 0 s.cur.word) s
def illegalStop (s : State) : Stop := .trap cILLEGAL 0 s.cur.word

/-- Appends a stage-2 fault record (R426, R432, Table 21.7). agent is the AGENT field. -/
def State.appendRing (s : State) (vfn slot : Nat) (f : S2F) (agent : Nat) : State :=
  let m := s.mgmt
  if m.cons + 255 ≤ m.prod then { s with tele := { s.tele with ringDrops := s.tele.ringDrops + 1 } }
  else
    let rec_ := leBytes 2 vfn ++ leBytes 1 slot ++ leBytes 1 f.level ++ leBytes 1 f.kind ++ leBytes 1 f.pkg ++ leBytes 2 agent
      ++ leBytes 8 f.ipa ++ leBytes 8 f.daddr ++ leBytes 8 s.now ++ List.replicate 32 0
    { s with mgmt := { m with ring := Map.set m.ring (m.prod % 255) rec_, prod := m.prod + 1 } }

/-- Starts the pre-emption of a partition's running context (R413); it completes as an event of its own. -/
def State.preempt (s : State) (pid : Nat) : State :=
  let p := s.part pid
  if p.preempting || p.running.isNone then s
  else s.setPart pid { p with preempting := true, preemptStart := s.now }

/-- A stage-2 fault of an agent of partition pid (R426): pre-empt, PARK, record. A further one before the pre-emption completes appends its
record alone. -/
def State.takeS2 (s : State) (pid : Nat) (f : S2F) (agent : Nat) : State :=
  let p := s.part pid
  let slot := p.slot
  let c := p.ctx
  let s1 := s.appendRing c.vfn slot f agent
  let p1 := { p with s2faults := p.s2faults + 1 }
  if p.faulted then s1.setPart pid p1
  else (s1.setPart pid { p1 with faulted := true, ctxs := Map.set p.ctxs slot { c with park := true } }).preempt pid

/-- The acting strand as AGENT of Table 21.7. -/
def State.agentField (s : State) : Nat := s.cur.core + 1024 * s.cur.strand

/-- The acting strand has reached its stopping point: it issues nothing until its context runs again (R411, R426). -/
def State.stopHere (s : State) : State := s.setMe { s.me with run := .waiting .s2stop }

/-- A stage-2 fault of the acting strand (R426). -/
def State.strandS2 (s : State) (f : S2F) : State := (s.takeS2 s.cur.pid f s.agentField).stopHere

/-- R408: an unhandled trap stops the launch, whose entry becomes FAILED with cause 0x0B; a strand without a task goes idle. -/
def State.unhandled (s : State) : State :=
  match s.me.task with
  | none => s.setMe { s.me with run := .idle }
  | some t =>
    let s1 :=
      match s.launchOf t.vfn t.seq with
      | some l =>
        if l.stopped then s
        else { s with launches := Map.set s.launches (lkey t.vfn t.seq) { l with stopped := true, stopCause := 0x0B } }
      | none => s
    { s1.setMe { s1.me with run := .halted } with agenda := .launchStop t.vfn t.seq :: s1.agenda }

def modeBit : Mode → Nat
  | .user => 0
  | .supervisor => 1

/-- The words of the trap record that the device writes, by offset (Table 20.2). -/
def recordWords (s : State) (cause : Nat) (epc addr info : Word) (event : Bool) : List (Nat × Word) :=
  let x := s.me
  let w0 := cause + 256 * modeBit x.mode + 512 * b2n s.cur.half + 1024 * b2n event + 2048 * b2n (decide (bits s.cur.word.toNat 63 62 = 2))
  [(0x00, BitVec.ofNat 64 w0), (0x08, epc), (0x10, addr), (0x18, info), (0x20, BitVec.ofNat 64 x.vsx),
   (0x30, x.rS 1), (0x38, x.rS 2), (0x40, x.rS 3), (0x48, x.rS 4)]

/-- The stores that write record words at the place p. -/
def recordStores (p : Piece) (ws : List (Nat × Word)) : List PStore :=
  ws.map (fun w => ⟨cellsAt (p.loc.da + w.1) (leBytes 8 w.2.toNat), .whole, p.loc.mat⟩)

/-- Bits [2:0] of a register target are ignored (R157). DESIGN CHOICE (log 28): so are those of TVEC and of a saved PC, which the spec
neither checks nor masks, so that the pc is a multiple of 8. -/
def alignTarget (t : Word) : Word := t &&& ~~~7

/-- TREC + 128k of the acting strand (R407). -/
def State.recordVa (s : State) : Word := s.myCtx.trec + BitVec.ofNat 64 (128 * s.cur.strand)

/-- An uncorrectable read is counted under its structure (Table 22.4). -/
def State.uncorrectableRead (s : State) (st : Nat) : State :=
  { s with tele := { s.tele with uncorrectable := Map.set s.tele.uncorrectable st (Map.getD s.tele.uncorrectable st 0 + 1) } }

/-- Taking a trap or an event (R407, R408). epc, addr and info are those of Table 20.1. The record goes into the store buffer as
stores of the strand, which are requested as such (R133); s1–s4, MODE, pc and VSX change, and nothing else of the strand but that s1–s4 are
sound (R452). Log 17. -/
def State.takeTrap (s : State) (cause : Nat) (epc addr info : Word) (event : Bool) : State :=
  if s.me.mode = .supervisor ∧ event = false then s.unhandled
  else if s.myCtx.tvec = 0 then s.unhandled
  else
    match resolve s s.who 0 false s.recordVa 128 .write with
    | .error (.s2 f) => s.strandS2 f
    | .error (.trap _ _ _) => s.unhandled
    | .error .preempt => s.unhandled
    | .ok (ps, s1) =>
      match ps, piecesPoisoned s1 ps .write with
      | [p], none =>
        let x := s1.me
        let y := { x with regErr := x.regErr.filter (fun n => decide (n ∉ [1, 2, 3, 4])), stores := x.stores ++ recordStores p (recordWords s1 cause epc addr info event) }
        let y := ((y.wS 1 s1.recordVa).wS 2 (BitVec.ofNat 64 cause)).wS 3 epc
        let y := y.wS 4 addr
        (s1.request (.cls 0) [p] true).setMe { y with mode := .supervisor, pc := alignTarget s1.myCtx.tvec, vsx := 0 }
      | _, some st => (s1.uncorrectableRead st).unhandled
      | _, none => s1.unhandled

/-- Telemetry of a fault: races by partition, uncorrectable reads by structure (Table 22.4). -/
def State.countStop (s : State) (pid : Nat) : Stop → State
  | .trap cause _ info =>
    if cause = cRACE then s.setPart pid { s.part pid with races := (s.part pid).races + 1 }
    else if cause = cUNCORR then s.uncorrectableRead info.toNat
    else s
  | .s2 _ => s
  | .preempt => s

/-- Taking what stopped an instruction: EPC is the instruction, except for SVC (R192). Under a pre-emption a trap is not taken: the strand
is saved at the trap point (R414). -/
def State.takeStop (s : State) : Stop → State
  | .trap cause addr info =>
    if s.cur.limit.isSome then s.stopHere
    else (s.countStop s.cur.pid (.trap cause addr info)).takeTrap cause (if cause = cSVC then s.me.pc + 8 else s.me.pc) addr info false
  | .s2 f => s.strandS2 f
  | .preempt => s.stopHere

/-- The outcome of an instruction's result. -/
def finish : Res → Host.Outcome State Fault Refusal
  | .ok s => .next s
  | .stop t s => .next (s.takeStop t)
  | .wait w s => .next (s.setMe { s.me with run := .waiting w })

/-! ## Loads and stores of the acting strand (R180, R181) -/

/-- A read of n bytes; plain reads are checked for races and enter the footprint. Log 73. -/
def State.load (s : State) (plain : Bool) (slk : Slack) (sp : Nat) (loc : Bool) (ea : Word) (n : Nat) :
    Except Stop (List Byte × State) :=
  match permit s s.who s.me.uid plain sp loc ea n .read with
  | .error t => .error t
  | .ok (ps, s1) => .ok ((loadPieces s1 ps).1, (loadPieces s1 ps).2.request slk ps false)

/-- A plain store of these bytes: it commits into the store buffer (R18, R181). -/
def State.store (s : State) (slk : Slack) (sp : Nat) (loc : Bool) (ea : Word) (bs : List Byte) : Except Stop State :=
  match permit s s.who s.me.uid true sp loc ea bs.length .write with
  | .error t => .error t
  | .ok (ps, s1) =>
    .ok ((s1.setMe { s1.me with stores := s1.me.stores ++ storesOf ps bs }).request slk ps true)

/-- A synchronising store: performed at once (R182). The store buffer was drained before. -/
def State.storeNow (s : State) (slk : Slack) (sp : Nat) (loc : Bool) (ea : Word) (bs : List Byte) : Except Stop State :=
  match permit s s.who s.me.uid false sp loc ea bs.length .write with
  | .error t => .error t
  | .ok (ps, s1) => .ok ((s1.performFrom s.cur.core ps bs).request slk ps true)

/-- One atomic read-modify-write: f maps the old bytes to the new ones, or to none where nothing is written (R183). An endpoint
that exports no atomics answers PERM. -/
def State.rmw (s : State) (slk : Slack) (sp : Nat) (loc : Bool) (ea : Word) (n : Nat) (f : List Byte → Option (List Byte)) :
    Except Stop (List Byte × State) :=
  match permit s s.who s.me.uid false sp loc ea n .atomic with
  | .error t => .error t
  | .ok (ps, s1) =>
    if ps.any (fun p => isEndpoint p.loc.da && !Config.endpointAtomics (p.loc.da / 2 ^ 48 % 256)) then
      .error (.trap cPERM (effLocal s.cur.core sp loc ea) (memInfo sp .atomic))
    else
      let old := (readPieces s1 ps).1
      let s2 := (readPieces s1 ps).2
      match f old with
      | none => .ok (old, s2.request slk ps false)
      | some new => .ok (old, (s2.performFrom s.cur.core ps new).request slk ps false)

/-! ## Digests (R371, R372) -/

/-- One term of Table 16.2. -/
def digestTerm (addr val : Word) (sz : Nat) : Word := mix (addr ^^^ mix (val ^^^ (BitVec.ofNat 64 sz <<< 56)))

/-- Addr of Table 16.2: for LM and VT with the space in bits [63:62] and the core-id field as formed. -/
def digestAddr (sp : Nat) (ea : Word) : Word := if sp = 0 then ea else ea ||| (BitVec.ofNat 64 sp <<< 62)

/-- STOP of R333. -/
def Ctx.stop (c : Ctx) : Nat := c.vwlim - c.vwlim % 4096

/-- The stores of R372 that fold nothing: .vt.loc with displacement (0, 0) into the stack area. -/
def State.inStack (s : State) (sp : Nat) (loc : Bool) (ea : Word) : Bool :=
  match s.myLaunch with
  | none => false
  | some l =>
    decide (sp = 2) && loc && decide (bits ea.toNat 37 28 = 0)
      && decide (s.myCtx.stop - s.g * l.fr ≤ bits ea.toNat 27 0 ∧ bits ea.toNat 27 0 < s.myCtx.stop)

/-- Folds one committed store, with its terms, into the task digest, in a DET launch (R371). -/
def State.foldTerms (s : State) (ts : List Word) : State :=
  if s.inDet then s.setMe { s.me with digest := ts.foldl (· + ·) s.me.digest, nstores := s.me.nstores + 1 } else s

/-- Folds a committed store of one term. -/
def State.fold (s : State) (sp : Nat) (ea val : Word) (sz : Nat) : State := s.foldTerms [digestTerm (digestAddr sp ea) val sz]

/-- Folds a plain store unless it goes to the stack area (R372). -/
def State.foldStore (s : State) (sp : Nat) (loc : Bool) (ea val : Word) (sz : Nat) : State :=
  if s.inStack sp loc ea then s else s.fold sp ea val sz

/-! ## Code (R149, R157, R165) -/

/-- The code word at va, for the acting strand. DESIGN CHOICE (log 73): a fetch returns the word as memory holds it at that step, the new
contents of a store once it is performed, whether or not R165's two conditions hold; the strand's own buffered stores are not seen. -/
def State.fetchWord (s : State) (va : Word) : Except Stop (Nat × State) :=
  match resolve s s.who 0 false va 8 .fetch with
  | .error t => .error t
  | .ok (ps, s1) =>
    match piecesPoisoned s1 ps .fetch with
    | some st => .error (.trap cUNCORR va (BitVec.ofNat 64 st))
    | none => .ok (leNat (readPieces s1 ps).1, (readPieces s1 ps).2)

/-- A branch to t: PAGE for a bad address, BTARGET for a continuation, both at the branch, which then has no effect (R149, R157).
A fetch fault at the target is the target's. -/
def State.checkTarget (s : State) (t : Word) : Option Stop :=
  if 2 ^ 55 ≤ t.toNat then some (.trap cPAGE t (memInfo 0 .fetch))
  else
    match s.fetchWord t with
    | .ok (w, _) => if bits w 63 62 = 3 then some (.trap cBTARGET t s.cur.word) else none
    | .error _ => none

/-- Transfers control to t, with this state s otherwise complete (R177). -/
def State.branch (s : State) (base : State) (t : Word) : Res :=
  match base.checkTarget t with
  | some st => .stop st base
  | none => .ok (s.jump t)

/-! ## Waiting and waking -/

/-- The strand resumes issue; its instruction is executed again (R270). -/
def State.wake (s : State) (core k : Nat) : State := s.setStrand core k { s.strand core k with run := .ready, readyAt := s.now }

/-- The event view: strand k of a core acts, for its partition. -/
def State.actAs (s : State) (core k : Nat) : State :=
  { s with cur := ⟨core, k, (ownerOf s.parts core k).getD 0, 0, false, none⟩ }

/-- A rounding field resolved (R81). -/
def State.rmode (s : State) (rnd : Nat) : RMode := rmodeOf (if rnd = 7 then s.me.rmode else rnd)
/-- R335: a rounding that resolves to SR needs the feature SRND. -/
def State.rndAllowed (s : State) (rnd : Nat) : Bool := decide (s.rmode rnd ≠ .sr) || s.feature 10

/-- PRIV in user mode (R162). -/
def State.priv (s : State) (k : State → Res) : Res :=
  if s.me.mode = .user then .stop (.trap cPRIV 0 s.cur.word) s else k s

end Sys2Proof.Machine
end

