-- ==== Sys2Proof/Machine/Scalar.lean ====
section
/-!
DEFINITION. Integer, address, bit and immediate instructions (R168–R172): no fault, no flag. Each computes s_d from operands
read before the write.
-/
namespace Sys2Proof.Machine

abbrev Out := Host.Outcome State Fault Refusal

/-- An instruction of one code word writes v to s_d and commits. -/
def writeNext (d : SReg) (v : Word) (n : Nat) (s : State) : Out := .next ((s.wS d v).advance n)

/-- The register form of Table 7.1. -/
def intRRR (f : Word → Word → Word) (d a b : SReg) (s : State) : Out := writeNext d (f (s.rS a) (s.rS b)) 8 s

/-! The functions of Table 7.1. -/
def iAdd (a b : Word) : Word := a + b
def iSub (a b : Word) : Word := a - b
def iMul (a b : Word) : Word := a * b
def iMulh (a b : Word) : Word := wrap64 (a.toInt * b.toInt / 2 ^ 64)
def iMulhn (a b : Word) : Word := BitVec.ofNat 64 (a.toNat * b.toNat / 2 ^ 64)
/-- R169: all ones for b = 0; −2^63 / −1 wraps to −2^63. -/
def iDiv (a b : Word) : Word := if b = 0 then BitVec.allOnes 64 else wrap64 (a.toInt.tdiv b.toInt)
def iDivn (a b : Word) : Word := if b = 0 then BitVec.allOnes 64 else BitVec.ofNat 64 (a.toNat / b.toNat)
def iRem (a b : Word) : Word := if b = 0 then a else wrap64 (a.toInt.tmod b.toInt)
def iRemn (a b : Word) : Word := if b = 0 then a else BitVec.ofNat 64 (a.toNat % b.toNat)
def iAnd (a b : Word) : Word := a &&& b
def iOr (a b : Word) : Word := a ||| b
def iXor (a b : Word) : Word := a ^^^ b
def iAndn (a b : Word) : Word := a &&& ~~~b
def iOrn (a b : Word) : Word := a ||| ~~~b
/-- Shift counts are b[5:0] (R168). -/
def iShl (a b : Word) : Word := a <<< (b.toNat % 64)
def iShr (a b : Word) : Word := a >>> (b.toNat % 64)
def iSra (a b : Word) : Word := a.sshiftRight (b.toNat % 64)
def iRol (a b : Word) : Word := a.rotateLeft (b.toNat % 64)
def iMin (a b : Word) : Word := if a.toInt ≤ b.toInt then a else b
def iMax (a b : Word) : Word := if a.toInt ≤ b.toInt then b else a
def iMinn (a b : Word) : Word := if a.toNat ≤ b.toNat then a else b
def iMaxn (a b : Word) : Word := if a.toNat ≤ b.toNat then b else a
def iSeq (a b : Word) : Word := boolWord (a == b)
def iSne (a b : Word) : Word := boolWord (a != b)
def iSlt (a b : Word) : Word := boolWord (decide (a.toInt < b.toInt))
def iSltn (a b : Word) : Word := boolWord (decide (a.toNat < b.toNat))
def iSge (a b : Word) : Word := boolWord (decide (b.toInt ≤ a.toInt))
def iSgen (a b : Word) : Word := boolWord (decide (b.toNat ≤ a.toNat))

/-! Bit functions (Table 7.2). -/
def iClz (a : Word) : Word := if a.toNat = 0 then 64 else BitVec.ofNat 64 (63 - Nat.log2 a.toNat)
/-- Zeros below the lowest set bit, looking at n bits. -/
def ctzLoop : Nat → Nat → Nat
  | 0, _ => 0
  | n + 1, v => if v % 2 = 1 then 0 else 1 + ctzLoop n (v / 2)
def iCtz (a : Word) : Word := BitVec.ofNat 64 (ctzLoop 64 a.toNat)
/-- Set bits among the low n. -/
def popLoop : Nat → Nat → Nat
  | 0, _ => 0
  | n + 1, v => v % 2 + popLoop n (v / 2)
def iPopc (a : Word) : Word := BitVec.ofNat 64 (popLoop 64 a.toNat)
/-- The low n bits in reverse order. -/
def revLoop : Nat → Nat → Nat → Nat
  | 0, _, acc => acc
  | n + 1, v, acc => revLoop n (v / 2) (2 * acc + v % 2)
def iBrev (a : Word) : Word := BitVec.ofNat 64 (revLoop 64 a.toNat 0)
/-- BFX: bits [pos+len−1 : pos], sign- or zero-extended (R171). -/
def iBfx (sgn : Bool) (pos len : Nat) (a : Word) : Word :=
  let f := a.toNat / 2 ^ pos % 2 ^ len
  if sgn then wrap64 (sintOf len f) else BitVec.ofNat 64 f
/-- BFI: d with bits [pos+len−1 : pos] replaced by a[len−1:0]. -/
def iBfi (pos len : Nat) (d a : Word) : Word := BitVec.ofNat 64 (putBits d.toNat (pos + len - 1) pos (a.toNat % 2 ^ len))

def execAdd (d a b : SReg) (s : State) : Out := intRRR iAdd d a b s
def execSub (d a b : SReg) (s : State) : Out := intRRR iSub d a b s
def execMul (d a b : SReg) (s : State) : Out := intRRR iMul d a b s
def execMulh (d a b : SReg) (s : State) : Out := intRRR iMulh d a b s
def execMulhn (d a b : SReg) (s : State) : Out := intRRR iMulhn d a b s
def execDiv (d a b : SReg) (s : State) : Out := intRRR iDiv d a b s
def execDivn (d a b : SReg) (s : State) : Out := intRRR iDivn d a b s
def execRem (d a b : SReg) (s : State) : Out := intRRR iRem d a b s
def execRemn (d a b : SReg) (s : State) : Out := intRRR iRemn d a b s
def execAnd (d a b : SReg) (s : State) : Out := intRRR iAnd d a b s
def execOr (d a b : SReg) (s : State) : Out := intRRR iOr d a b s
def execXor (d a b : SReg) (s : State) : Out := intRRR iXor d a b s
def execAndn (d a b : SReg) (s : State) : Out := intRRR iAndn d a b s
def execOrn (d a b : SReg) (s : State) : Out := intRRR iOrn d a b s
def execShl (d a b : SReg) (s : State) : Out := intRRR iShl d a b s
def execShr (d a b : SReg) (s : State) : Out := intRRR iShr d a b s
def execSra (d a b : SReg) (s : State) : Out := intRRR iSra d a b s
def execRol (d a b : SReg) (s : State) : Out := intRRR iRol d a b s
def execMin (d a b : SReg) (s : State) : Out := intRRR iMin d a b s
def execMax (d a b : SReg) (s : State) : Out := intRRR iMax d a b s
def execMinn (d a b : SReg) (s : State) : Out := intRRR iMinn d a b s
def execMaxn (d a b : SReg) (s : State) : Out := intRRR iMaxn d a b s
def execSeq (d a b : SReg) (s : State) : Out := intRRR iSeq d a b s
def execSne (d a b : SReg) (s : State) : Out := intRRR iSne d a b s
def execSlt (d a b : SReg) (s : State) : Out := intRRR iSlt d a b s
def execSltn (d a b : SReg) (s : State) : Out := intRRR iSltn d a b s
def execSge (d a b : SReg) (s : State) : Out := intRRR iSge d a b s
def execSgen (d a b : SReg) (s : State) : Out := intRRR iSgen d a b s

/-- CSEL: (s_b ≠ 0) ? s_a : s_d (R168). -/
def execCsel (d a b : SReg) (s : State) : Out := writeNext d (if s.rS b ≠ 0 then s.rS a else s.rS d) 8 s

/-- LEA: Wrap64(s_a + (s_b << sh) + SX(disp, 18)) (R170). -/
def execLea (d a b : SReg) (sh : Fin 16) (disp : BitVec 18) (s : State) : Out :=
  writeNext d (s.rS a + (s.rS b <<< sh.val) + sx disp) 8 s

def execClz (d a : SReg) (s : State) : Out := writeNext d (iClz (s.rS a)) 8 s
def execCtz (d a : SReg) (s : State) : Out := writeNext d (iCtz (s.rS a)) 8 s
def execPopc (d a : SReg) (s : State) : Out := writeNext d (iPopc (s.rS a)) 8 s
def execBrev (d a : SReg) (s : State) : Out := writeNext d (iBrev (s.rS a)) 8 s
def execBfx (d a : SReg) (sgn : Bool) (pos lenM1 : Fin 64) (s : State) : Out :=
  writeNext d (iBfx sgn pos.val (lenM1.val + 1) (s.rS a)) 8 s
def execBfi (d a : SReg) (pos lenM1 : Fin 64) (s : State) : Out :=
  writeNext d (iBfi pos.val (lenM1.val + 1) (s.rS d) (s.rS a)) 8 s

/-! Immediate forms (Table 7.3). -/
def execAddi (d a : SReg) (imm : BitVec 29) (s : State) : Out := writeNext d (s.rS a + sx imm) 8 s
def execShlImm (d a : SReg) (imm : BitVec 29) (s : State) : Out := writeNext d (iShl (s.rS a) (zx imm)) 8 s
def execShrImm (d a : SReg) (imm : BitVec 29) (s : State) : Out := writeNext d (iShr (s.rS a) (zx imm)) 8 s
def execSraImm (d a : SReg) (imm : BitVec 29) (s : State) : Out := writeNext d (iSra (s.rS a) (zx imm)) 8 s
def execRolImm (d a : SReg) (imm : BitVec 29) (s : State) : Out := writeNext d (iRol (s.rS a) (zx imm)) 8 s
def execLi (d : SReg) (imm : BitVec 29) (s : State) : Out := writeNext d (sx imm) 8 s
/-- ADDPC: pc plus a byte offset. -/
def execAddpc (d : SReg) (imm : BitVec 29) (s : State) : Out := writeNext d (s.me.pc + sx imm) 8 s
/-- LIX is an extended pair: 16 bytes of code (R156). -/
def execLix (d : SReg) (v : Word) (s : State) : Out := writeNext d v 16 s

end Sys2Proof.Machine
end

