-- ==== Sys2Proof/Machine/Advice.lean ====
section
/-!
DEFINITION. The advice sequencer (R346–R366): its instructions, and the events ADVICE_IDLE_RECORD, AWAIT_RECORD and
PREFETCH_COMPLETE. An advice instruction acts on the advice context of partition cur.pid on core cur.core, and on nothing that a
semantic program can read (R361).
-/
namespace Sys2Proof.Machine

/-- The acting advice context. -/
def State.adv (s : State) : Advice := (s.pcore s.cur.pid s.cur.core).adv
def State.setAdv (s : State) (a : Advice) : State :=
  s.setPCore s.cur.pid s.cur.core { s.pcore s.cur.pid s.cur.core with adv := a }

/-- The advice context of partition pid on a core acts. -/
def State.actAdvice (s : State) (core pid : Nat) : State := { s with cur := ⟨core, 8, pid, 0, false, none⟩ }

/-- Counters are 32 bits wide and saturate (R366). -/
def sat32 (n k : Nat) : Nat := Nat.min (n + k) (2 ^ 32 - 1)

/-- h0 reads as zero, and a write to it is discarded (R348). -/
def Advice.rH (a : Advice) (r : HReg) : Word := if r.val = 0 then 0 else a.h.get r
def Advice.wH (a : Advice) (r : HReg) (v : Word) : Advice := if r.val = 0 then a else { a with h := a.h.set r.val v r.isLt }

def Advice.next (a : Advice) : Advice := { a with apc := a.apc + 1 }
/-- APC moves by a signed number of words; what lies outside the code faults when it is fetched (R352). -/
def Advice.jumpBy (a : Advice) (off : Int) : Advice := { a with apc := (((a.apc : Int) + off) % (2 ^ 32 : Nat)).toNat }

/-- Idle (R354). -/
def Advice.idle (a : Advice) : Advice := { a with run := .idle, cIdle := sat32 a.cIdle 1 }
/-- An advice fault is absorbed (R349). -/
def Advice.fault (a : Advice) : Advice := Advice.idle { a with cAfault := sat32 a.cAfault 1 }

/-- An advice instruction that only changes the context. -/
def adviceStep (f : Advice → Advice) (s : State) : Out := .next (s.setAdv (f s.adv))

/-! ## Register and control instructions (R351, R352) -/

def execAaddi (d src : HReg) (imm : BitVec 18) (s : State) : Out := adviceStep (fun a => (a.wH d (a.rH src + sx imm)).next) s
def execAadd (d src : HReg) (s : State) : Out := adviceStep (fun a => (a.wH d (a.rH d + a.rH src)).next) s
def execAand (d src : HReg) (s : State) : Out := adviceStep (fun a => (a.wH d (a.rH d &&& a.rH src)).next) s
def execAmul (d src : HReg) (s : State) : Out := adviceStep (fun a => (a.wH d (a.rH d * a.rH src)).next) s
def execAshl (d src : HReg) (r : Bool) (n : Fin 64) (s : State) : Out :=
  adviceStep (fun a => (a.wH d (if r then a.rH src >>> n.val else a.rH src <<< n.val)).next) s

/-- The field of CUR that AMARK copies. -/
def MarkRec.field (r : MarkRec) (f : Nat) : Word :=
  match f with
  | 0 => BitVec.ofNat 64 r.id
  | 1 => BitVec.ofNat 64 r.occ
  | 2 => r.sa
  | 3 => r.sb
  | _ => BitVec.ofNat 64 r.strand

def execAmark (d : HReg) (f : Fin 8) (s : State) : Out := adviceStep (fun a => (a.wH d (a.cur.field f.val)).next) s

def abrCond (c : Nat) (x y : Word) : Bool :=
  match c with
  | 0 => x == y
  | 1 => x != y
  | 2 => decide (x.toInt < y.toInt)
  | 3 => decide (y.toInt ≤ x.toInt)
  | 4 => decide (x.toNat < y.toNat)
  | _ => decide (y.toNat ≤ x.toNat)

def execAbr (d src : HReg) (cond : Fin 8) (off : BitVec 15) (s : State) : Out :=
  adviceStep (fun a => if abrCond cond.val (a.rH d) (a.rH src) then a.jumpBy off.toInt else a.next) s
def execAjmp (off : BitVec 18) (s : State) : Out := adviceStep (fun a => a.jumpBy off.toInt) s
def execAend (s : State) : Out := adviceStep Advice.idle s
def execAnop (s : State) : Out := adviceStep Advice.next s

/-! ## Following the marks (R353, R354) -/

/-- Strand number of relative strand k of the acting partition on the acting core. -/
def State.advStrand (s : State) (k : Nat) : Nat := s.myPart.k0 s.cur.core + k
/-- Queue k. -/
def State.markQueue (s : State) (k : Nat) : List MarkRec := (s.strand s.cur.core (s.advStrand k)).marks
def State.setQueue (s : State) (k : Nat) (q : List MarkRec) : State :=
  s.setStrand s.cur.core (s.advStrand k) { s.strand s.cur.core (s.advStrand k) with marks := q }
/-- Occ(k, id). -/
def State.occOf (s : State) (k id : Nat) : Nat :=
  (((s.strand s.cur.core (s.advStrand k)).occ.find? (fun c => c.1 == id)).map (·.2)).getD 0

/-- The block that the mark index of the bound pricking names for id. -/
def State.indexOf (s : State) (id : Nat) : Option Nat :=
  (Map.get? s.pricks s.adv.bound).bind (fun p => (p.index.find? (fun e => e.1 == id)).map (·.2))

/-- The jump through the mark index. -/
def Advice.resyncTo (a : Advice) (r : MarkRec) (block : Nat) : Advice :=
  { a with cur := r, stale := false, apc := block, run := .running, cResync := sat32 a.cResync 1 }

/-- Resync from a record that has been popped. -/
def State.resync (s : State) (r : MarkRec) : State :=
  match s.indexOf r.id with
  | some b => s.setAdv (s.adv.resyncTo r b)
  | none => s.setAdv s.adv.idle

/-- Await takes a record (R353): match or stale. -/
def Advice.take (a : Advice) (r : MarkRec) (n : Nat) (d : HReg) : Advice :=
  let b := { a with cur := r, run := .running }
  if r.occ = n then Advice.next ({ b with stale := false, cMatch := sat32 b.cMatch 1 }.wH d 0)
  else Advice.next ({ b with stale := true, cStale := sat32 b.cStale 1 }.wH d 1)

/-- Await(k, id, n) over the records of queue k. -/
def awaitLoop (k id n : Nat) (d : HReg) : List MarkRec → State → State
  | [], s =>
    let s1 := s.setQueue k []
    if n ≤ s1.occOf k id then s1.setAdv (s1.adv.take ⟨id, s1.occOf k id, 0, 0, k, 0⟩ 0 d)
    else s1.setAdv { s1.adv with run := .await k id n d }
  | r :: rs, s =>
    if r.id = id ∧ r.occ < n then awaitLoop k id n d rs (s.setAdv { s.adv with cDiscard := sat32 s.adv.cDiscard 1 })
    else
      let s1 := s.setQueue k rs
      if r.id = id then s1.setAdv (s1.adv.take r n d) else s1.resync r

/-- AWAIT; an n of 0, or a k of g or above, is an advice fault. -/
def execAwait (d src : HReg) (id : BitVec 16) (s : State) : Out :=
  let v := (s.adv.rH src).toNat
  let n := bits v 47 0
  let k := bits v 50 48
  if n = 0 ∨ s.g ≤ k then .next (s.setAdv s.adv.fault)
  else .next (awaitLoop k id.toNat n d (s.markQueue k) s)

/-- ASYNC from queue k: it waits while the queue is empty. -/
def asyncFrom (k : Nat) (s : State) : State :=
  match s.markQueue k with
  | [] => s.setAdv { s.adv with run := .async k }
  | r :: rs => (s.setQueue k rs).resync r

def execAsync (k : Fin 8) (s : State) : Out :=
  if s.g ≤ k.val then .next (s.setAdv s.adv.fault) else .next (asyncFrom k.val s)

/-- A waiting AWAIT or ASYNC looks at its queue again. -/
def execAwaitRecord (core pid : Nat) (s : State) : Out :=
  let s1 := s.actAdvice core pid
  match s1.adv.run with
  | .await k id n d => .next (awaitLoop k id n d (s1.markQueue k) s1)
  | .async k => .next (asyncFrom k s1)
  | .idle => .next s
  | .ended => .next s
  | .running => .next s

/-- The queue whose head was pushed first, among relative strands below g. -/
def State.oldestQueue (s : State) : Nat → Option (Nat × MarkRec)
  | 0 => none
  | k + 1 =>
    match s.oldestQueue k, s.markQueue k with
    | some (j, r), q :: _ => if q.time < r.time then some (k, q) else some (j, r)
    | some b, [] => some b
    | none, q :: _ => some (k, q)
    | none, [] => none

/-- Anchor ids (R354). -/
def isAnchor (id : Nat) : Bool := decide (0xF000 ≤ id)

/-- The idle context takes the oldest record: it resumes at a registered anchor, or discards the record. -/
def execAdviceIdleRecord (core pid : Nat) (s : State) : Out :=
  let s1 := s.actAdvice core pid
  if s1.adv.run = .idle then
    match s1.oldestQueue s1.g with
    | none => .next s
    | some (k, r) =>
      let s2 := s1.setQueue k ((s1.markQueue k).drop 1)
      match (if isAnchor r.id then s2.indexOf r.id else none) with
      | some b => .next (s2.setAdv (s2.adv.resyncTo r b))
      | none => .next (s2.setAdv { s2.adv with cDiscard := sat32 s2.adv.cDiscard 1 })
  else .next s

/-! ## Actions (R355–R360) -/

/-- An action: skipped while STALE is set (R355). -/
def action (f : State → State) (s : State) : Out :=
  let a := s.adv
  let s1 := if a.stale then s.setAdv { a with stale := false, cSkip := sat32 a.cSkip 1 } else f s
  .next (s1.setAdv s1.adv.next)

def State.drop1 (s : State) : State := s.setAdv { s.adv with cDrop := sat32 s.adv.cDrop 1 }
def State.trim (s : State) (n : Nat) : State := s.setAdv { s.adv with cTrim := sat32 s.adv.cTrim n }

/-- The parts of n bytes at a that lie in one 64 KiB page each, at most the first m of them. -/
def pagesOf : Nat → Word → Nat → List (Word × Nat)
  | 0, _, _ => []
  | m + 1, a, n =>
    if n = 0 then []
    else
      let k := Nat.min n (65536 - a.toNat % 65536)
      (a, k) :: pagesOf m (a + BitVec.ofNat 64 k) (n - k)

def rangePages (a : Word) (n : Nat) : List (Word × Nat) := pagesOf (n / 65536 + 2) a n

/-- Where a VA page of the context lies, if an action may touch it (R359): readable, of this package, without NORACE. -/
def State.advicePage (s : State) (va : Word) : Option (Loc × State) :=
  match translate s s.cur.pid s.myPart.slot s.cur.core va .read with
  | .error _ => none
  | .ok (l, s1) => if isLocal l.da && l.checked then some (l, s1) else none

/-- Prefetch requests of slack 4,095, one for each slice (R133, R136, R356). Strand number 8 marks the packets as the advice sequencer's. -/
def State.injectPrefetch (s : State) (l : Loc) (n : Nat) : State :=
  ((s.shares s.cur.core [⟨l, n⟩]).foldl (fun s t =>
    s.pushPacket ⟨s.myPart.tclass, 4095, s.now, false, s.cur.core, 8, t.1.1, t.1.2, s.cur.pid, .data, t.2⟩) s).touchLines s.cur.core [⟨l, n⟩] false

/-- What a part of the range is prefetched from; none: the part is dropped. Lane memory has no place to prefetch to. Log 46. -/
def State.pfPlace (s : State) (vt loc : Bool) (a : Word) (n : Nat) : Option (Loc × State) :=
  let c := s.myCtx
  let at_ := if vt then (vtPlace s.myPart c s.cur.core loc a n).map (fun d => ((⟨d, none, true, false, c.vwkey⟩ : Loc), s)) else s.advicePage a
  at_.bind (fun r =>
    match daPlace r.1.da with
    | .far => some r
    | .vault _ _ => some r
    | .lane _ _ => none
    | .none => none)

/-- Prefetches the parts within the room left in the budget; answers the bytes issued. A part with an uncorrectable word among the bytes
that it would read is dropped (Table 22.2). -/
def pfLoop (vt loc : Bool) : List (Word × Nat) → Nat → Nat → State → Nat × State
  | [], _, done, s => (done, s)
  | (a, n) :: ps, room, done, s =>
    match s.pfPlace vt loc a n with
    | none => pfLoop vt loc ps room done s.drop1
    | some (l, s1) =>
      let k := Nat.min n room
      let s2 := if k < n then s1.trim (n - k) else s1
      if (s1.poisoned l.da k).isSome then pfLoop vt loc ps room done s.drop1
      else
      pfLoop vt loc ps (room - k) (done + k) (if k = 0 then s2 else s2.injectPrefetch l k)

/-- APF (R356, R360). -/
def execApf (d src : HReg) (sp : Fin 4) (loc : Bool) (s : State) : Out :=
  action (fun s =>
    let a := s.adv
    let room := s.myPart.pfb - a.pfInFlight.foldl (· + ·) 0
    let r := pfLoop (decide (sp.val = 2)) loc (rangePages (a.rH d) (bits (a.rH src).toNat 31 0)) room 0 s
    if r.1 = 0 then r.2
    else
      let b := r.2.adv
      r.2.setAdv { b with pfInFlight := b.pfInFlight ++ [r.1], cPfbytes := sat32 b.cPfbytes r.1 }) s

/-- The oldest prefetch has filled the cluster cache or a row buffer. -/
def execPrefetchComplete (core pid : Nat) (s : State) : Out :=
  let c := s.pcore pid core
  .next (s.setPCore pid core { c with adv := { c.adv with pfInFlight := c.adv.pfInFlight.drop 1 } })

/-- A line takes a residency class (R357): 0 normal, 1 pin, 2 stream; one that is not there and is normal is not listed. -/
def setClass (m : Map Line) (line cls : Nat) : Map Line :=
  let l := Map.getD m line Line.reset
  if cls = 0 ∧ l.key = none then Map.erase m line else Map.set m line { l with cls := cls }

/-- No context of a cluster holds a pin on the line any longer. -/
def State.unpin (s : State) (n line : Nat) : State :=
  { s with pcores := s.pcores.map (fun c =>
      (c.1, if clusterOf (c.1 % 1024) = n then { c.2 with adv := { c.2.adv with pins := c.2.adv.pins.filter (· ≠ line) } } else c.2)) }

/-- Gives one line of the cluster's cache its residency class. A pin beyond the budget is refused and counted in TRIM; any other class
removes every pin on the line. -/
def State.pinLine (s : State) (cls line : Nat) : State :=
  let n := clusterOf s.cur.core
  let c := s.cluster n
  let a := s.adv
  if cls = 1 then
    if a.pins.contains line then s
    else if s.myPart.pinb < (a.pins.length + 1) * Config.lineBytes then s.trim 1
    else (s.setCluster n { c with lines := setClass c.lines line 1 }).setAdv { a with pins := a.pins ++ [line] }
  else (s.setCluster n { c with lines := setClass c.lines line cls }).unpin n line

/-- APIN (R357). It reads no memory; only this package's far memory has lines in the cluster cache. -/
def execApin (d src : HReg) (cls : Fin 4) (s : State) : Out :=
  action (fun s =>
    (rangePages (s.adv.rH d) (bits (s.adv.rH src).toNat 31 0)).foldl (fun s p =>
      match s.advicePage p.1 with
      | none => s.drop1
      | some (l, s1) =>
        match daPlace l.da with
        | .far => (linesAt l.da p.2).foldl (fun s k => s.pinLine cls.val k) s1
        | _ => s1) s) s

/-- ASLK: a bias beyond the budget is clamped to it (R358, R360). -/
def execAslk (k : Fin 8) (bias : BitVec 10) (s : State) : Out :=
  action (fun s =>
    if s.g ≤ k.val then s.drop1
    else
      let m : Int := s.myPart.biasMax
      let b := if bias.toInt < -m then -m else if m < bias.toInt then m else bias.toInt
      let j := s.advStrand k.val
      let s1 := s.setStrand s.cur.core j { s.strand s.cur.core j with bias := b }
      if b = bias.toInt then s1 else s1.trim 1) s

/-- AORD. -/
def execAord (k : Fin 8) (prio : Fin 4) (s : State) : Out :=
  action (fun s =>
    if s.g ≤ k.val then s.drop1
    else
      let j := s.advStrand k.val
      s.setStrand s.cur.core j { s.strand s.cur.core j with prio := prio.val }) s

end Sys2Proof.Machine
end

