-- ==== Sys2Proof/Machine/Flags.lean ====
section
/-!
DEFINITION. The flag computations (R73–R76, R174, R175): reading operands under DAZ, rounding under FTZ, and the exact operations
with the flags each raises. A pair is always (value, flags); flags are those of FPFLAGS (Table 2.6).
-/
namespace Sys2Proof.Machine

def Fmt.magBits : Fmt → Nat × Nat
  | .flt eb mb => (eb, mb)
  | .nar v => (narE v, narM v)
  | .int _ _ => (0, 0)

/-- Is the pattern a nonzero subnormal of a floating format? -/
def Fmt.subnormal (f : Fmt) (c : Nat) : Bool :=
  !f.fixed && decide (c / 2 ^ f.magBits.2 % 2 ^ f.magBits.1 = 0 ∧ c % 2 ^ f.magBits.2 ≠ 0)

/-- FPCTL.DAZ and FPCTL.FTZ (Table 2.6). -/
def Strand.daz (x : Strand) : Bool := x.fpctl.testBit 0
def Strand.ftz (x : Strand) : Bool := x.fpctl.testBit 1

/-- The value of a pattern as arithmetic reads it: DAZ acts on codes 0–3 only (R75). -/
def readVal (daz : Bool) (f : Fmt) (c : Nat) : XV :=
  if daz && f.isFloat && f.subnormal c then XV.zero (f.decode c).neg else f.value c

/-- RoundTo with FTZ on codes 0–3 (R75, R82). -/
def roundFp (ftz : Bool) (f : Fmt) (mode : RMode) (rnd : Nat) (x : XV) : Nat × Nat :=
  let r := roundTo f mode rnd x
  if ftz && f.isFloat && f.subnormal r.1 then (f.signed (f.decode r.1).neg 0, r.2 ||| flagUF ||| flagNX) else r

/-- Rounds an exact result and joins its flags. -/
def finishFp (ftz : Bool) (f : Fmt) (mode : RMode) (rnd : Nat) (x : XV × Nat) (sigs : Nat) : Nat × Nat :=
  let r := roundFp ftz f mode rnd x.1
  (r.1, r.2 ||| x.2 ||| sigs)

/-- Exact d + a × b (R73): an infinity times a zero is invalid whatever the addend. -/
def fmaX (rdn : Bool) (d a b : XV) : XV × Nat :=
  let p := mulX a b
  let r := addX rdn d p.1
  (r.1, p.2 ||| r.2)

def subX (rdn : Bool) (a b : XV) : XV × Nat := addX rdn a b.negate
/-- Exact d − a × b. -/
def fmsX (rdn : Bool) (d a b : XV) : XV × Nat :=
  let p := mulX a b
  let r := addX rdn d p.1.negate
  (r.1, p.2 ||| r.2)

/-- Class bit of a value: −inf, −normal, −subnormal, −0, +0, +subnormal, +normal, +inf, signalling NaN, quiet NaN (R175, R228). -/
def classOf (f : Fmt) (c : Nat) : Nat :=
  match f.decode c with
  | .nan sig => if sig then 8 else 9
  | .inf neg => if neg then 0 else 7
  | .fin neg n _ _ =>
    if n = 0 then (if neg then 3 else 4)
    else if f.subnormal c then (if neg then 2 else 5)
    else if neg then 1 else 6

/-- Comparison conditions shared by FCMP and VCMP. -/
inductive FCond
  | eq | ne | lt | le | gt | ge | un
deriving DecidableEq, Repr

/-- Truth of a comparison of two values, and its flags: a signalling NaN raises NV, a quiet one under the ordering conditions
(R175, R217). -/
def compareX (c : FCond) (a b : XV) : Bool × Nat :=
  let isnan := a.isNan || b.isNan
  let sig := sigFlag a ||| sigFlag b
  let ordering : Nat := if isnan then flagNV else 0
  match c with
  | .eq => (!isnan && eqX a b, sig)
  | .ne => (isnan || !eqX a b, sig)
  | .lt => (!isnan && ltX a b, sig ||| ordering)
  | .le => (!isnan && (ltX a b || eqX a b), sig ||| ordering)
  | .gt => (!isnan && ltX b a, sig ||| ordering)
  | .ge => (!isnan && (ltX b a || eqX a b), sig ||| ordering)
  | .un => (isnan, sig)

end Sys2Proof.Machine
end

