-- ==== Sys2Proof/Machine/LoadStore.lean ====
section
/-!
DEFINITION. Scalar loads, stores and atomics (R179–R185). The checks run in the order of R180. A synchronising access drains the
store buffer first, is performed at once, ends the region and closes regions under R117.
-/
namespace Sys2Proof.Machine

/-- Step 2 of R180: ALIGN. -/
def State.misaligned (s : State) (sp : Nat) (loc : Bool) (ea : Word) (n : Nat) (k : Kind) : Option Stop :=
  if ea.toNat % n ≠ 0 then some (.trap cALIGN (effLocal s.cur.core sp loc ea) (memInfo sp k)) else none

/-- The effective address of LD, ST, LDA and STL. -/
def memEa (m : MemOp) (s : State) : Word := s.rS m.a + s.rS m.b + sx m.disp

/-- The value a load of n bytes places (R181). -/
def loadValue (x : Bool) (bs : List Byte) : Word :=
  if x then wrap64 (sintOf (8 * bs.length) (leNat bs)) else BitVec.ofNat 64 (leNat bs)

/-- LD and LDA: after is what the instruction does besides. -/
def loadTo (m : MemOp) (plain : Bool) (s : State) (s0 : State) (after : State → State) : Res :=
  let ea := memEa m s
  let n := 2 ^ m.w.val
  match s.misaligned m.sp.val m.loc ea n .read with
  | some t => .stop t s
  | none =>
    match s0.load plain m.slk m.sp.val m.loc ea n with
    | .error t => .stop t s
    | .ok (bs, s1) => .ok (((after s1).wS m.d (loadValue m.x bs)).advance (slackBytes m.slk))

def execLd (m : MemOp) (s : State) : Out := finish (loadTo m true s s id)
def execLda (m : MemOp) (s : State) : Out := finish (loadTo m false s s.drain (fun s1 => s1.sync m.scope.val))

/-- ST and STL. -/
def execSt (m : MemOp) (s : State) : Out :=
  let ea := memEa m s
  let n := 2 ^ m.w.val
  let v := s.rS m.d
  finish (
    match s.misaligned m.sp.val m.loc ea n .write with
    | some t => .stop t s
    | none =>
      match s.store m.slk m.sp.val m.loc ea (leBytes n v.toNat) with
      | .error t => .stop t s
      | .ok s1 =>
        .ok ((s1.foldStore m.sp.val m.loc ea (BitVec.ofNat 64 (v.toNat % 2 ^ (8 * n))) n).advance (slackBytes m.slk)))

def execStl (m : MemOp) (s : State) : Out :=
  let ea := memEa m s
  let n := 2 ^ m.w.val
  let v := s.rS m.d
  finish (
    match s.misaligned m.sp.val m.loc ea n .write with
    | some t => .stop t s
    | none =>
      match s.drain.storeNow m.slk m.sp.val m.loc ea (leBytes n v.toNat) with
      | .error t => .stop t s
      | .ok s1 =>
        .ok (((s1.sync m.scope.val).foldStore m.sp.val m.loc ea (BitVec.ofNat 64 (v.toNat % 2 ^ (8 * n))) n).advance
          (slackBytes m.slk)))

/-! ## Atomics -/

/-- New(AOP, old, op) of Table 7.7 on w-bit values, with the flags of .fadd (which ignores FTZ and DAZ). -/
def atomNew (aop w old op : Nat) : Nat × Nat :=
  match aop with
  | 0 => ((old + op) % 2 ^ w, 0)
  | 1 => (old &&& op, 0)
  | 2 => (old ||| op, 0)
  | 3 => (old ^^^ op, 0)
  | 4 => (if sintOf w old ≤ sintOf w op then old else op, 0)
  | 5 => (if sintOf w old ≤ sintOf w op then op else old, 0)
  | 6 => (if old ≤ op then old else op, 0)
  | 7 => (if old ≤ op then op else old, 0)
  | 8 =>
    let f : Fmt := if w = 32 then .flt 8 23 else .flt 11 52
    let x := f.value old
    let y := f.value op
    finishFp false f .rne 0 (addX false x y) (sigFlag x ||| sigFlag y)
  | _ => (op, 0)

def atomEa (o : AtomOp) (s : State) : Word := s.rS o.a + sx o.disp

/-- The synchronisation of an atomic by its ORD and scope (R184). -/
def atomSync (o : AtomOp) (s : State) : State := if o.ord.val = 0 then s else s.sync o.scope.val

/-- An atomic: new maps the old value to the new one, or to none; done finishes with the old value. DESIGN CHOICE (log 63): relaxed
atomics (ORD 0), as BINIT, BARR and VSCADD, perform the strand's older buffered stores first, which Table 4.5 asks only for stores
to the same byte. -/
def atomic (o : AtomOp) (det : Bool) (new : Nat → Option Nat) (done : Nat → State → State) (s : State) : Res :=
  let ea := atomEa o s
  let n := 2 ^ o.w.val
  if det && s.inDet then .stop (.trap cDETATOM 0 s.cur.word) s
  else
    match s.misaligned o.sp.val o.loc ea n .atomic with
    | some t => .stop t s
    | none =>
      match s.drain.rmw o.slk o.sp.val o.loc ea n (fun bs => (new (leNat bs)).map (leBytes n)) with
      | .error t => .stop t s
      | .ok (bs, s1) => .ok ((done (leNat bs) (atomSync o s1)).advance (slackBytes o.slk))

/-- The operand s_b[8k−1:0]. -/
def atomOperand (o : AtomOp) (s : State) : Nat := (s.rS o.b).toNat % 2 ^ (8 * 2 ^ o.w.val)

/-- AMO: a digest term in a DET launch (Table 16.2). -/
def execAmo (o : AtomOp) (s : State) : Out :=
  let op := atomOperand o s
  let w := 8 * 2 ^ o.w.val
  finish (atomic o (o.aop.val == 8) (fun old => some (atomNew o.aop.val w old op).1)
    (fun old s1 => (s1.raise (atomNew o.aop.val w old op).2).fold o.sp.val (atomEa o s) (BitVec.ofNat 64 op)
      (0x80 + 16 * o.aop.val + 2 ^ o.w.val)) s)

def execAmox (o : AtomOp) (s : State) : Out :=
  let op := atomOperand o s
  let w := 8 * 2 ^ o.w.val
  finish (atomic o true (fun old => some (atomNew o.aop.val w old op).1)
    (fun old s1 => (s1.raise (atomNew o.aop.val w old op).2).wS o.d (BitVec.ofNat 64 old)) s)

/-- CAS: a comparison that fails writes nothing, and synchronises all the same (R184). -/
def execCas (o : AtomOp) (s : State) : Out :=
  finish (atomic o true (fun old => if old = (s.rS o.d).toNat % 2 ^ (8 * 2 ^ o.w.val) then some (atomOperand o s) else none)
    (fun old s1 => s1.wS o.d (BitVec.ofNat 64 old)) s)

end Sys2Proof.Machine
end

