-- ==== Sys2Proof/Machine/Float.lean ====
section
/-!
DEFINITION. Scalar floating point (R173–R176). A value of format F is the low w bits of its register; a result is zero-extended,
an integer result of FCVT sign-extended. Flags are merged into FPFLAGS at commit.
-/
namespace Sys2Proof.Machine

/-- The format of a scalar code 0–3. -/
def fpOf (s : State) (fmt : Nat) : Fmt := (fmtOf s.myPart.fmt fmt).getD (.flt 8 23)

/-- Operand a of format F, from the low bits of its register (R173). -/
def fpRead (s : State) (f : Fmt) (r : SReg) : XV := readVal s.me.daz f ((s.rS r).toNat % 2 ^ f.width)

/-- Places a pattern in a register with flags (R173, R174). -/
def fpWrite (d : SReg) (r : Nat × Nat) (s : State) : Out := .next (((s.wS d (BitVec.ofNat 64 r.1)).raise r.2).advance 8)

/-- Draw of R84 for a scalar instruction: i = 0. -/
def State.draw (s : State) (i : Nat) : Nat := srDraw s.me.seed s.me.sbase i

/-- An arithmetic form of R174: op gives the exact value and its flags. SR without its feature is ILLEGAL (Table 14.3). -/
def fpArith (op : Bool → Fmt → State → XV × Nat) (d : SReg) (rnd fmt : Fin 8) (s : State) : Out :=
  if s.rndAllowed rnd.val then
    let f := fpOf s fmt.val
    let mode := s.rmode rnd.val
    fpWrite d (finishFp s.me.ftz f mode (s.draw 0) (op (decide (mode = .rdn)) f s) 0) s
  else finish s.illegal

/-- The value computed by op on two operands, with NV for signalling NaNs. -/
def binX (op : Bool → XV → XV → XV × Nat) (a b : SReg) (rdn : Bool) (f : Fmt) (s : State) : XV × Nat :=
  let x := fpRead s f a
  let y := fpRead s f b
  let r := op rdn x y
  (r.1, r.2 ||| sigFlag x ||| sigFlag y)

def execFadd (d a b : SReg) (rnd fmt : Fin 8) (s : State) : Out := fpArith (binX addX a b) d rnd fmt s
def execFsub (d a b : SReg) (rnd fmt : Fin 8) (s : State) : Out := fpArith (binX subX a b) d rnd fmt s
def execFmul (d a b : SReg) (rnd fmt : Fin 8) (s : State) : Out := fpArith (binX (fun _ => mulX) a b) d rnd fmt s
def execFdiv (d a b : SReg) (rnd fmt : Fin 8) (s : State) : Out := fpArith (binX (fun _ => divX) a b) d rnd fmt s
/-- d + a × b, one rounding. -/
def fmaOp (d a b : SReg) (rdn : Bool) (f : Fmt) (s : State) : XV × Nat :=
  let z := fpRead s f d
  let x := fpRead s f a
  let y := fpRead s f b
  let r := fmaX rdn z x y
  (r.1, r.2 ||| sigFlag z ||| sigFlag x ||| sigFlag y)
def execFfma (d a b : SReg) (rnd fmt : Fin 8) (s : State) : Out := fpArith (fmaOp d a b) d rnd fmt s
def execFsqrt (d a : SReg) (rnd fmt : Fin 8) (s : State) : Out :=
  fpArith (fun _ f s => let x := fpRead s f a; ((sqrtX x).1, (sqrtX x).2 ||| sigFlag x)) d rnd fmt s

/-- FMIN and FMAX (R74): an operand's bits, or the canonical NaN, without rounding flags. -/
def fpMinMax (op : XV → XV → XV × Nat) (d a b : SReg) (fmt : Fin 8) (s : State) : Out :=
  let f := fpOf s fmt.val
  let r := op (fpRead s f a) (fpRead s f b)
  fpWrite d (finishFp s.me.ftz f .rne 0 r 0) s

def execFmin (d a b : SReg) (fmt : Fin 8) (s : State) : Out := fpMinMax minX d a b fmt s
def execFmax (d a b : SReg) (fmt : Fin 8) (s : State) : Out := fpMinMax maxX d a b fmt s

/-- COND of FCMP (R175). -/
def fcond (c : Nat) : FCond :=
  match c with
  | 0 => .eq
  | 1 => .lt
  | 2 => .le
  | 3 => .un
  | _ => .ne

def execFcmp (d a b : SReg) (cond fmt : Fin 8) (s : State) : Out :=
  let f := fpOf s fmt.val
  let r := compareX (fcond cond.val) (fpRead s f a) (fpRead s f b)
  fpWrite d (b2n r.1, r.2) s

/-- The source value of FCVT (R176). -/
def fcvtSource (s : State) (src : Nat) (a : SReg) : XV :=
  match fmtOf s.myPart.fmt src with
  | some f => readVal s.me.daz f ((s.rS a).toNat % 2 ^ f.patWidth)
  | none => XV.zero false

/-- Placement of a pattern of the target format: sign-extended for an I code, else zero-extended (R176). -/
def placePattern (f : Fmt) (c : Nat) : Word :=
  match f with
  | .int true w => wrap64 (sintOf w c)
  | _ => BitVec.ofNat 64 c

def execFcvt (d a : SReg) (rnd : Fin 8) (src tgt : Fin 64) (s : State) : Out :=
  if s.rndAllowed rnd.val then
    let x := fcvtSource s src.val a
    let f := (fmtOf s.myPart.fmt tgt.val).getD (.int false 64)
    let r := finishFp s.me.ftz f (s.rmode rnd.val) (s.draw 0) (x, 0) (sigFlag x)
    .next (((s.wS d (placePattern f r.1)).raise r.2).advance 8)
  else finish s.illegal

/-- FCLASS ignores DAZ (R175). -/
def execFclass (d a : SReg) (fmt : Fin 8) (s : State) : Out :=
  let f := fpOf s fmt.val
  writeNext d (BitVec.ofNat 64 (2 ^ classOf f ((s.rS a).toNat % 2 ^ f.width))) 8 s

def execFmv (d a : SReg) (fmt : Fin 8) (s : State) : Out :=
  let f := fpOf s fmt.val
  writeNext d (BitVec.ofNat 64 ((s.rS a).toNat % 2 ^ f.width)) 8 s

end Sys2Proof.Machine
end

