-- ==== Sys2Proof/Machine/Limits.lean ====
section
/-!
DEFINITION. Which instructions the encoding admits: the field limits and reserved values that R164 check 4 refuses with
ILLEGAL (an advice word: with an advice fault, R349). Limits that depend on a register or on a format register's width are
checked where the instruction runs.
-/
namespace Sys2Proof

/-- Codes 0–3 (Table 3.1). -/
def isFpCode (n : Nat) : Bool := decide (n ≤ 3)
/-- Codes 8–15. -/
def isIntCode (n : Nat) : Bool := decide (8 ≤ n ∧ n ≤ 15)
/-- Codes 16–31, FMT0–FMT15. -/
def isNarCode (n : Nat) : Bool := decide (16 ≤ n ∧ n ≤ 31)
def isNumCode (n : Nat) : Bool := isFpCode n || isIntCode n || isNarCode n
def isFloatCode (n : Nat) : Bool := isFpCode n || isNarCode n
/-- A code that is not reserved (R72). -/
def isCode (n : Nat) : Bool := isNumCode n || decide (n = 63)
def isIntOrBits (n : Nat) : Bool := isIntCode n || decide (n = 63)

/-- Rounding value 6 is reserved (R81). -/
def rndOk (r : Fin 8) : Bool := decide (r.val ≠ 6)
/-- R81, R199: 6 is reserved; RND is 0 for integer and BITS formats. -/
def rndFor (r : Fin 8) (fmt : Nat) : Bool := rndOk r && (isFloatCode fmt || decide (r.val = 0))

/-- R96, R100: space 11 is reserved; LOC needs LM or VT. -/
def spaceOk (sp : Fin 4) (loc : Bool) : Bool := decide (sp.val < 3) && (!loc || decide (sp.val ≠ 0))
/-- R113. -/
def scopeOk (s : Fin 8) : Bool := decide (s.val ≤ 4)

/-- A displacement a full word can hold in w bits; the extended form holds all 50 (R179, R233). -/
def dispOk (w : Nat) (slk : Slack) (disp : BitVec 50) : Bool :=
  match slk with
  | .cls _ => decide ((disp.setWidth w).signExtend 50 = disp)
  | .lit _ => true

/-- The numbers of Table 2.5. -/
def cregOk (n : Nat) : Bool :=
  decide (n ≤ 0x17) || decide (0x20 ≤ n ∧ n ≤ 0x2F) || decide (0x40 ≤ n ∧ n ≤ 0x81) || decide (n = 0x90)

/-- How an instruction of Table 8.1 uses its B field (Table 8.9). -/
inductive BUse
  | none | scalar | any
deriving DecidableEq, Repr

/-- R152, R199, R462: the B field and its chain bit and neighbour modifier. -/
def bUseOk (u : BUse) (b : BSrc) (cb : Bool) (nb : Nbr) : Bool :=
  match u, b with
  | .none, b => decide (b = .s 0) && !cb && decide (nb = .plain)
  | .scalar, .s _ => !cb && decide (nb = .plain)
  | .scalar, .v _ => false
  | .any, .s _ => !cb && decide (nb = .plain)
  | .any, .v _ => true

/-- The checks of R199 and R462 for an instruction of Table 8.1: accepted formats, whether it admits arity, whether it rounds,
how it uses B, and its XF values. -/
def VOpG.ok {D : Type} (o : VOpG D) (fmts : Nat → Bool) (arity rounds : Bool) (b : BUse) (xf : Nat → Bool) : Bool :=
  fmts o.fmt.val && (arity || decide (o.ar.val = 0)) && (if rounds then rndFor o.rnd o.fmt.val else decide (o.rnd.val = 0))
    && bUseOk b o.b o.cb o.nb && xf o.xf.val

def xfZero (n : Nat) : Bool := decide (n = 0)
/-- XF[0] is SAT, for integer formats only (Table 8.2). -/
def xfSat (fmt : Nat) (n : Nat) : Bool := decide (n = 0) || (decide (n = 1) && isIntCode fmt)

/-- Operation codes of VRED and VSCAN and the formats they take (R219). -/
def redOk (fmt n : Nat) : Bool := (decide (n ≤ 3) && isNumCode fmt) || (decide (4 ≤ n ∧ n ≤ 6) && isIntOrBits fmt)
/-- Conditions of VCMP (R217). -/
def cmpOk (fmt n : Nat) : Bool :=
  decide (n ≤ 6) && (decide (fmt ≠ 63) || decide (n ≤ 1)) && (!isIntCode fmt || decide (n ≠ 6))
/-- VMWIDE pairs (R215). -/
def wideOk (fmt n : Nat) : Bool := (isFloatCode fmt && isFloatCode n) || (isIntCode fmt && isIntCode n)
/-- VDOT pairs (R216). -/
def dotOk (fmt n : Nat) : Bool :=
  ((decide (fmt = 10) || decide (fmt = 11)) && decide (n = 9)) || ((decide (fmt = 14) || decide (fmt = 15)) && decide (n = 13))
    || ((decide (fmt = 2) || decide (fmt = 3) || isNarCode fmt) && decide (n = 1))

/-- The checks every vector memory word shares (R233); the scope and ACQ limits differ. -/
def VMem.ok (o : VMem) (w : Nat) : Bool := spaceOk o.sp o.loc && isCode o.fmt.val && dispOk w o.slk o.disp
/-- B is unused, a scalar stride, or an index vector (Table 8.9). -/
def VMem.bNone (o : VMem) : Bool := decide (o.b = .s 0) && !o.cb
def VMem.bStride (o : VMem) : Bool := match o.b with | .s _ => !o.cb | .v _ => false
def VMem.bIndex (o : VMem) : Bool := match o.b with | .s _ => false | .v _ => true
/-- R240: ACQ in VLD, VLDS and VLDA needs a predicate. -/
def VMem.acqMask (o : VMem) : Bool := !o.acq || decide (o.p.val ≠ 0)

/-- Operand codes of Table 9.3. -/
def matCode (n : Nat) : Bool := [1, 2, 3, 10, 11, 14, 15].contains n || isNarCode n
/-- R249, as far as the codes decide it: FP32 only with FP32, 16-bit with 16-bit, FMTn with FMTn or 8-bit integers. -/
def mopPair (a b : Nat) : Bool :=
  let cls (n : Nat) : Nat := if n = 1 then 32 else if [2, 3, 10, 14].contains n then 16 else 8
  matCode a && matCode b && decide (cls a = cls b)

/-- Codes of Table 9.7 for a drain target or operand. -/
def drainCode (n : Nat) : Bool := isNumCode n

/-- The limits of Table 10.2 (R274). -/
def XferOp.ok (x : XferOp) (a b : SReg) : Bool :=
  spaceOk x.ssp x.sloc && spaceOk x.dsp x.dloc && decide (a.val ≤ 62 ∧ b.val ≤ 62)
    && (x.be || (decide (x.breg.val = 0) && !x.bloc))

/-- R297: FMT and ROP of a collective. -/
def CollOp.ok (o : CollOp) : Bool :=
  (isFpCode o.fmt.val || isIntCode o.fmt.val)
    && (if o.kind.val = 0 ∨ o.kind.val = 2 then decide (o.rop.val ≤ 2) || (decide (o.rop.val ≤ 5) && isIntCode o.fmt.val)
        else decide (o.rop.val = 0))
    && (match o.slk with | .cls _ => decide (o.count = 0) | .lit _ => decide (o.d.val = 0))

/-- A floating-point half (R163). -/
def fpHalf (rnd fmt : Fin 8) : Bool := decide (fmt.val ≤ 3) && rndOk rnd

/-- A vector half takes the formats of its full-word instruction, in arity 1 (R159). -/
def vHalf (fmts : Nat → Bool) (fmt : Fin 64) (rnd : Fin 8) : Bool := fmts fmt.val && rndFor rnd fmt.val

/-- R178: scopes of BAR; R194: of TLBI. -/
def barScope (s : Fin 8) : Bool := decide (s.val = 1 ∨ s.val = 2)

/-- Limits of Table 7.6 and Table 7.7: aop up to top. -/
def AtomOp.okFor (o : AtomOp) (top : Nat) : Bool :=
  spaceOk o.sp o.loc && decide (2 ≤ o.w.val) && scopeOk o.scope && (decide (o.ord.val ≠ 0) || decide (o.scope.val = 0))
    && decide (o.aop.val ≤ top) && dispOk 0 o.slk o.disp

/-- The decode checks of R164, order 4, on what an instruction's fields hold. DESIGN CHOICE (log 75): VPERM, VCOMPR and VEXPD allow an AR
above 0, where R223 and R224 do not say whether they do; VCONJ and VNORM, whose formats R230 does not name, accept numeric formats and refuse
BITS, also in the copy that VCONJ makes at AR = 0; and .L and .R are admitted on A of VSLIDE, VPERM, VCOMPR, VEXPD and VAREV (R199). -/
def Instr.fieldsOk : Instr → Bool
  | .add .. | .sub .. | .mul .. | .mulh .. | .mulhn .. | .div .. | .divn .. | .rem .. | .remn .. | .and .. | .or .. | .xor ..
  | .andn .. | .orn .. | .shl .. | .shr .. | .sra .. | .rol .. | .min .. | .max .. | .minn .. | .maxn .. | .seq .. | .sne ..
  | .slt .. | .sltn .. | .sge .. | .sgen .. | .csel .. | .lea .. | .clz .. | .ctz .. | .popc .. | .brev .. => true
  | .bfx _ _ _ pos len => decide (pos.val + len.val + 1 ≤ 64)
  | .bfi _ _ pos len => decide (pos.val + len.val + 1 ≤ 64)
  | .addi .. | .li .. | .addpc .. | .lix .. => true
  | .shlImm _ _ imm | .shrImm _ _ imm | .sraImm _ _ imm | .rolImm _ _ imm => decide (imm.toNat ≤ 63)
  | .fadd _ _ _ r f | .fsub _ _ _ r f | .fmul _ _ _ r f | .ffma _ _ _ r f | .fdiv _ _ _ r f | .fsqrt _ _ r f =>
    rndOk r && decide (f.val ≤ 3)
  | .fmin _ _ _ f | .fmax _ _ _ f | .fclass _ _ f | .fmv _ _ f => decide (f.val ≤ 3)
  | .fcmp _ _ _ c f => decide (c.val ≤ 4 ∧ f.val ≤ 3)
  | .fcvt _ _ r s t => rndOk r && isNumCode s.val && isNumCode t.val
  | .j .. | .call .. | .jr .. | .callr .. | .ret .. | .beq .. | .bne .. | .blt .. | .bge .. | .bltn .. | .bgen .. => true
  | .nop | .yield | .exit => true
  | .ld m => spaceOk m.sp m.loc && decide (m.scope.val = 0) && (!m.x || decide (m.w.val ≠ 3)) && dispOk 13 m.slk m.disp
  | .st m => spaceOk m.sp m.loc && decide (m.scope.val = 0) && !m.x && dispOk 13 m.slk m.disp
  | .lda m => spaceOk m.sp m.loc && scopeOk m.scope && (!m.x || decide (m.w.val ≠ 3)) && dispOk 13 m.slk m.disp
  | .stl m => spaceOk m.sp m.loc && scopeOk m.scope && !m.x && dispOk 13 m.slk m.disp
  | .amo o => AtomOp.okFor o 8 && decide (o.d.val = 0)
  | .amox o => AtomOp.okFor o 9
  | .cas o => AtomOp.okFor o 0
  | .fence k s => decide (k.val ≤ 3) && scopeOk s
  | .bar s _ => barScope s
  | .wait o => spaceOk o.sp o.loc && scopeOk o.scope && decide (2 ≤ o.w.val) && decide (o.cond.val ≤ 3)
  | .mark .. | .slk .. => true
  | .mfs _ c | .mts _ c => cregOk c.toNat
  | .svc .. | .eret | .brk .. | .featq .. => true
  | .tlbi a b k s =>
    decide (k.val ≤ 2) && decide (s.val = 3 ∨ s.val = 4) && (decide (k.val = 1) || decide (a.val = 0))
      && (decide (k.val ≠ 0) || decide (b.val = 0))
  | .ctxsave .. | .ctxload .. | .halt => true
  | .evack c => decide (c.toNat = 0x28 ∨ c.toNat = 0x29)
  | .vsetl _ _ ew _ => decide (ew.val ≤ 4)
  | .vsetg g => decide (g.val ≤ 3)
  | .vtag _ _ f _ _ => isCode f.val
  | .vidx _ _ _ _ f => isIntCode f.val
  | .vbc _ _ _ f _ | .vmovs _ _ _ f _ | .vmovv _ _ _ _ f _ => isCode f.val
  | .vadd o | .vsub o => o.ok isNumCode true true .any (xfSat o.fmt.val)
  | .vmul o | .vfma o | .vfms o => o.ok isNumCode true true .any xfZero
  | .vmulh o => o.ok isIntCode false true .any xfZero
  | .vdiv o | .vmin o | .vmax o => o.ok isNumCode false true .any xfZero
  | .vsqrt o | .vrsq o | .vrcp o | .vexp2 o | .vlog2 o => o.ok isFloatCode false true .none xfZero
  | .vabs o => o.ok isNumCode false true .none xfZero
  | .vneg o => o.ok isNumCode true true .none xfZero
  | .vand o | .vor o | .vxor o => o.ok isIntOrBits false true .any xfZero
  | .vshl o | .vshr o | .vsra o => o.ok isIntCode false true .any xfZero
  | .vclz o | .vpopc o => o.ok isIntCode false true .none xfZero
  | .vmwide o => o.ok isNumCode false true .any (wideOk o.fmt.val)
  | .vdot o => o.ok isNumCode false true .any (dotOk o.fmt.val)
  | .vcmp o => o.ok isCode false false .any (cmpOk o.fmt.val)
  | .vsel o => o.ok isCode true false .any xfZero
  | .vred o => o.ok isCode false true .none (redOk o.fmt.val)
  | .vscan o => o.ok isCode false true .none (fun n => redOk o.fmt.val n && decide (n ≠ 1))
  | .vrecur o => o.ok isNumCode false true .any (fun n => decide (n < 64))
  | .vslide o => o.ok isCode true false .scalar (fun n => decide (n ≤ 1))
  | .vperm o => o.ok isCode true false .any xfZero
  | .vcompr o | .vexpd o => o.ok isCode true false .none xfZero
  | .vcvt o =>
    isNumCode o.fmt.val && rndOk o.rnd && bUseOk .none o.b o.cb o.nb && isNumCode o.xf.val
  | .vcvts o => isNumCode o.fmt.val && decide (o.rnd.val = 0) && bUseOk .none o.b o.cb o.nb && isNumCode o.xf.val
  | .vrng _ _ f => isIntOrBits f.val
  | .vclass _ _ _ _ f _ => isFloatCode f.val
  | .vamul o => o.ok isNumCode true true .any xfZero && decide (o.ar.val ≠ 0)
  | .vconj o => o.ok isNumCode true false .none xfZero
  | .vnorm o => o.ok isNumCode true true .none xfZero
  | .varev o => o.ok isCode true false .none xfZero
  | .mand .. | .mor .. | .mxor .. | .mandn .. | .mnot .. | .mset .. | .mclr .. | .mpop .. | .mffs .. => true
  | .mpsum _ _ f => isIntCode f.val
  | .mmv op d a => decide (op.val ≤ 2) && (decide (op.val ≠ 1) || decide (a.val = 0)) && (decide (op.val ≠ 2) || decide (d.val = 0))
  | .vld o => o.ok 7 && o.bNone && o.acqMask && decide (o.scope.val = 0)
  | .vlds o => o.ok 7 && o.bStride && o.acqMask && decide (o.scope.val = 0)
  | .vldx o => o.ok 7 && o.bIndex && (if o.acq then decide (1 ≤ o.scope.val ∧ o.scope.val ≤ 4) else decide (o.scope.val = 0))
  | .vldxf o _ => o.ok 0 && o.bIndex && !o.acq && decide (o.scope.val = 0)
  | .vst o => o.ok 7 && o.bNone && !o.acq && decide (o.scope.val = 0)
  | .vsts o => o.ok 7 && o.bStride && !o.acq && decide (o.scope.val = 0)
  | .vstx o => o.ok 7 && o.bIndex && !o.acq && decide (o.scope.val = 0)
  | .vscadd o r =>
    o.ok 0 && o.bIndex && !o.acq && decide (o.scope.val = 0) && (isFpCode o.fmt.val || isIntCode o.fmt.val)
      && decide (o.ar.val = 0) && rndOk r && decide (r.val ≠ 5)
  | .vspill o | .vfill o =>
    spaceOk o.sp o.loc && dispOk 0 o.slk o.disp && o.bNone && !o.acq && decide (o.scope.val = 0) && decide (o.fmt.val = 0)
      && decide (o.ar.val = 0) && decide (o.p.val = 0)
  | .vbind o => spaceOk o.sp o.loc && isCode o.fmt.val && decide (o.count.toNat ≠ 0)
  | .vunbind .. => true
  | .vlda o => o.ok 7 && o.bNone && o.acqMask && scopeOk o.scope
  | .vstl o => o.ok 7 && o.bNone && !o.acq && scopeOk o.scope
  | .mmodeEnter t x => decide (t.val < 4 ∧ x.val < 4) && decide (x.val &&& t.val = x.val)
  | .mmodeLeave => true
  | .tshape _ _ _ f _ => matCode f.val
  | .mzero .. => true
  | .mop o | .mops o _ => mopPair o.fmta.val o.fmtb.val
  | .mld o | .mldp o => isNumCode o.fmt.val
  | .mdrain o => drainCode o.t.val && drainCode o.fa.val && drainCode o.fb.val && rndOk o.rnd
  | .mfill o => decide (o.src.val = 1 ∨ o.src.val = 8)
  | .mstat .. | .mscl .. => true
  | .algld o => spaceOk o.sp o.loc && dispOk 0 o.slk o.disp
  | .copy _ a b x => x.ok a b
  | .seqLevelWrite _ _ l _ _ => decide (l.val ≤ 5)
  | .seqgo _ a b _ f => match f with | .full _ => true | .ext _ x => x.ok a b
  | .seqstop .. | .ctwall .. | .ctwany .. | .ctffr .. | .ctclr .. | .ctst .. => true
  | .binit .. | .barr .. | .btry .. => true
  | .bwait _ _ _ _ s _ => decide (1 ≤ s.val ∧ s.val ≤ 4)
  | .mcastSend o => spaceOk o.sp o.loc && isCode o.fmt.val && dispOk 0 o.slk o.disp
  | .mcastRecv _ f _ => isCode f.val
  | .coll o => o.ok
  | .collw .. => true
  | .dgst _ sel => decide (sel.val ≤ 2)
  | .addHalf .. | .subHalf .. | .mulHalf .. | .andHalf .. | .orHalf .. | .xorHalf .. | .andnHalf .. | .shlHalf .. | .shrHalf ..
  | .sraHalf .. | .minHalf .. | .maxHalf .. | .minnHalf .. | .maxnHalf .. | .cselHalf .. | .addiHalf .. | .liHalf .. => true
  | .shlImmHalf _ _ imm | .shrImmHalf _ _ imm | .sraImmHalf _ _ imm => decide (imm.toNat ≤ 63)
  | .faddHalf _ _ r f | .fsubHalf _ _ r f | .fmulHalf _ _ r f | .ffmaHalf _ _ _ r f | .fminHalf _ _ r f | .fmaxHalf _ _ r f =>
    fpHalf r f
  | .ldBzHalf .. | .ldHzHalf .. | .ldWzHalf .. | .ldDHalf .. | .ldBsHalf .. | .ldHsHalf .. | .ldWsHalf .. | .stBHalf ..
  | .stHHalf .. | .stWHalf .. | .stDHalf .. | .beqHalf .. | .bneHalf .. | .bltHalf .. | .bgeHalf .. | .bltnHalf ..
  | .bgenHalf .. | .jHalf .. | .nopHalf => true
  | .vaddHalf _ _ f r | .vsubHalf _ _ f r | .vmulHalf _ _ f r | .vfmaHalf _ _ _ f r | .vminHalf _ _ f r | .vmaxHalf _ _ f r =>
    vHalf isNumCode f r
  | .vandHalf _ _ f r | .vorHalf _ _ f r | .vxorHalf _ _ f r => vHalf isIntOrBits f r
  | .vshlHalf _ _ f r | .vshrHalf _ _ f r | .vsraHalf _ _ f r => vHalf isIntCode f r
  | .aend | .anop | .await .. | .aaddi .. | .aadd .. | .ashl .. | .aand .. | .amul .. | .aslk .. | .ajmp .. | .async .. => true
  | .amark _ f => decide (f.val ≤ 4)
  | .apf _ _ sp loc => decide (sp.val = 2) || (decide (sp.val = 0) && !loc)
  | .apin _ _ c => decide (c.val ≤ 2)
  | .aord _ p => decide (p.val ≤ 3)
  | .abr _ _ c _ => decide (c.val ≤ 5)
  | .barRelease .. | .waitReread .. | .tlbiPerformed .. | .haltWake .. | .matrixModeGrant .. | .sequencerCopyEmit ..
  | .tagWaitWake .. | .collectiveComplete .. | .eventTaken .. | .replyDelivery .. | .storePerform .. | .streamChunkFetch ..
  | .chunkWritten .. | .transferComplete .. | .prefetchComplete .. | .packetForward .. | .slackDecrement | .spanBoundary
  | .spanTableSwitch | .adviceIdleRecord .. | .awaitRecord .. => true
  | .nopCommand .. | .launch .. | .signal .. | .abort .. | .group .. | .commandWriteRefused .. | .queueConfigWrite ..
  | .dependenceMet .. | .commandStart .. | .rangeRequest .. | .groupAdmit .. | .launchRetire .. | .launchStop ..
  | .notificationSend .. | .timeSliceExpiry .. | .preemptionComplete .. | .restore .. | .contextEntryWrite .. => true
  | .dieFence .. | .thaSample .. | .blockRetirement .. | .partwrite .. | .partremove .. | .vfwrite .. | .ctxxlate .. | .s2inval ..
  | .keygen .. | .keyclear .. | .keywrap .. | .keyload .. | .measure .. | .attest .. | .telemetry .. | .fwupdate ..
  | .doorbellWhileBusy | .faultRingConsumerWrite .. | .managementWindowWrite .. | .coldReset | .warmReset | .packageStop
  | .s2invalComplete | .remoteAccessRequest .. | .yieldResume .. => true

end Sys2Proof
end

