-- ==== Sys2Proof/Machine/Operands.lean ====
section
/-!
DEFINITION. Vector operands (R44–R64, R198–R203, R462): register groups, tags, shapes, neighbours, bound streams, the checks of
R203 in order, and the writing of a result (R51, R52, R55). An instruction reads its operands from a strand view x, which is the
acting strand itself but for the second half of a pair word (R161). A pattern of one element is a number of c × w bits, component
0 lowest (log 8).
-/
namespace Sys2Proof.Machine

/-! ## Registers and elements -/

def vget (v : Vector VReg 32) (n : Nat) : VReg := if h : n < 32 then v.get ⟨n, h⟩ else VReg.reset

/-- Width of a format code's component (R49). -/
def State.width (s : State) (fmt : Nat) : Nat := codeWidth s.myPart.fmt fmt
/-- Element size c × w in bits. -/
def State.size (s : State) (fmt ar : Nat) : Nat := 2 ^ ar * s.width fmt
/-- VLmax1 / c: elements of this size in one register (R24, R49). -/
def State.perReg (s : State) (sz : Nat) : Nat := s.lanes * 256 / sz

/-- Element i read at this size; at and above LEN it is zero (R50, R54). -/
def VReg.elem (r : VReg) (sz i : Nat) : Nat :=
  if r.len ≤ i then 0
  else
    match r.shape with
    | .undef => 0
    | .uniform => r.base % 2 ^ sz
    | .affine => (r.base + r.stride * i) % 2 ^ sz
    | .general => r.bits / 2 ^ (sz * i) % 2 ^ sz

/-- Numbers side by side, sz bits each, the first lowest. -/
def packBits (sz : Nat) : List Nat → Nat
  | [] => 0
  | n :: ns => n % 2 ^ sz + 2 ^ sz * packBits sz ns

/-- The bits of a register in element order, its shape written out; sz is its own element size. -/
def VReg.packed (r : VReg) (sz : Nat) : Nat :=
  match r.shape with
  | .general => r.bits % 2 ^ (sz * r.len)
  | .undef => 0
  | .uniform => packBits sz ((List.range r.len).map (r.elem sz))
  | .affine => packBits sz ((List.range r.len).map (r.elem sz))

/-- Component j of an element pattern. -/
def comp (w j pat : Nat) : Nat := pat / 2 ^ (w * j) % 2 ^ w

/-- Applies f to each component of up to three operands and joins the flags. -/
def eachComp (c w : Nat) (f : Nat → Nat → Nat → Nat × Nat) (a b d : Nat) : Nat × Nat :=
  let rs := (List.range c).map (fun j => f (comp w j a) (comp w j b) (comp w j d))
  (packBits w (rs.map (·.1)), rs.foldl (fun fl r => fl ||| r.2) 0)

/-! ## Groups (R47, R200–R202) -/

/-- A vector operand: its first register, how many registers it takes, how many elements one of them holds, and their size. -/
structure Opd where
  base : Nat
  num : Nat
  per : Nat
  sz : Nat
deriving DecidableEq, Repr

/-- The operand whose base register is b and whose elements have size sz, in an instruction whose FMT operand has size ref; none
where R47 or R200 refuses it. -/
def State.opd (s : State) (b sz ref : Nat) : Option Opd :=
  let G := s.vgroup
  if 8 * ref < G * sz then none
  else if G * sz < ref then some ⟨b, 1, s.perReg sz, sz⟩
  else if b % (G * sz / ref) = 0 then some ⟨b, G * sz / ref, s.perReg sz, sz⟩
  else none

/-- Element e of a group (R21). -/
def Opd.get (o : Opd) (v : Vector VReg 32) (e : Nat) : Nat :=
  if e / o.per < o.num then (vget v (o.base + e / o.per)).elem o.sz (e % o.per) else 0

def Opd.regs (o : Opd) : List Nat := (List.range o.num).map (· + o.base)
def Opd.has (o : Opd) (r : Nat) : Bool := decide (o.base ≤ r ∧ r < o.base + o.num)
/-- R202: the two groups share a register and are not the same group at the same size. -/
def Opd.clash (d a : Opd) : Bool :=
  decide (d.base < a.base + a.num ∧ a.base < d.base + d.num) && !decide (d.base = a.base ∧ d.num = a.num ∧ d.sz = a.sz)

/-! ## Streams (R61–R63, R242, R243) -/

/-- Nibble address of element j of chunk k (R242). -/
def Stream.nib (t : Stream) (sz k j : Nat) : Int :=
  2 * (t.base.toInt + (k : Int) * t.stride.toInt) + ((j * (sz / 4) : Nat) : Int)

/-- The element at a nibble address, of the bytes of these pieces as the strand sees them. -/
def State.elemAt (s : State) (n : Int) (sz : Nat) (ps : List Piece) : Nat × State :=
  let r := loadPieces s ps
  let v := leNat r.1
  (if sz = 4 then (if n % 2 = 1 then v / 16 else v % 16) else v, r.2)

/-- Plain load of one element at a nibble address; also the pieces it touched (R234, R235). -/
def State.elemLoad (s : State) (plain : Bool) (sp : Nat) (loc : Bool) (n : Int) (sz : Nat) : Except Stop (Nat × List Piece × State) :=
  match permit s s.who s.me.uid plain sp loc (wrap64 (n / 2)) (if sz = 4 then 1 else sz / 8) .read with
  | .error t => .error t
  | .ok (ps, s1) => let r := s1.elemAt n sz ps; .ok (r.1, ps, r.2)

/-- Loads elements j, j + 1, …, n of them, until one faults; answers each with its pieces. They enter the footprint only as they commit
(R114). -/
def chunkLoad (t : Stream) (sz k : Nat) : Nat → Nat → State → List (Nat × List Piece) → List (Nat × List Piece) × State × Option (Nat × Stop)
  | 0, _, s, acc => (acc.reverse, s, none)
  | n + 1, j, s, acc =>
    match checkAccess s s.who s.me.uid true t.sp t.loc (wrap64 (t.nib sz k j / 2)) (if sz = 4 then 1 else sz / 8) .read with
    | .error e => (acc.reverse, s, some (j, e))
    | .ok (ps, s1) => let r := s1.elemAt (t.nib sz k j) sz ps; chunkLoad t sz k n (j + 1) r.2 ((r.1, ps) :: acc)

/-- A chunk's elements as registers of a group that starts at vd: register number and content, LEN limited to n elements. -/
def chunkRegs (t : Stream) (sz per n : Nat) (elems : List Nat) : Nat → List VReg
  | 0 => []
  | k + 1 =>
    let i := per * k
    let len := Nat.min per (n - i)
    chunkRegs t sz per n elems k ++ [⟨len, 0, t.ar, .general, t.fmt, 0, 0, packBits sz ((elems.drop i).take len)⟩]

def setRegs (v : Vector VReg 32) (b : Nat) : List VReg → Vector VReg 32
  | [] => v
  | r :: rs => setRegs (v.setIfInBounds b r) (b + 1) rs

/-- A chunk that an instruction consumes: its stream, its elements, and, of the operand that holds the register, the size of an
element in bits and how many elements lie before the register. from_ is the first element that this execution loads, and pieces are those
of its loads. -/
structure ChunkIn where
  t : Stream
  top : Nat
  unit : Nat
  off : Nat
  elems : List Nat
  from_ : Nat
  pieces : List (List Piece)
deriving DecidableEq, Repr

/-- The element of an operand to which element j of a chunk belongs, whose elements have size sz: the one that holds its last bit (log 31). -/
def elemAt (unit off sz j : Nat) : Nat := off + (sz * (j + 1) - 1) / unit

/-- How many elements of a chunk belong to the operand's elements below e. -/
def elemsBelow (unit off sz e : Nat) : Nat := (e - off) * unit / sz

/-- What an instruction works on: the state, the registers as it reads them, the stream slots it consumes, the chunks it has loaded, the
first element it does not execute, and what stops it there: VSX as the stop leaves it, and why. A chunk's fault may lie above VL (R243). -/
structure Prep where
  s : State
  v : Vector VReg 32
  slots : List Nat
  chunks : List ChunkIn
  hi : Nat
  stop : Option (Nat × Stop)

/-- A further stop at element e: the lowest one is taken (R22). -/
def Prep.stopped (p : Prep) (e : Nat) (st : Stop) : Prep :=
  { p with
    hi := Nat.min p.hi e
    stop := match p.stop with | some (f, u) => if e < f then some (e, st) else some (f, u) | none => some (e, st) }

def streamAt (v : Vector (Option Stream) 4) (k : Nat) : Option Stream := if h : k < 4 then v.get ⟨k, h⟩ else none

/-- How many elements of a chunk an instruction supplies or emits: min(VL, chunk length), where VL is counted from the register's first
element (R62; log 31). -/
def State.chunkLen (s : State) (vl : Nat) (t : Stream) (base : Nat) : Nat :=
  Nat.min t.clen (vl - (t.reg.val - base) * s.perReg (s.size t.fmt t.ar))

/-- What VSX counts while an instruction is under way: elements of its groups, 8-byte words of a spill area (R241), or k steps of a MOP,
whose groups VL does not bound (R254). -/
inductive VsxUnit
  | elem | word | step
deriving DecidableEq, Repr

/-- n free values. -/
def freeElems (ctr sz n : Nat) : List Nat :=
  (List.range n).map (fun i => leNat ((List.range (sz / 8 + 1)).map (fun j => Config.freeByte (ctr + i * (sz / 8 + 1) + j))) % 2 ^ sz)

/-- Consumes the stream of slot k in an operand (R62, R243): the instruction reads the chunk, whose elements at VL and above read as
zero. A fault in it stops the instruction at its element; what a neighbour below reads of the elements that could not be loaded is a free
value (log 31). cnt is what VSX counts: a resumed MOP reads the chunk anew. With VL = 0 an instruction that VL bounds passes the chunk
without an access (R201; log 75). -/
def Prep.consume (p : Prep) (cnt : VsxUnit) (k : Nat) (t : Stream) (o : Opd) : Prep :=
  if cnt = .elem ∧ p.s.me.vl = 0 then { p with slots := p.slots ++ [k] } else
  let s := p.s
  let sz := s.size t.fmt t.ar
  let per := s.perReg sz
  let top := o.base + o.num
  let unit := if cnt = .word then 64 else o.sz
  let off := (t.reg.val - o.base) * s.perReg unit
  let view (elems : List Nat) : Vector VReg 32 :=
    setRegs p.v t.reg.val (chunkRegs t sz per (s.chunkLen s.me.vl t o.base) elems (top - t.reg.val))
  let kept (n : Nat) : List Nat :=
    (List.range n).map (fun j => (vget s.me.v (t.reg.val + j / per)).elem sz (j % per))
  if t.count ≤ t.pos then { p with v := view (kept t.clen), slots := p.slots ++ [k] }
  else
    let start := if cnt = .step then 0 else Nat.min (elemsBelow unit off sz s.me.vsx) t.clen
    let r := chunkLoad t sz t.pos (t.clen - start) start s []
    let s1 := if 0 < t.fetched then r.2.1 else r.2.1.request (.lit (.ofNat 12 t.slit)) (r.1.flatMap (·.2)) false
    let all := kept start ++ r.1.map (·.1)
    let c : ChunkIn := ⟨t, top, unit, off, all, start, r.1.map (·.2)⟩
    match r.2.2 with
    | none => { p with s := s1, v := view all, slots := p.slots ++ [k], chunks := p.chunks ++ [c] }
    | some (j, st) =>
      let n := t.clen - all.length
      let s2 := { s1 with freeCtr := s1.freeCtr + n * (sz / 8 + 1) }
      { p with s := s2, v := view (all ++ freeElems s1.freeCtr sz n), chunks := p.chunks ++ [c] }.stopped (elemAt unit off sz j) st

/-- The slots of streams whose register lies in one of the groups, with that group. -/
def slotsIn (v : Vector (Option Stream) 4) (os : List Opd) : List (Nat × Stream × Opd) :=
  (List.range 4).filterMap (fun k =>
    match streamAt v k with
    | none => none
    | some t => (os.find? (fun o => o.has t.reg.val)).map (fun o => (k, t, o)))

/-- The position moves as the consuming or emitting instruction commits; END is set as the count is exhausted, and a read past it
clears m0 (R62, R63). -/
def Strand.passSlot (x : Strand) (k : Nat) : Strand :=
  match streamAt x.streams k with
  | none => x
  | some t =>
    if t.count ≤ t.pos then (if t.dir then x else { x with m := x.m.set 0 0 })
    else
      let t1 : Stream := { t with pos := t.pos + 1, fetched := t.fetched - 1, ended := t.ended || decide (t.pos + 1 = t.count) }
      { x with streams := x.streams.setIfInBounds k (some t1) }

/-! ## The checks of R203 -/

/-- A source and the tag it must carry (R59). loose: registers of shape undefined pass (R57). anyAlg: ALG is not checked (R262). -/
structure Want where
  o : Opd
  fmt : Nat
  ar : Nat
  loose : Bool
  anyAlg : Bool

def Opd.want (o : Opd) (fmt ar : Nat) : Want := ⟨o, fmt, ar, false, false⟩

/-- The registers of a source whose tags are checked. -/
def Want.regs (v : Vector VReg 32) (w : Want) : List Nat :=
  if w.loose then w.o.regs.filter (fun r => decide ((vget v r).shape ≠ .undef)) else w.o.regs

/-- FORMAT differs, or the register has shape undefined. Table 2.3 gives FMTTAG for an undefined source in an arithmetic,
logical, conversion or memory-address role; DESIGN CHOICE (log 75): it is raised in every other checked role too (store data,
VMOVS, VSLIDE, VPERM, VCOMPR, VEXPD, VAREV), where the spec does not say. -/
def fmtBad (v : Vector VReg 32) (w : Want) : Bool :=
  (w.regs v).any (fun r => decide ((vget v r).shape = .undef) || decide ((vget v r).format ≠ w.fmt))
/-- ARITY differs, or the registers of a group disagree in ALG, whatever the arity. -/
def arBad (v : Vector VReg 32) (w : Want) : Bool :=
  match w.regs v with
  | [] => false
  | b :: rs => (b :: rs).any (fun r => decide ((vget v r).arity ≠ w.ar) || (!w.anyAlg && decide ((vget v r).alg ≠ (vget v b).alg)))
/-- Two sources of arity above 1 with different algebras. Log 30. -/
def algBad (v : Vector VReg 32) (ws : List Want) : Bool :=
  match ws.filter (fun w => decide (w.ar ≠ 0)) with
  | [] => false
  | w :: ws => ws.any (fun u => decide ((vget v u.o.base).alg ≠ (vget v w.o.base).alg))

/-- Steps 1 to 3 of R203: VL against the capacity, R202, stream directions, tags (formats of all sources first); then the chunks
of read-bound sources. srcs are all groups read, wants those whose tag is checked; bad is a further FMTTAG condition. A pre-emption
under way may have set a bound for the first element that is not executed (R204, R413). DESIGN CHOICE (log 75): an instruction that is
executed again from VSX is checked anew; where an in-place conversion or load has given its own source the new FORMAT at the stop (R52), that
is FMTTAG, since R59 excepts no re-execution. -/
def State.prep (s : State) (x : Strand) (cap : Nat) (srcs : List Opd) (dst : Option Opd) (wants : List Want) (bad : Bool := false)
    (cnt : VsxUnit := .elem) : Except Stop Prep :=
  let dl := dst.toList
  let rd := slotsIn x.streams srcs
  if cap < x.vl then .error (illegalStop s)
  else if dl.any (fun d => srcs.any d.clash) then .error (illegalStop s)
  else if rd.any (fun k => k.2.1.dir) || (slotsIn x.streams dl).any (fun k => !k.2.1.dir) then .error (illegalStop s)
  else if bad || wants.any (fmtBad x.v) then .error (.trap cFMTTAG 0 s.cur.word)
  else if wants.any (arBad x.v) || algBad x.v wants then .error (.trap cARITY 0 s.cur.word)
  else
    let p := rd.foldl (fun p k => p.consume cnt k.1 k.2.1 k.2.2) ⟨s, x.v, [], [], x.vl, none⟩
    .ok (match s.cur.limit with
      | some n => if cnt = .elem ∧ n < x.vl then p.stopped (Nat.max n x.vsx) .preempt else p
      | none => p)

/-! ## Neighbours and scalar operands (R64, R462) -/

/-- The element that a source supplies for element e; none at an edge that takes no element. -/
def nbIndex (nb : Nbr) (mode vl e : Nat) : Option Nat :=
  match nb with
  | .plain => some e
  | .left => if e = 0 then (if mode = 1 then some 0 else if mode = 2 then some (vl - 1) else none) else some (e - 1)
  | .right =>
    if e + 1 = vl then (if mode = 1 then some (vl - 1) else if mode = 2 then some 0 else none) else some (e + 1)

/-- The fields of NBR (Table 2.6). -/
def nbrMode (x : Strand) : Nat := x.nbr % 4
def nbrReg (x : Strand) (nb : Nbr) : SReg := Fin.ofNat 64 (match nb with | .right => bits x.nbr 13 8 | _ => bits x.nbr 7 2)

/-- A source: a group with its modifier, or a scalar that every element takes. -/
inductive Source
  | group (o : Opd) (nb : Nbr)
  | scalar (v : Nat)
deriving DecidableEq, Repr

/-- In SCALAR mode the edge takes the low c × w bits of the register. DESIGN CHOICE (log 75): an element wider than 64 bits takes
all 64, zero-extended; the spec names no higher bits. -/
def Source.get (q : Source) (x : Strand) (v : Vector VReg 32) (e : Nat) : Nat :=
  match q with
  | .scalar n => n
  | .group o nb =>
    match nbIndex nb (nbrMode x) x.vl e with
    | some i => o.get v i
    | none => if nbrMode x = 3 then (x.rS (nbrReg x nb)).toNat % 2 ^ o.sz else 0

def Source.opds : Source → List Opd
  | .group o _ => [o]
  | .scalar _ => []

/-- The B operand at its own element size; none: ILLEGAL. -/
def State.bSource (s : State) (x : Strand) (b : BSrc) (nb : Nbr) (sz ref : Nat) : Option Source :=
  match b with
  | .s r => if 64 < sz then none else some (.scalar ((x.rS r).toNat % 2 ^ sz))
  | .v r => (s.opd r.val sz ref).map (fun o => .group o nb)

/-! ## Shapes (R54, R55, Table 2.3) -/

/-- The shape of a source, or of a result, over the elements of one destination register. -/
inductive Shp
  | gen
  | uni (u : Nat)
  | aff (base stride : Nat)
deriving DecidableEq, Repr

/-- The shape a group supplies for the n elements from e0 on: every register read is uniform with one value and no element read
lies above its LEN, or one affine register is read plainly. -/
def Opd.shp (o : Opd) (nb : Nbr) (x : Strand) (v : Vector VReg 32) (e0 n : Nat) : Shp :=
  if nb ≠ .plain ∧ nbrMode x ≠ 1 ∧ nbrMode x ≠ 2 then .gen
  else
    let idx := (List.range n).map (fun i => (nbIndex nb (nbrMode x) x.vl (e0 + i)).getD 0)
    let regs := if n = 0 then [Nat.min (e0 / o.per) (o.num - 1)] else (idx.map (· / o.per)).eraseDups
    if idx.all (fun i => decide (i % o.per < (vget v (o.base + i / o.per)).len)) then
      match regs with
      | [] => .gen
      | k :: ks =>
        let r := vget v (o.base + k)
        if r.shape = .uniform ∧ ks.all (fun j => decide ((vget v (o.base + j)).shape = .uniform ∧ (vget v (o.base + j)).base = r.base)) then
          .uni (r.base % 2 ^ o.sz)
        else if r.shape = .affine ∧ ks = [] ∧ nb = .plain then .aff ((r.base + r.stride * (e0 % o.per)) % 2 ^ o.sz) (r.stride % 2 ^ o.sz)
        else .gen
    else .gen

def Source.shp (q : Source) (x : Strand) (v : Vector VReg 32) (e0 n : Nat) : Shp :=
  match q with
  | .scalar u => .uni u
  | .group o nb => o.shp nb x v e0 n

/-- All sources uniform: the result is uniform, its value that of its first element (R56). -/
def Shp.isUni : Shp → Bool
  | .uni _ => true
  | .gen => false
  | .aff _ _ => false

/-! ## Writing a result (R51, R52) -/

/-- What the lanes produced from element VSX on: a pattern, or none where the element keeps its value; and each element's flags. -/
structure Lanes where
  outs : List (Option Nat)
  flags : List Nat

/-- The flags of the first n of those elements (R76). -/
def Lanes.below (l : Lanes) (n : Nat) : Nat := (l.flags.take n).foldl (· ||| ·) 0

/-- The lanes' elements start, …, hi − 1, each with its predicate bit (R45, R198). -/
def runLanes (start hi : Nat) (active : Nat → Bool) (f : Nat → Nat × Nat) : Lanes :=
  let rs := (List.range (hi - start)).map (fun i => if active (start + i) then some (f (start + i)) else none)
  ⟨rs.map (fun r => r.map (·.1)), rs.map (fun r => match r with | some q => q.2 | none => 0)⟩

/-- P as a predicate (R45). -/
def Strand.active (x : Strand) (p : MReg) (e : Nat) : Bool := decide (p.val = 0) || (x.m.get p).testBit e

/-- One destination register: element 0 of it is element e0 of the group, n of its elements are covered. -/
def writeReg (r : VReg) (own sz per e0 n start fmt ar alg : Nat) (outs : List (Option Nat)) (shp : Shp) : VReg :=
  let len := Nat.max r.len n
  match shp with
  | .uni u => ⟨n, alg, ar, .uniform, fmt, u % 2 ^ sz, 0, 0⟩
  | .aff b st => ⟨n, alg, ar, .affine, fmt, b % 2 ^ sz, st % 2 ^ sz, 0⟩
  | .gen =>
    let old := r.packed own
    let keep (i : Nat) : Nat := if i < r.len then old / 2 ^ (sz * i) % 2 ^ sz else 0
    let low := (List.range n).map (fun i =>
      if e0 + i < start then keep i else ((outs.getD (e0 + i - start) none).getD (keep i)))
    let high := old / 2 ^ (sz * n) % 2 ^ (sz * (r.len - n))
    ⟨len, alg, ar, .general, fmt, 0, 0, (packBits sz low + 2 ^ (sz * n) * high) % 2 ^ (sz * Nat.min len per)⟩

/-- How many elements below lim register k of a group covers. -/
def Opd.covers (o : Opd) (lim k : Nat) : Nat := Nat.min o.per (lim - k * o.per)

/-- The shape that register k of a destination takes: the proposed one, where the register's old LEN is covered and the result has arity 1
and at most 64 bits (R55). -/
def Opd.takes (o : Opd) (v : Vector VReg 32) (ar lim : Nat) (shp : Nat → Shp) (k : Nat) : Shp :=
  if (vget v (o.base + k)).len ≤ o.covers lim k ∧ ar = 0 ∧ o.sz ≤ 64 then shp k else .gen

/-- Writes a group below element lim. shp proposes the shape of each register (R55). Expansions are counted. -/
def State.writeGroup (s : State) (o : Opd) (fmt ar alg start lim : Nat) (outs : List (Option Nat)) (shp : Nat → Shp) : State :=
  (List.range o.num).foldl (fun s k =>
    let x := s.me
    let r := vget x.v (o.base + k)
    let sh := o.takes x.v ar lim shp k
    let r1 := writeReg r (s.size r.format r.arity) o.sz o.per (k * o.per) (o.covers lim k) start fmt ar alg outs sh
    let s1 := s.setMe { x with v := x.v.setIfInBounds (o.base + k) r1 }
    if sh = .gen ∧ r.shape ≠ .general then
      let p := s1.myPart
      s1.setPart s1.cur.pid { p with expansions := p.expansions + 1 }
    else s1) s

/-- A consuming instruction writes its chunk into the register, with LEN equal to the chunk length (R243); one that stops at element e
writes the elements below e (R22, R52). The loads of those elements enter the footprint (R114). -/
def State.putChunk (s : State) (c : ChunkIn) (lim : Option Nat) : State :=
  let sz := s.size c.t.fmt c.t.ar
  let o : Opd := ⟨c.t.reg.val, c.top - c.t.reg.val, s.perReg sz, sz⟩
  let n := match lim with | none => c.t.clen | some e => Nat.min c.t.clen (elemsBelow c.unit c.off sz e)
  let s1 := (c.pieces.take (n - c.from_)).foldl (fun s ps => s.footPieces s.me.uid ps false) s
  match lim with
  | none => s1.setMe { s1.me with v := setRegs s1.me.v o.base (chunkRegs c.t sz o.per n c.elems o.num) }
  | some _ => s1.writeGroup o c.t.fmt c.t.ar 0 0 n (c.elems.map some) (fun _ => .gen)

/-- The chunks of an instruction that commits whole, or below an element. -/
def Prep.load (p : Prep) (lim : Option Nat) (s : State) : State := p.chunks.foldl (fun s c => s.putChunk c lim) s

/-! ## Storing elements, and emission (R62, R238, R371) -/

/-- The terms of the 8-byte pieces of an element wider than 64 bits. -/
def pieceTerms (sp : Nat) (ea : Word) (v : Nat) : Nat → List Word
  | 0 => []
  | k + 1 => pieceTerms sp ea v k ++
      [digestTerm (digestAddr sp (ea + BitVec.ofNat 64 (8 * k))) (BitVec.ofNat 64 (v / 2 ^ (64 * k) % 2 ^ 64)) 8]

/-- The terms of Table 16.2 for one stored element, unless it goes to the stack area (R371, R372). -/
def State.foldElem (s : State) (sp : Nat) (loc : Bool) (n : Int) (sz v : Nat) : State :=
  if s.inStack sp loc (wrap64 (n / 2)) then s
  else if sz = 4 then s.fold sp (wrap64 n) (BitVec.ofNat 64 v) 0x40
  else if sz ≤ 64 then s.fold sp (wrap64 (n / 2)) (BitVec.ofNat 64 v) (sz / 8)
  else s.foldTerms (pieceTerms sp (wrap64 (n / 2)) v (sz / 64))

/-- A plain store of one element: it goes into the store buffer (R181, R238). A 4-bit element writes its nibble (R80). full: the blocks
that the instruction writes whole (R107, R238). Answers the pieces too. -/
def State.elemStore (s : State) (sp : Nat) (loc : Bool) (n : Int) (sz v : Nat) (full : List Nat := []) : Except Stop (List Piece × State) :=
  match permit s s.who s.me.uid true sp loc (wrap64 (n / 2)) (if sz = 4 then 1 else sz / 8) .write full with
  | .error t => .error t
  | .ok (ps, s1) =>
    let new :=
      if sz = 4 then (storesOf ps (leBytes 1 (v % 16 * 17))).map (fun p => { p with part := if n % 2 = 1 then .high else .low })
      else storesOf ps (leBytes (sz / 8) v)
    .ok (ps, (s1.setMe { s1.me with stores := s1.me.stores ++ new }).foldElem sp loc n sz v)

/-- One element to emit: the slot and the stream, and its number in the chunk. -/
structure Emit where
  slot : Nat
  t : Stream
  o : Opd
  j : Nat
deriving DecidableEq, Repr

/-- What the streams of write-bound registers emit for operand element e: last is the operand's last element, to which those that end
above it belong too. A stream that is exhausted emits nothing (R63). -/
def State.emitsAt (s : State) (vl last : Nat) (wr : List (Nat × Stream × Opd)) (e : Nat) : List Emit :=
  wr.flatMap (fun w =>
    let t := w.2.1
    let o := w.2.2
    if t.count ≤ t.pos then []
    else
      let sz := s.size t.fmt t.ar
      let off := (t.reg.val - o.base) * s.perReg o.sz
      let lim := s.chunkLen vl t o.base
      let lo := Nat.min lim (elemsBelow o.sz off sz e)
      let hi := if e = last then lim else Nat.min lim (elemsBelow o.sz off sz (e + 1))
      (List.range (hi - lo)).map (fun i => ⟨w.1, t, ⟨t.reg.val, o.base + o.num - t.reg.val, s.perReg sz, sz⟩, lo + i⟩))

/-- Emits what one element of the result emits, in order, from the registers v; answers the pieces by slot. DESIGN CHOICE (log 31): the
elements are the register's bits at the binding's element size, whatever format and arity the result has; the spec names no check. -/
def emitElem (v : Vector VReg 32) : List Emit → State → List (Nat × List Piece) → Except Stop (List (Nat × List Piece) × State)
  | [], s, ps => .ok (ps, s)
  | q :: qs, s, ps =>
    match s.elemStore q.t.sp q.t.loc (q.t.nib q.o.sz q.t.pos q.j) q.o.sz (q.o.get v q.j) with
    | .error st => .error st
    | .ok (new, s1) => emitElem v qs s1 (ps ++ [(q.slot, new)])

/-- Emits element by element, each with what it emits, until one faults: of that one nothing is stored, counted or folded (R22, R372). -/
def emitLoop (v : Vector VReg 32) : List (Nat × List Emit) → State → List (Nat × List Piece) →
    List (Nat × List Piece) × State × Option (Nat × Stop)
  | [], s, ps => (ps, s, none)
  | (e, qs) :: es, s, ps =>
    match emitElem v qs s ps with
    | .error st => (ps, s, some (e, st))
    | .ok (ps1, s1) => emitLoop v es s1 ps1

/-- Emits, of the chunks of write-bound registers of a destination group, what belongs to the elements lo ≤ e < hi, element by element,
from the registers v (R22, R62): one request per stream and slice. -/
def emitAll (vl last : Nat) (v : Vector VReg 32) (lo hi : Nat) (wr : List (Nat × Stream × Opd)) (s : State) : State × Option (Nat × Stop) :=
  let r := emitLoop v ((List.range (hi - lo)).map (fun i => (lo + i, s.emitsAt vl last wr (lo + i)))) s []
  (wr.foldl (fun s w =>
    s.request (.lit (.ofNat 12 w.2.1.slit)) ((r.1.filter (fun q => q.1 == w.1)).flatMap (·.2)) true) r.2.1, r.2.2)

end Sys2Proof.Machine
end

