-- ==== Sys2Proof/Machine/Lanes.lean ====
section
/-!
DEFINITION. How a vector instruction ends (R22, R51, R52, R62, R76), and the elementwise form shared by most of them (R212). A
meaning over a strand view x and a state s answers a Res whose state is not yet advanced past the instruction, so that the two
halves of a pair word can be joined (R161).
-/
namespace Sys2Proof.Machine

/-- Commits n bytes of code. -/
def Res.next (n : Nat) : Res → Res
  | .ok s => .ok (s.advance n)
  | r => r

/-- Runs a meaning of one code word on the acting strand. -/
def vexec (m : Strand → State → Res) (s : State) : Out := finish ((m s.me s).next 8)

/-- The slots of streams that the instruction has passed move on. -/
def State.passSlots (s : State) (ks : List Nat) : State := s.setMe (ks.foldl Strand.passSlot s.me)

/-- An instruction whose result is uniform or affine in every register executes once, on the scalar path, and no pre-emption stops it
part-way (R56). shp proposes the shape of each register. -/
def Prep.onScalar (p : Prep) (x : Strand) (o : Opd) (ar : Nat) (shp : Nat → Shp) : Prep :=
  match p.stop with
  | some (_, .preempt) =>
    if (List.range o.num).all (fun k => decide (o.takes p.s.me.v ar x.vl shp k ≠ .gen)) then { p with hi := x.vl, stop := none } else p
  | _ => p

/-- An element fault: the elements below e are committed, and VSX is e (R22, R52). -/
def stopAt (s : State) (e : Nat) (st : Stop) : Res := .stop st (s.setMe { s.me with vsx := e })

/-- An instruction-granular instruction is stopped: it is squashed whole, with VSX = 0 (R204). s is the state before it. -/
def squash (s : State) (st : Stop) : Res := .stop st (s.setMe { s.me with vsx := 0 })

/-- The end of the elements whose emission an instruction reaches: all of the chunk, unless something else stops it (R62). -/
def Prep.emitHi (p : Prep) (vl : Nat) : Nat := match p.stop with | some _ => p.hi | none => Nat.max p.hi vl

/-- What stops the emission of an instruction that writes group o: full writes all of the result, part what lies below an element. -/
def emitStop (x : Strand) (p : Prep) (o : Opd) (full : State → State) (part : Nat → State → State) : Option (Nat × Stop) :=
  let done : State := match p.stop with | some _ => part p.hi p.s | none => full p.s
  (emitAll x.vl (x.vl - 1) done.me.v x.vsx (p.emitHi x.vl) (slotsIn x.streams [o]) p.s).2

/-- Commits an element-granular instruction that writes a group: full writes all of the result, part what lies below an element,
flags gives the flags of the elements below one. The committed elements are emitted and raise their flags, whatever stops the
rest (R22, R62, R76). DESIGN CHOICE (log 75): executed again from VSX, it reads its sources as the registers then stand, also
where a source is the destination group and a neighbour below VSX has been overwritten (R22, R23, R202). -/
def commitW (x : Strand) (p : Prep) (o : Opd) (full : State → State) (part : Nat → State → State) (flags : Nat → Nat) : Res :=
  let wr := slotsIn x.streams [o]
  let done : State := match p.stop with | some _ => part p.hi p.s | none => full p.s
  match emitAll x.vl (x.vl - 1) done.me.v x.vsx (p.emitHi x.vl) wr p.s with
  | (s2, some (e, st)) => stopAt ((p.load (some e) (part e s2)).raise (flags e)) e st
  | (s2, none) =>
    match p.stop with
    | some (e, st) => stopAt ((p.load (some e) (part p.hi s2)).raise (flags p.hi)) e st
    | none => .ok (((p.load none (full s2)).raise (flags x.vl)).passSlots (p.slots ++ wr.map (·.1)))

/-- Commits an instruction-granular instruction that writes a group (R204): s is the state before it. -/
def commitAll (s : State) (x : Strand) (p : Prep) (o : Opd) (full : State → State) (flags : Nat) : Res :=
  match p.stop with
  | some (_, st) => squash s st
  | none =>
    let wr := slotsIn x.streams [o]
    match emitAll x.vl (x.vl - 1) (full p.s).me.v 0 x.vl wr p.s with
    | (_, some (_, st)) => squash s st
    | (s2, none) => .ok (((p.load none (full s2)).raise flags).passSlots (p.slots ++ wr.map (·.1)))

/-- Writing a result's elements below e: it is general (R52). -/
def partOf (o : Opd) (fmt ar alg start lim : Nat) (l : Lanes) (e : Nat) (s : State) : State :=
  s.writeGroup o fmt ar alg start (Nat.min e lim) l.outs (fun _ => .gen)

/-- Commits the result of an instruction with a destination group: registers, flags, streams. lim is VL, or the length that the
instruction covers. -/
def commitV (x : Strand) (p : Prep) (o : Opd) (fmt ar alg start lim : Nat) (l : Lanes) (shp : Nat → Shp) : Res :=
  commitW x p o (fun s => s.writeGroup o fmt ar alg start lim l.outs shp) (partOf o fmt ar alg start lim l) (fun e => l.below (e - start))

/-- Commits an element-granular instruction that writes no group, a store: its elements are performed already. -/
def commitE (p : Prep) : Res :=
  match p.stop with
  | some (e, st) => stopAt (p.load (some e) p.s) e st
  | none => .ok ((p.load none p.s).passSlots p.slots)

/-- Commits an instruction-granular instruction that writes no group: f is its effect on the state, s the state before it. -/
def commitS (s : State) (p : Prep) (flags : Nat) (f : State → State) : Res :=
  match p.stop with
  | some (_, st) => squash s st
  | none => .ok (((f (p.load none p.s)).raise flags).passSlots p.slots)

/-- Writes bits of a mask register (R44): bit i of the list is element start + i; none keeps the bit. -/
def setBits (m start : Nat) : List (Option Nat) → Nat
  | [] => m
  | b :: bs =>
    let m1 := setBits m (start + 1) bs
    match b with
    | none => m1
    | some v => if v % 2 = 1 then m1 ||| 2 ^ start else if m1.testBit start then m1 - 2 ^ start else m1

/-- Writes the bits of a mask register. -/
def State.putMask (s : State) (d : MReg) (v : Nat) : State := s.setMe { s.me with m := s.me.m.set d.val v d.isLt }

/-- Ends a chunk-mask binding: an instruction that writes the register commits (R125). -/
def State.unbindMask (s : State) (d : MReg) : State := s.setMe { s.me with binds := s.me.binds.set d.val none d.isLt }

/-- Writes a mask register as the writing instruction commits. -/
def State.setMask (s : State) (d : MReg) (v : Nat) : State := (s.putMask d v).unbindMask d

/-- Commits a result into a mask: the committed elements' bits are written (R217). -/
def commitM (x : Strand) (p : Prep) (d : MReg) (l : Lanes) : Res :=
  let put (s : State) : State := (s.putMask d (setBits (p.s.me.m.get d) x.vsx l.outs)).raise (l.below l.flags.length)
  match p.stop with
  | some (e, st) => stopAt (put (p.load (some e) p.s)) e st
  | none => .ok (((put (p.load none p.s)).unbindMask d).passSlots p.slots)

/-! ## Environment of the lanes -/

/-- What rounding needs: mode, FTZ and DAZ, SEED and SBASE (R75, R81, R84). -/
structure VEnv where
  f : Fmt
  mode : RMode
  ftz : Bool
  daz : Bool
  seed : Word
  sbase : Word

def State.fmtC (s : State) (code : Nat) : Fmt := (fmtOf s.myPart.fmt code).getD (.int false 8)

def venv (s : State) (x : Strand) (fmt rnd : Nat) : VEnv := ⟨s.fmtC fmt, s.rmode rnd, x.ftz, x.daz, x.seed, x.sbase⟩

def VEnv.rdn (E : VEnv) : Bool := decide (E.mode = .rdn)
def VEnv.draw (E : VEnv) (i : Nat) : Nat := srDraw E.seed E.sbase i
def VEnv.read (E : VEnv) (c : Nat) : XV := readVal E.daz E.f c
/-- Rounds an exact value at element i. -/
def VEnv.round (E : VEnv) (i : Nat) (x : XV × Nat) (sigs : Nat) : Nat × Nat := finishFp E.ftz E.f E.mode (E.draw i) x sigs

/-- The integer a pattern stands for in an integer format. -/
def Fmt.toInt : Fmt → Nat → Int
  | .int true w, c => sintOf w c
  | .int false w, c => (c % 2 ^ w : Nat)
  | .flt _ _, _ => 0
  | .nar _, _ => 0

/-! ## Shape rules of elementwise results (Table 2.3) -/

inductive ARule
  | none | add | sub | mul | shl | neg
deriving DecidableEq, Repr

def affAdd (w : Nat) : Shp → Shp → Shp
  | .aff b s, .aff c t => .aff ((b + c) % 2 ^ w) ((s + t) % 2 ^ w)
  | .aff b s, .uni c => .aff ((b + c) % 2 ^ w) s
  | .uni b, .aff c t => .aff ((b + c) % 2 ^ w) t
  | _, _ => .gen
def affNeg (w : Nat) : Shp → Shp
  | .aff b s => .aff (patOf w (-(b : Int))) (patOf w (-(s : Int)))
  | .uni b => .uni (patOf w (-(b : Int)))
  | .gen => .gen
def affMul (w : Nat) : Shp → Shp → Shp
  | .aff b s, .uni c => .aff (b * c % 2 ^ w) (s * c % 2 ^ w)
  | .uni c, .aff b s => .aff (b * c % 2 ^ w) (s * c % 2 ^ w)
  | _, _ => .gen
def affShl (w : Nat) : Shp → Shp → Shp
  | .aff b s, .uni c => .aff (b * 2 ^ (c % 64) % 2 ^ w) (s * 2 ^ (c % 64) % 2 ^ w)
  | _, _ => .gen

/-- The shape of a result from those of its sources; u is its first element. -/
def ARule.shp (r : ARule) (isInt : Bool) (w : Nat) (ss : List Shp) (u : Nat) : Shp :=
  if ss.all Shp.isUni then .uni u
  else if !isInt then .gen
  else
    match r, ss with
    | .add, [a, b] => affAdd w a b
    | .sub, [a, b] => affAdd w a (affNeg w b)
    | .mul, [a, b] => affMul w a b
    | .shl, [a, b] => affShl w a b
    | .neg, [a] => affNeg w a
    | _, _ => .gen

/-- The proposed shape of register k of the destination o, from sources q (R55): unpredicated, not resumed, not stochastic. DESIGN CHOICE
(log 30): the value u of a uniform register that covers no element, which the spec does not give, is 0. -/
def shapeOf (x : Strand) (p : Prep) (P : MReg) (sr : Bool) (r : ARule) (isInt : Bool) (w : Nat) (o : Opd) (qs : List Source)
    (outs : List (Option Nat)) (k : Nat) : Shp :=
  if P.val ≠ 0 ∨ x.vsx ≠ 0 ∨ sr = true then .gen
  else
    let e0 := k * o.per
    r.shp isInt w (qs.map (fun q => q.shp x p.v e0 (Nat.min o.per (x.vl - e0)))) ((outs.getD e0 none).getD 0)

/-! ## The elementwise form (R212) -/

/-- Cap of R201, counted at element size sz. -/
def State.cap (s : State) (sz : Nat) : Nat := s.vgroup * s.perReg sz

/-- One component: exact value with flags from three operand patterns, at element e. -/
abbrev CompFn := VEnv → Nat → Nat → Nat → Nat → Nat × Nat

/-- Operands A, B (unused where the instruction is unary) and D of an instruction of Table 8.2. useD: D is also a source. DESIGN CHOICE
(log 30): the result's ALG is that of A, also at arity 1, where the ALG fields of the sources may differ. -/
def vElem (o : VOp) (unary useD : Bool) (rule : ARule) (f : CompFn) (x : Strand) (s : State) : Res :=
  let w := s.width o.fmt.val
  let sz := s.size o.fmt.val o.ar.val
  if s.rndAllowed o.rnd.val = false then s.illegal
  else
    match s.opd o.d.val sz sz, s.opd o.a.val sz sz, if unary then some (.scalar 0) else s.bSource x o.b o.nb sz sz with
    | some od, some oa, some qb =>
      let qa := Source.group oa o.na
      let gs := oa :: (qb.opds ++ if useD then [od] else [])
      match s.prep x (s.cap sz) gs (some od) (gs.map (·.want o.fmt.val o.ar.val)) with
      | .error t => .stop t s
      | .ok p =>
        let E := venv s x o.fmt.val o.rnd.val
        let qs := [qa] ++ (if unary then [] else [qb]) ++ (if useD then [Source.group od .plain] else [])
        let shape := shapeOf x p o.p (decide (E.mode = .sr)) rule (isIntCode o.fmt.val) w od qs
        let p := p.onScalar x od o.ar.val (shape [])
        let l := runLanes x.vsx p.hi (x.active o.p) (fun e =>
          eachComp (2 ^ o.ar.val) w (f E e) (qa.get x p.v e) (qb.get x p.v e) (if useD then od.get p.v e else 0))
        commitV x p od o.fmt.val o.ar.val (vget p.v oa.base).alg x.vsx x.vl l (shape l.outs)
    | _, _, _ => s.illegal

end Sys2Proof.Machine
end

