-- ==== Sys2Proof/Machine/VecArith.lean ====
section
/-!
DEFINITION. Elementwise arithmetic, mixed widths, dot products, comparisons and selection (R212–R218). A CompFn works on one
component; floating forms round once at the element's index, integer forms wrap without flags (R214).
-/
namespace Sys2Proof.Machine

/-! ## Component functions -/

/-- A two-operand form: fp on values, int on integers. -/
def comp2 (fp : Bool → XV → XV → XV × Nat) (int : Nat → Int → Int → Int) : CompFn := fun E e a b _ =>
  match E.f with
  | .int _ w => (patOf w (int w (E.f.toInt a) (E.f.toInt b)), 0)
  | _ =>
    let x := E.read a
    let y := E.read b
    E.round e (fp E.rdn x y) (sigFlag x ||| sigFlag y)

/-- d ± a × b (R73). -/
def comp3 (fp : Bool → XV → XV → XV → XV × Nat) (int : Int → Int → Int → Int) : CompFn := fun E e a b d =>
  match E.f with
  | .int _ w => (patOf w (int (E.f.toInt d) (E.f.toInt a) (E.f.toInt b)), 0)
  | _ =>
    let x := E.read a
    let y := E.read b
    let z := E.read d
    E.round e (fp E.rdn z x y) (sigFlag x ||| sigFlag y ||| sigFlag z)

/-- A unary floating form. -/
def comp1 (fp : XV → XV × Nat) : CompFn := fun E e a _ _ => let x := E.read a; E.round e (fp x) (sigFlag x)

/-- A bitwise or integer-only form on w-bit patterns. -/
def compBits (g : Fmt → Nat → Nat → Nat → Nat) : CompFn := fun E _ a b _ => (g E.f E.f.patWidth a b % 2 ^ E.f.patWidth, 0)

/-- Clamps to the range of an integer format (XF[0], R214). -/
def clampInt (f : Fmt) (i : Int) : Int := if i < f.range.1 then f.range.1 else if f.range.2 < i then f.range.2 else i
def compSat (int : Int → Int → Int) : CompFn := fun E _ a b _ =>
  (patOf E.f.patWidth (clampInt E.f (int (E.f.toInt a) (E.f.toInt b))), 0)

def cAdd (sat : Bool) : CompFn := if sat then compSat (· + ·) else comp2 addX (fun _ a b => a + b)
def cSub (sat : Bool) : CompFn := if sat then compSat (· - ·) else comp2 subX (fun _ a b => a - b)
def cMul : CompFn := comp2 (fun _ => mulX) (fun _ a b => a * b)
def cMulh : CompFn := comp2 (fun _ => mulX) (fun w a b => a * b / (2 ^ w : Nat))
def cFma : CompFn := comp3 fmaX (fun d a b => d + a * b)
def cFms : CompFn := comp3 fmsX (fun d a b => d - a * b)
/-- R214: all ones for a divisor of 0. -/
def cDiv : CompFn := comp2 (fun _ => divX) (fun _ a b => if b = 0 then -1 else a.tdiv b)
def cSqrt : CompFn := comp1 sqrtX
def cRsq : CompFn := comp1 rsqrtX
def cRcp : CompFn := comp1 (divX (.fin false 1 1 false))
def cExp2 : CompFn := comp1 exp2X
def cLog2 : CompFn := comp1 log2X

/-- minimumNumber and maximumNumber carry their own flags (R74). -/
def compMinMax (fp : XV → XV → XV × Nat) (int : Int → Int → Int) : CompFn := fun E e a b _ =>
  match E.f with
  | .int _ w => (patOf w (int (E.f.toInt a) (E.f.toInt b)), 0)
  | _ => E.round e (fp (E.read a) (E.read b)) 0
def cMin : CompFn := compMinMax minX (fun a b => if a ≤ b then a else b)
def cMax : CompFn := compMinMax maxX (fun a b => if a ≤ b then b else a)

/-- The sign bit of codes 0–3 and of FMTn with S = 1 (R94, R213). -/
def Fmt.signBit : Fmt → Option Nat
  | .flt eb mb => some (eb + mb)
  | .nar v => if narS v = 1 then some (narW v - 1) else none
  | .int _ _ => none

/-- A sign operation: it changes the sign bit alone, or works on values where there is none. -/
def compSign (bit : Nat → Nat → Nat) (fp : XV → XV) (int : Int → Int) : CompFn := fun E e a _ _ =>
  match E.f with
  | .int _ w => (patOf w (int (E.f.toInt a)), 0)
  | f =>
    match f.signBit with
    | some n => (bit (2 ^ n) (a % 2 ^ f.patWidth), 0)
    | none => E.round e (fp (E.read a), 0) 0
def cNeg : CompFn := compSign (fun h a => (a + h) % (2 * h)) XV.negate (fun a => -a)
def cAbs : CompFn := compSign (fun h a => a % h) (fun x => if x.neg then x.negate else x) (fun a => a.natAbs)

def cAnd : CompFn := compBits (fun _ _ a b => a &&& b)
def cOr : CompFn := compBits (fun _ _ a b => a ||| b)
def cXor : CompFn := compBits (fun _ _ a b => a ^^^ b)
/-- Shift counts are the low 6 bits; a count of w or more shifts everything out (R214). -/
def cShl : CompFn := compBits (fun _ _ a b => a * 2 ^ (b % 64))
def cShr : CompFn := compBits (fun _ _ a b => a / 2 ^ (b % 64))
def cSra : CompFn := compBits (fun f w a b => patOf w (f.toInt a / (2 ^ (b % 64) : Nat)))
def cClz : CompFn := compBits (fun _ w a _ => if a = 0 then w else w - 1 - Nat.log2 a)
def cPopc : CompFn := compBits (fun _ w a _ => popLoop w a)

/-! ## Table 8.2 -/

def mVadd (o : VOp) := vElem o false false (if o.xf.val = 1 then .none else .add) (cAdd (o.xf.val == 1))
def mVsub (o : VOp) := vElem o false false (if o.xf.val = 1 then .none else .sub) (cSub (o.xf.val == 1))
def mVmul (o : VOp) := vElem o false false .mul cMul
def mVfma (o : VOp) := vElem o false true .none cFma
def mVmin (o : VOp) := vElem o false false .none cMin
def mVmax (o : VOp) := vElem o false false .none cMax
def mVand (o : VOp) := vElem o false false .none cAnd
def mVor (o : VOp) := vElem o false false .none cOr
def mVxor (o : VOp) := vElem o false false .none cXor
def mVshl (o : VOp) := vElem o false false .shl cShl
def mVshr (o : VOp) := vElem o false false .none cShr
def mVsra (o : VOp) := vElem o false false .none cSra

def execVadd (o : VOp) (s : State) : Out := vexec (mVadd o) s
def execVsub (o : VOp) (s : State) : Out := vexec (mVsub o) s
def execVmul (o : VOp) (s : State) : Out := vexec (mVmul o) s
def execVmulh (o : VOp) (s : State) : Out := vexec (vElem o false false .none cMulh) s
def execVfma (o : VOp) (s : State) : Out := vexec (mVfma o) s
def execVfms (o : VOp) (s : State) : Out := vexec (vElem o false true .none cFms) s
def execVdiv (o : VOp) (s : State) : Out := vexec (vElem o false false .none cDiv) s
def execVsqrt (o : VOp) (s : State) : Out := vexec (vElem o true false .none cSqrt) s
def execVrsq (o : VOp) (s : State) : Out := vexec (vElem o true false .none cRsq) s
def execVrcp (o : VOp) (s : State) : Out := vexec (vElem o true false .none cRcp) s
def execVexp2 (o : VOp) (s : State) : Out := vexec (vElem o true false .none cExp2) s
def execVlog2 (o : VOp) (s : State) : Out := vexec (vElem o true false .none cLog2) s
def execVmin (o : VOp) (s : State) : Out := vexec (mVmin o) s
def execVmax (o : VOp) (s : State) : Out := vexec (mVmax o) s
def execVabs (o : VOp) (s : State) : Out := vexec (vElem o true false .none cAbs) s
def execVneg (o : VOp) (s : State) : Out := vexec (vElem o true false .neg cNeg) s
def execVand (o : VOp) (s : State) : Out := vexec (mVand o) s
def execVor (o : VOp) (s : State) : Out := vexec (mVor o) s
def execVxor (o : VOp) (s : State) : Out := vexec (mVxor o) s
def execVshl (o : VOp) (s : State) : Out := vexec (mVshl o) s
def execVshr (o : VOp) (s : State) : Out := vexec (mVshr o) s
def execVsra (o : VOp) (s : State) : Out := vexec (mVsra o) s
def execVclz (o : VOp) (s : State) : Out := vexec (vElem o true false .none cClz) s
def execVpopc (o : VOp) (s : State) : Out := vexec (vElem o true false .none cPopc) s

/-! ## VMWIDE, VDOT -/

/-- VMWIDE (R215): B has the format XF, its own width and group factor. -/
def mVmwide (o : VOp) (x : Strand) (s : State) : Res :=
  let fb := o.xf.val
  let sz := s.width o.fmt.val
  let sb := s.width fb
  if s.rndAllowed o.rnd.val = false then s.illegal
  else
    match s.opd o.d.val sz sz, s.opd o.a.val sz sz, s.bSource x o.b o.nb sb sz with
    | some od, some oa, some qb =>
      match s.prep x (s.cap sz) (oa :: qb.opds) (some od) (oa.want o.fmt.val 0 :: qb.opds.map (·.want fb 0)) with
      | .error t => .stop t s
      | .ok p =>
        let E := venv s x o.fmt.val o.rnd.val
        let B := s.fmtC fb
        let qa := Source.group oa o.na
        let shape := shapeOf x p o.p (decide (E.mode = .sr)) .none false sz od [qa, qb]
        let p := p.onScalar x od 0 (shape [])
        let l := runLanes x.vsx p.hi (x.active o.p) (fun e =>
          let a := qa.get x p.v e
          let b := qb.get x p.v e
          match E.f with
          | .int _ w => (patOf w (E.f.toInt a * B.toInt b), 0)
          | _ =>
            let u := E.read a
            let v := readVal E.daz B b
            E.round e (mulX u v) (sigFlag u ||| sigFlag v))
        commitV x p od o.fmt.val 0 (vget p.v oa.base).alg x.vsx x.vl l (shape l.outs)
    | _, _, _ => s.illegal
def execVmwide (o : VOp) (s : State) : Out := vexec (mVmwide o) s

/-- The exact sum of terms in order (R73). DESIGN CHOICE (log 75): where opposite infinities and a quiet NaN are among three or more
terms, NV is set only if the infinities meet before the NaN in term order; the spec does not say. -/
def sumX (rdn : Bool) : List (XV × Nat) → XV × Nat → XV × Nat
  | [], acc => acc
  | t :: ts, acc => let r := addX rdn acc.1 t.1; sumX rdn ts (r.1, r.2 ||| acc.2 ||| t.2)

/-- VDOT (R216): r narrow products go into each 32-bit element. Neighbours count narrow elements, with r × VL as the length. Log 24. -/
def mVdot (o : VOp) (x : Strand) (s : State) : Res :=
  let w := s.width o.fmt.val
  let r := 32 / w
  if s.rndAllowed o.rnd.val = false then s.illegal
  else
    match s.opd o.d.val 32 32, s.opd o.a.val w w, s.bSource x o.b o.nb w w with
    | some od, some oa, some qb =>
      let gs := oa :: qb.opds
      match s.prep x (s.cap 32) (gs ++ [od]) (some od) (od.want o.xf.val 0 :: gs.map (·.want o.fmt.val 0)) with
      | .error t => .stop t s
      | .ok p =>
        let E := venv s x o.xf.val o.rnd.val
        let N := s.fmtC o.fmt.val
        let xr : Strand := { x with vl := r * x.vl }
        let qa := Source.group oa o.na
        let l := runLanes x.vsx p.hi (x.active o.p) (fun e =>
          let d := od.get p.v e
          let as := (List.range r).map (fun j => qa.get xr p.v (r * e + j))
          let bs := (List.range r).map (fun j => qb.get xr p.v (r * e + j))
          match E.f with
          | .int _ w2 => (patOf w2 ((as.zip bs).foldl (fun t ab => t + N.toInt ab.1 * N.toInt ab.2) (E.f.toInt d)), 0)
          | _ =>
            let z := E.read d
            let ts := (as.zip bs).map (fun ab =>
              let u := readVal E.daz N ab.1
              let v := readVal E.daz N ab.2
              let m := mulX u v
              (m.1, m.2 ||| sigFlag u ||| sigFlag v))
            E.round e (sumX E.rdn ts (z, 0)) (sigFlag z))
        commitV x p od o.xf.val 0 (vget p.v oa.base).alg x.vsx x.vl l (fun _ => .gen)
    | _, _, _ => s.illegal
def execVdot (o : VOp) (s : State) : Out := vexec (mVdot o) s

/-! ## VCMP, VSEL -/

/-- Conditions of VCMP (R217). -/
def vcond (n : Nat) : FCond :=
  match n with
  | 0 => .eq
  | 1 => .ne
  | 2 => .lt
  | 3 => .le
  | 4 => .gt
  | 5 => .ge
  | _ => .un

/-- The value an element has in a comparison: scaled, signed or not, and for BITS its bits. -/
def cmpVal (E : VEnv) (c : Nat) : XV :=
  match E.f with
  | .int _ _ => XV.ofInt (E.f.toInt c)
  | _ => E.read c

def mVcmp (o : VMaskOp) (x : Strand) (s : State) : Res :=
  let sz := s.width o.fmt.val
  match s.opd o.a.val sz sz, s.bSource x o.b o.nb sz sz with
  | some oa, some qb =>
    let gs := oa :: qb.opds
    match s.prep x (s.cap sz) gs none (gs.map (·.want o.fmt.val 0)) with
    | .error t => .stop t s
    | .ok p =>
      let E := venv s x o.fmt.val 0
      let l := runLanes x.vsx p.hi (x.active o.p) (fun e =>
        let r := compareX (vcond o.xf.val) (cmpVal E ((Source.group oa o.na).get x p.v e)) (cmpVal E (qb.get x p.v e))
        (b2n r.1, r.2))
      commitM x p o.d l
  | _, _ => s.illegal
def execVcmp (o : VMaskOp) (s : State) : Out := vexec (mVcmp o) s

/-- VSEL (R218): A is checked for size alone; FMT and AR apply to B and D. DESIGN CHOICE (log 30): the result's ALG is that of D, also at
arity 1, where B's may differ. -/
def mVsel (o : VOp) (x : Strand) (s : State) : Res :=
  let sz := s.size o.fmt.val o.ar.val
  match s.opd o.d.val sz sz, s.opd o.a.val sz sz, s.bSource x o.b o.nb sz sz with
  | some od, some oa, some qb =>
    let bad := oa.regs.any (fun r =>
      let v := vget x.v r
      decide (v.shape = .undef) || decide (v.arity ≠ 0) || decide (s.width v.format ≠ sz))
    match s.prep x (s.cap sz) (oa :: od :: qb.opds) (some od) ((od :: qb.opds).map (·.want o.fmt.val o.ar.val)) bad with
    | .error t => .stop t s
    | .ok p =>
      let qa := Source.group oa o.na
      let shape := shapeOf x p o.p false .none false sz od [qa, qb, .group od .plain]
      let p := p.onScalar x od o.ar.val (shape [])
      let l := runLanes x.vsx p.hi (x.active o.p) (fun e =>
        (if qa.get x p.v e ≠ 0 then qb.get x p.v e else od.get p.v e, 0))
      commitV x p od o.fmt.val o.ar.val (vget p.v od.base).alg x.vsx x.vl l (shape l.outs)
  | _, _, _ => s.illegal
def execVsel (o : VOp) (s : State) : Out := vexec (mVsel o) s

end Sys2Proof.Machine
end

