-- ==== Sys2Proof/Machine/VecConfig.lean ====
section
/-!
DEFINITION. Vector configuration and shaped values (R206–R211), conversions, random bits, classes (R225–R228) and the mask
instructions (R232).
-/
namespace Sys2Proof.Machine

/-- Element width that EW names (R206). -/
def ewBits (ew : Nat) : Nat :=
  match ew with
  | 0 => 64
  | 1 => 32
  | 2 => 16
  | 3 => 8
  | _ => 4

/-- VSETL (R206). -/
def execVsetl (d a : SReg) (ew : Fin 8) (ar : Fin 4) (s : State) : Out :=
  let vl := Nat.min (s.rS a).toNat (s.cap (2 ^ ar.val * ewBits ew.val))
  .next (((s.setMe { s.me with vl := vl }).wS d (BitVec.ofNat 64 vl)).advance 8)

/-- VSETG (R207). -/
def execVsetg (g : Fin 4) (s : State) : Out := .next ((s.setMe { s.me with vg := g.val }).advance 8)

/-- Puts whole registers into a group, with expansions counted (R55). -/
def State.putRegs (s : State) (b : Nat) (rs : List VReg) : State :=
  let n := ((List.range rs.length).filter (fun k =>
    decide ((rs.getD k VReg.reset).shape = .general) && decide ((vget s.me.v (b + k)).shape ≠ .general))).length
  let s1 := s.setMe { s.me with v := setRegs s.me.v b rs }
  let p := s1.myPart
  s1.setPart s1.cur.pid { p with expansions := p.expansions + n }

/-- The register that VTAG makes of r (R208); own and sz are the old and the new element size. DESIGN CHOICE (log 30): an affine register
retagged to an integer code of its element size stays affine at every arity, as R208's pseudocode has it, though R54 gives that shape to
arity 1. -/
def retag (r : VReg) (own sz per fmt ar alg : Nat) : VReg :=
  let len := Nat.min per ((r.len * own + sz - 1) / sz)
  match r.shape with
  | .undef => ⟨len, alg, ar, .undef, fmt, 0, 0, 0⟩
  | .uniform => if sz = own ∧ ar = 0 then ⟨len, alg, ar, .uniform, fmt, r.base, 0, 0⟩
    else ⟨len, alg, ar, .general, fmt, 0, 0, r.packed own % 2 ^ (sz * len)⟩
  | .affine => if sz = own ∧ isIntCode fmt = true then ⟨len, alg, ar, .affine, fmt, r.base, r.stride, 0⟩
    else ⟨len, alg, ar, .general, fmt, 0, 0, r.packed own % 2 ^ (sz * len)⟩
  | .general => ⟨len, alg, ar, .general, fmt, 0, 0, r.packed own % 2 ^ (sz * len)⟩

/-- VTAG (R208). DESIGN CHOICE (log 75): whole registers are retagged whatever VL is, also at VL = 0, and VL is compared with no
capacity, since R208 names no VL and R201 no instruction that has none. -/
def mVtag (d a : VNum) (fmt : Fin 64) (ar alg : Fin 4) (x : Strand) (s : State) : Res :=
  let sz := s.size fmt.val ar.val
  match s.opd d.val sz sz, s.opd a.val sz sz with
  | some od, some oa =>
    match s.prep x x.vl [oa] (some od) [] with
    | .error t => .stop t s
    | .ok p =>
      let rs := oa.regs.map (fun n =>
        let r := vget p.v n
        retag r (s.size r.format r.arity) sz od.per fmt.val ar.val alg.val)
      commitAll s x p od (fun s => s.putRegs od.base rs) 0
  | _, _ => s.illegal
def execVtag (d a : VNum) (fmt : Fin 64) (ar alg : Fin 4) (s : State) : Out := vexec (mVtag d a fmt ar alg) s

/-- A result with no vector source: f gives each element, shp the shape of each register when unpredicated. whole: the
instruction is instruction-granular (R204). DESIGN CHOICE (log 30): the tag's ALG is 0, since there is no source to take it from. -/
def vFill (whole : Bool) (d : VNum) (P : MReg) (fmt ar : Nat) (f : Nat → Nat) (shp : Opd → Nat → Shp) (x : Strand) (s : State) : Res :=
  let sz := s.size fmt ar
  match s.opd d.val sz sz with
  | some od =>
    match s.prep x (s.cap sz) [] (some od) [] with
    | .error t => .stop t s
    | .ok p =>
      let l := runLanes x.vsx p.hi (x.active P) (fun e => (f e, 0))
      let sh (k : Nat) : Shp := if P.val ≠ 0 ∨ x.vsx ≠ 0 then .gen else shp od k
      if whole then commitAll s x p od (fun s => s.writeGroup od fmt ar 0 x.vsx x.vl l.outs sh) 0
      else commitV x p od fmt ar 0 x.vsx x.vl l sh
  | none => s.illegal

/-- VIDX (R209). -/
def mVidx (d : VNum) (a b : SReg) (P : MReg) (fmt : Fin 64) (x : Strand) (s : State) : Res :=
  let w := s.width fmt.val
  let f (e : Nat) : Nat := ((x.rS a).toNat + (x.rS b).toNat * e) % 2 ^ w
  vFill true d P fmt.val 0 f (fun o k => .aff (f (k * o.per)) ((x.rS b).toNat % 2 ^ w)) x s
def execVidx (d : VNum) (a b : SReg) (p : MReg) (fmt : Fin 64) (s : State) : Out := vexec (mVidx d a b p fmt) s

/-- What VBC places: the low c × w bits of v (R209); of each container of an FMTn the bits above W are set to 0 (R80). -/
def bcValue (f : Fmt) (c w v : Nat) : Nat := packBits w ((List.range c).map (fun j => comp w j v % 2 ^ f.patWidth))

/-- VBC (R209); an element wider than 64 bits is ILLEGAL. -/
def mVbc (d : VNum) (a : SReg) (P : MReg) (fmt : Fin 64) (ar : Fin 4) (x : Strand) (s : State) : Res :=
  let sz := s.size fmt.val ar.val
  if 64 < sz then s.illegal
  else
    let u := bcValue (s.fmtC fmt.val) (2 ^ ar.val) (s.width fmt.val) (x.rS a).toNat
    vFill true d P fmt.val ar.val (fun _ => u) (fun _ _ => .uni u) x s
def execVbc (d : VNum) (a : SReg) (p : MReg) (fmt : Fin 64) (ar : Fin 4) (s : State) : Out := vexec (mVbc d a p fmt ar) s

/-- VMOVS (R210). DESIGN CHOICE (log 75): it reads element s_b at VL = 0 too, where R201 lets no element be read but R210 names no VL. -/
def mVmovs (d : SReg) (a : VNum) (b : SReg) (fmt : Fin 64) (ar : Fin 4) (x : Strand) (s : State) : Res :=
  let sz := s.size fmt.val ar.val
  if 64 < sz then s.illegal
  else
    match s.opd a.val sz sz with
    | none => s.illegal
    | some oa =>
      match s.prep x (s.cap sz) [oa] none [oa.want fmt.val ar.val] with
      | .error t => .stop t s
      | .ok p =>
        let v := oa.get p.v (x.rS b).toNat
        commitS s p 0 (fun s1 => s1.wS d (if ar.val = 0 then placePattern (s.fmtC fmt.val) v else BitVec.ofNat 64 v))
def execVmovs (d : SReg) (a : VNum) (b : SReg) (fmt : Fin 64) (ar : Fin 4) (s : State) : Out := vexec (mVmovs d a b fmt ar) s

/-- VMOVV (R211). Unpredicated it moves registers of any shape whole; only a shaped tag that does not match is a fault (R57). DESIGN CHOICE
(log 75): it does so at VL = 0 too. -/
def mVmovv (d a : VNum) (P : MReg) (fmt : Fin 64) (ar : Fin 4) (x : Strand) (s : State) : Res :=
  let sz := s.size fmt.val ar.val
  match s.opd d.val sz sz, s.opd a.val sz sz with
  | some od, some oa =>
    match s.prep x (s.cap sz) [oa] (some od) [{ oa.want fmt.val ar.val with loose := true }] with
    | .error t => .stop t s
    | .ok p =>
      if P.val = 0 then commitAll s x p od (fun s => s.putRegs od.base (oa.regs.map (vget p.v))) 0
      else
        let l := runLanes x.vsx p.hi (x.active P) (fun e => (oa.get p.v e, 0))
        commitAll s x p od (fun s => s.writeGroup od fmt.val ar.val (vget p.v oa.base).alg x.vsx x.vl l.outs (fun _ => .gen)) 0
  | _, _ => s.illegal
def execVmovv (d a : VNum) (p : MReg) (_ca : Bool) (fmt : Fin 64) (ar : Fin 4) (s : State) : Out := vexec (mVmovv d a p fmt ar) s

/-! ## Conversion, random bits, classes -/

/-- VCVT and VCVTS (R225, R226): component by component from the format XF. -/
def vConvert (o : VOp) (rnd : Nat) (x : Strand) (s : State) : Res :=
  let ar := o.ar.val
  let sz := s.size o.fmt.val ar
  let ss := s.size o.xf.val ar
  if s.rndAllowed rnd = false then s.illegal
  else
    match s.opd o.d.val sz sz, s.opd o.a.val ss sz with
    | some od, some oa =>
      match s.prep x (s.cap sz) [oa] (some od) [oa.want o.xf.val ar] with
      | .error t => .stop t s
      | .ok p =>
        let E := venv s x o.fmt.val rnd
        let S := s.fmtC o.xf.val
        let w := s.width o.fmt.val
        let qa := Source.group oa o.na
        let shape := shapeOf x p o.p (decide (E.mode = .sr)) .none false w od [qa]
        let p := p.onScalar x od ar (shape [])
        let l := runLanes x.vsx p.hi (x.active o.p) (fun e =>
          let a := qa.get x p.v e
          let rs := (List.range (2 ^ ar)).map (fun j =>
            let v := readVal E.daz S (comp (s.width o.xf.val) j a)
            E.round e (v, 0) (sigFlag v))
          (packBits w (rs.map (·.1)), rs.foldl (fun fl r => fl ||| r.2) 0))
        commitV x p od o.fmt.val ar (vget p.v oa.base).alg x.vsx x.vl l (shape l.outs)
    | _, _ => s.illegal
def execVcvt (o : VOp) (s : State) : Out := vexec (vConvert o o.rnd.val) s
def execVcvts (o : VOp) (s : State) : Out := vexec (vConvert o 5) s

/-- VRNG (R227). -/
def mVrng (d : VNum) (P : MReg) (fmt : Fin 64) (x : Strand) (s : State) : Res :=
  if s.feature 10 then
    vFill false d P fmt.val 0 (fun e => (rndDraw x.seed (x.sbase + BitVec.ofNat 64 e)).toNat % 2 ^ s.width fmt.val) (fun _ _ => .gen) x s
  else s.illegal
def execVrng (d : VNum) (p : MReg) (fmt : Fin 64) (s : State) : Out := vexec (mVrng d p fmt) s

/-- VCLASS (R228) ignores DAZ. -/
def mVclass (d : MReg) (a : VNum) (P : MReg) (fmt : Fin 64) (set : BitVec 10) (x : Strand) (s : State) : Res :=
  let sz := s.width fmt.val
  match s.opd a.val sz sz with
  | none => s.illegal
  | some oa =>
    match s.prep x (s.cap sz) [oa] none [oa.want fmt.val 0] with
    | .error t => .stop t s
    | .ok p =>
      let l := runLanes x.vsx p.hi (x.active P) (fun e =>
        (b2n (set.toNat.testBit (classOf (s.fmtC fmt.val) (oa.get p.v e))), 0))
      commitM x p d l
def execVclass (d : MReg) (a : VNum) (p : MReg) (_ca : Bool) (fmt : Fin 64) (set : BitVec 10) (s : State) : Out :=
  vexec (mVclass d a p fmt set) s

/-! ## Masks (R232) -/

/-- New bits below VL, old bits at VL and above (R44). -/
def maskLow (vl old new : Nat) : Nat := old / 2 ^ vl * 2 ^ vl + new % 2 ^ vl

/-- md below VL becomes f of the whole masks. -/
def maskOp (d : MReg) (v : Nat) (s : State) : Out :=
  .next ((s.setMask d (maskLow s.me.vl (s.me.m.get d) v)).advance 8)
def State.rM (s : State) (a : MReg) : Nat := s.me.m.get a % 2 ^ s.me.vl

def execMand (d a b : MReg) (s : State) : Out := maskOp d (s.rM a &&& s.rM b) s
def execMor (d a b : MReg) (s : State) : Out := maskOp d (s.rM a ||| s.rM b) s
def execMxor (d a b : MReg) (s : State) : Out := maskOp d (s.rM a ^^^ s.rM b) s
def execMandn (d a b : MReg) (s : State) : Out := maskOp d (s.rM a ^^^ (s.rM a &&& s.rM b)) s
def execMnot (d a : MReg) (s : State) : Out := maskOp d (2 ^ s.me.vl - 1 - s.rM a) s
def execMset (d : MReg) (s : State) : Out := maskOp d (2 ^ s.me.vl - 1) s
def execMclr (d : MReg) (s : State) : Out := maskOp d 0 s
def execMpop (d : SReg) (a : MReg) (s : State) : Out := writeNext d (BitVec.ofNat 64 (popLoop s.me.vl (s.rM a))) 8 s
/-- The lowest set bit among n, or none. -/
def firstSet : Nat → Nat → Option Nat
  | 0, _ => none
  | n + 1, v => if v % 2 = 1 then some 0 else (firstSet n (v / 2)).map (· + 1)
def execMffs (d : SReg) (a : MReg) (s : State) : Out :=
  writeNext d (match firstSet s.me.vl (s.rM a) with | some i => BitVec.ofNat 64 i | none => BitVec.allOnes 64) 8 s
def execMpsum (d : VNum) (a : MReg) (fmt : Fin 64) (s : State) : Out :=
  vexec (fun x s => vFill true d 0 fmt.val 0 (fun e => popLoop e (x.m.get a) % 2 ^ s.width fmt.val) (fun _ _ => .gen) x s) s
/-- MMV: between masks and msm (R45, Table 8.4). -/
def execMmv (op : Fin 4) (d a : MReg) (s : State) : Out :=
  if op.val = 0 then maskOp d (s.rM a) s
  else if op.val = 1 then maskOp d s.me.msm s
  else .next ((s.setMe { s.me with msm := maskLow s.me.vl s.me.msm (s.rM a) }).advance 8)

end Sys2Proof.Machine
end

