-- ==== Sys2Proof/Machine/VecAcross.lean ====
section
/-!
DEFINITION. Instructions across elements (R219–R224, R91) and on algebra elements (R92–R94, R229–R231).
-/
namespace Sys2Proof.Machine

/-! ## Reductions -/

/-- Operations of R219 by XF. -/
inductive RedOp
  | sum | prod | min | max | and | or | xor
deriving DecidableEq, Repr

def redOp (n : Nat) : RedOp :=
  match n with
  | 0 => .sum
  | 1 => .prod
  | 2 => .min
  | 3 => .max
  | 4 => .and
  | 5 => .or
  | _ => .xor

/-- op(a, b), exact, with flags (R91). -/
def redX (op : RedOp) (rdn : Bool) (a b : XV) : XV × Nat :=
  match op with
  | .sum => addX rdn a b
  | .prod => mulX a b
  | .min => minX a b
  | .max => maxX a b
  | .and => (a, 0)
  | .or => (a, 0)
  | .xor => (a, 0)

/-- op on w-bit integer patterns: sums and products wrap. -/
def redI (op : RedOp) (f : Fmt) (a b : Nat) : Nat :=
  match op with
  | .sum => (a + b) % 2 ^ f.patWidth
  | .prod => a * b % 2 ^ f.patWidth
  | .min => if f.toInt a ≤ f.toInt b then a else b
  | .max => if f.toInt a ≤ f.toInt b then b else a
  | .and => a &&& b
  | .or => a ||| b
  | .xor => a ^^^ b

/-- Identities of R91: values, and integer patterns with the range bound for an infinity. -/
def redIdX (op : RedOp) : XV :=
  match op with
  | .prod => XV.ofNat 1
  | .min => .inf false
  | .max => .inf true
  | .sum => XV.zero false
  | .and => XV.zero false
  | .or => XV.zero false
  | .xor => XV.zero false
def redIdI (op : RedOp) (f : Fmt) : Nat :=
  match op with
  | .sum => 0
  | .prod => 1
  | .min => patOf f.patWidth f.range.2
  | .max => patOf f.patWidth f.range.1
  | .and => 2 ^ f.patWidth - 1
  | .or => 0
  | .xor => 0

/-- The identity of a floating format as R91 delivers it: RoundTo(identity, F, RNE, 0), without its flags. -/
def identity (f : Fmt) (op : RedOp) : Nat := (roundTo f .rne 0 (redIdX op)).1

/-- Combine of two present values: rounded in F (R91), FTZ applying. The pattern and the flags. -/
def VEnv.combine (E : VEnv) (op : RedOp) (a b : XV) : Nat × Nat := E.round 0 (redX op E.rdn a b) 0

/-- One level of Tree over values and flags; none is EMPTY. -/
def treeLevel (E : VEnv) (op : RedOp) : List (Option XV) → List (Option XV) × Nat
  | [] => ([], 0)
  | [a] => ([a], 0)
  | a :: b :: r =>
    let t := treeLevel E op r
    match a, b with
    | none, b => (b :: t.1, t.2)
    | a, none => (a :: t.1, t.2)
    | some a, some b =>
      let c := E.combine op a b
      (some (E.f.value c.1) :: t.1, t.2 ||| c.2)

/-- Tree of R91 over n levels: the elements stand for y[0], y[1], …; a missing right neighbour is EMPTY. -/
def treeAll (E : VEnv) (op : RedOp) : Nat → List (Option XV) → Nat → Option XV × Nat
  | 0, y, fl => (y.headD none, fl)
  | n + 1, y, fl => let t := treeLevel E op y; treeAll E op n t.1 (fl ||| t.2)

/-- An element as it enters Tree: DAZ, NV for a signalling NaN, every NaN canonical. -/
def enterX (x : XV) : XV := if x.isNan then .nan false else x

/-- VRED (R219): the reduced pattern and its flags. -/
def reduce (E : VEnv) (op : RedOp) (elems : List (Option Nat)) : Nat × Nat :=
  match E.f with
  | .int _ _ => ((elems.filterMap id).foldl (redI op E.f) (redIdI op E.f), 0)
  | _ =>
    let vals := elems.map (fun e => e.map E.read)
    let sigs := vals.foldl (fun fl v => match v with | some v => fl ||| sigFlag v | none => fl) 0
    let t := treeAll E op 16 (vals.map (fun v => v.map enterX)) sigs
    match t.1 with
    | none => (identity E.f op, 0)
    | some v => E.round 0 (v, t.2) 0

/-- VRED. Rounding that resolves to SR is ILLEGAL (R91). -/
def mVred (o : VScalOp) (x : Strand) (s : State) : Res :=
  let sz := s.width o.fmt.val
  if isFloatCode o.fmt.val ∧ s.rmode o.rnd.val = .sr then s.illegal
  else
    match s.opd o.a.val sz sz with
    | none => s.illegal
    | some oa =>
      match s.prep x (s.cap sz) [oa] none [oa.want o.fmt.val 0] with
      | .error t => .stop t s
      | .ok p =>
        let E := venv s x o.fmt.val o.rnd.val
        let elems := (List.range x.vl).map (fun e =>
          if x.active o.p e then some ((Source.group oa o.na).get x p.v e) else none)
        let r := reduce E (redOp o.xf.val) elems
        commitS s p r.2 (fun s1 => s1.wS o.d (placePattern E.f r.1))
def execVred (o : VScalOp) (s : State) : Out := vexec (mVred o) s

/-- The highest active element below n. -/
def lastActive (x : Strand) (P : MReg) : Nat → Option Nat
  | 0 => none
  | n + 1 => if x.active P n then some n else lastActive x P n

/-- Runs a serial recurrence over the active elements e, e + 1, …: the outputs and flags of each, and the last carry. -/
def serial {α : Type} (x : Strand) (P : MReg) (f : Nat → α → α × Nat × Nat) : Nat → Nat → α → Lanes × α
  | 0, _, c => (⟨[], []⟩, c)
  | n + 1, e, c =>
    if x.active P e then
      let r := f e c
      let t := serial x P f n (e + 1) r.1
      (⟨some r.2.1 :: t.1.outs, r.2.2 :: t.1.flags⟩, t.2)
    else
      let t := serial x P f n (e + 1) c
      (⟨none :: t.1.outs, 0 :: t.1.flags⟩, t.2)

/-- VSCAN (R220): serial by element index; a resumed scan starts from the last committed value. DESIGN CHOICE (log 75): DAZ acts on a[i]
alone, not on the running value or the d[j] that a resumed scan starts from; the spec does not say whether they are inputs. -/
def mVscan (o : VOp) (x : Strand) (s : State) : Res :=
  let sz := s.width o.fmt.val
  let op := redOp o.xf.val
  if s.rndAllowed o.rnd.val = false then s.illegal
  else
    match s.opd o.d.val sz sz, s.opd o.a.val sz sz with
    | some od, some oa =>
      match s.prep x (s.cap sz) [oa] (some od) [oa.want o.fmt.val 0] with
      | .error t => .stop t s
      | .ok p =>
        let E := venv s x o.fmt.val o.rnd.val
        let qa := Source.group oa o.na
        let prev := (lastActive x o.p (Nat.min x.vsx x.vl)).map (od.get p.v)
        let l : Lanes :=
          match E.f with
          | .int _ _ =>
            (serial x o.p (fun e c => let v := redI op E.f c (qa.get x p.v e); (v, v, 0)) (p.hi - x.vsx) x.vsx
              (prev.getD (redIdI op E.f))).1
          | _ =>
            (serial x o.p (fun e (c : XV) =>
              let a := E.read (qa.get x p.v e)
              let v := E.round 0 (redX op E.rdn c (enterX a)) (sigFlag a)
              (E.f.value v.1, v.1, v.2)) (p.hi - x.vsx) x.vsx ((prev.map E.f.value).getD (E.f.value (identity E.f op)))).1
        commitV x p od o.fmt.val 0 (vget p.v oa.base).alg x.vsx x.vl l (fun _ => .gen)
    | _, _ => s.illegal
def execVscan (o : VOp) (s : State) : Out := vexec (mVscan o) s

/-- VRECUR (R221): the carry sK is written with each commit, a partial one too. DESIGN CHOICE (log 75): the carry is read under DAZ at
every step, as the multiplicand of an FMA; the spec does not say whether the running carry is such an input. -/
def mVrecur (o : VOp) (x : Strand) (s : State) : Res :=
  let sz := s.width o.fmt.val
  let sK : SReg := Fin.ofNat 64 o.xf.val
  if s.rndAllowed o.rnd.val = false then s.illegal
  else
    match s.opd o.d.val sz sz, s.opd o.a.val sz sz, s.bSource x o.b o.nb sz sz with
    | some od, some oa, some qb =>
      let gs := oa :: qb.opds
      match s.prep x (s.cap sz) gs (some od) (gs.map (·.want o.fmt.val 0)) with
      | .error t => .stop t s
      | .ok p =>
        let E := venv s x o.fmt.val o.rnd.val
        let qa := Source.group oa o.na
        let step (e c : Nat) : Nat × Nat × Nat :=
          let r := cFma E e (qa.get x p.v e) c (qb.get x p.v e)
          (r.1, r.1, r.2)
        let run (hi : Nat) := serial x o.p step (hi - x.vsx) x.vsx ((x.rS sK).toNat % 2 ^ E.f.patWidth)
        let r := run p.hi
        let wr (lim : Nat) (s1 : State) : State :=
          (s1.writeGroup od o.fmt.val 0 (vget p.v oa.base).alg x.vsx (Nat.min lim x.vl) r.1.outs (fun _ => .gen)).wS sK
            (placePattern E.f (run lim).2)
        commitW x p od (wr x.vl) wr (fun e => r.1.below (e - x.vsx))
    | _, _, _ => s.illegal
def execVrecur (o : VOp) (s : State) : Out := vexec (mVrecur o) s

/-! ## Moving elements (instruction-granular, R204): a chunk's fault commits none of them -/

/-- A move: g gives each element of d its source pattern; lim is how far the destination is covered. DESIGN CHOICE (log 75): .L and .R are
admitted on A, and give the neighbour of the moved index; R199 does not say whether these instructions read A element by element. -/
def vMove (d a : VNum) (fmt ar : Nat) (extra : List Want) (bad : Bool) (lim : Nat) (g : Vector VReg 32 → Opd → Nat → Option Nat)
    (x : Strand) (s : State) : Res :=
  let sz := s.size fmt ar
  match s.opd d.val sz sz, s.opd a.val sz sz with
  | some od, some oa =>
    match s.prep x (s.cap sz) (oa :: extra.map (·.o)) (some od) (oa.want fmt ar :: extra) bad with
    | .error t => .stop t s
    | .ok p =>
      commitAll s x p od (fun s => s.writeGroup od fmt ar (vget p.v oa.base).alg 0 lim ((List.range lim).map (g p.v oa)) (fun _ => .gen)) 0
  | _, _ => s.illegal

/-- VSLIDE (R222). -/
def mVslide (o : VOp) (x : Strand) (s : State) : Res :=
  let n := (match o.b with | .s r => (x.rS r).toNat | .v _ => 0)
  vMove o.d o.a o.fmt.val o.ar.val [] false x.vl (fun v oa e =>
    let get := (Source.group oa o.na).get x v
    if x.active o.p e = false then none
    else if o.xf.val = 0 then some (if n ≤ e then get (e - n) else 0)
    else some (if e + n < x.vl then get (e + n) else 0)) x s
def execVslide (o : VOp) (s : State) : Out := vexec (mVslide o) s

/-- VPERM (R223): B's own integer format sets its width and group factor; a scalar B is one signed index. -/
def mVperm (o : VOp) (x : Strand) (s : State) : Res :=
  let sz := s.size o.fmt.val o.ar.val
  let pick (idx : Vector VReg 32 → Nat → Int) (v : Vector VReg 32) (oa : Opd) (e : Nat) : Option Nat :=
    if x.active o.p e = false then none
    else
      let k := idx v e
      some (if 0 ≤ k ∧ k < x.vl then (Source.group oa o.na).get x v k.toNat else 0)
  match o.b with
  | .s r => vMove o.d o.a o.fmt.val o.ar.val [] false x.vl (pick (fun _ _ => (x.rS r).toInt)) x s
  | .v b =>
    let fb := (vget x.v b.val).format
    let fmtB := s.fmtC fb
    match s.opd b.val (s.width fb) sz with
    | none => s.illegal
    | some ob =>
      vMove o.d o.a o.fmt.val o.ar.val [ob.want fb 0] (!isIntCode fb) x.vl
        (pick (fun v e => fmtB.toInt ((Source.group ob o.nb).get x v e))) x s
def execVperm (o : VOp) (s : State) : Out := vexec (mVperm o) s

/-- The selected elements below VL (R224). -/
def selected (x : Strand) (P : MReg) : List Nat := (List.range x.vl).filter (x.active P)

/-- VCOMPR (R224): the predicate selects sources. -/
def mVcompr (o : VOp) (x : Strand) (s : State) : Res :=
  let sel := selected x o.p
  vMove o.d o.a o.fmt.val o.ar.val [] false sel.length (fun v oa e =>
    some ((Source.group oa o.na).get x v (sel.getD e 0))) x s
def execVcompr (o : VOp) (s : State) : Out := vexec (mVcompr o) s

/-- VEXPD (R224). -/
def mVexpd (o : VOp) (x : Strand) (s : State) : Res :=
  let sel := selected x o.p
  vMove o.d o.a o.fmt.val o.ar.val [] false (match sel.getLast? with | some e => e + 1 | none => 0) (fun v oa e =>
    if x.active o.p e then some ((Source.group oa o.na).get x v (sel.filter (fun i => decide (i < e))).length) else none) x s
def execVexpd (o : VOp) (s : State) : Out := vexec (mVexpd o) s

/-! ## Algebra elements -/

/-- ALGB governs these instructions with AR ≠ 0 (Table 14.3). -/
def algAllowed (s : State) (ar : Fin 4) : Bool := decide (ar.val = 0) || s.feature 11

/-- Entry (i, j) of a table as (K, SGN) (R92). -/
def Alg.entry (t : Alg) (i j : Nat) : Nat × Nat := let b := t.ent.getD (8 * i + j) 0; (b % 8, b / 8 % 4)

/-- The entries in use that name component k: (i, j, negative) in index order (R93). -/
def Alg.terms (t : Alg) (c k : Nat) : List (Nat × Nat × Bool) :=
  ((List.range c).flatMap (fun i => (List.range c).map (fun j => (i, j)))).filterMap (fun ij =>
    let e := t.entry ij.1 ij.2
    if e.1 = k ∧ e.2 ≠ 0 then some (ij.1, ij.2, decide (e.2 = 3)) else none)

/-- Component k of AlgMul(a, b): the exact sum of its terms rounded once, or wrapped (R93); a component without terms is 0. -/
def algComp (E : VEnv) (t : Alg) (c w e a b k : Nat) : Nat × Nat :=
  let ts := t.terms c k
  match E.f with
  | .int _ w2 =>
    (patOf w2 (ts.foldl (fun acc q =>
      let p := E.f.toInt (comp w q.1 a) * E.f.toInt (comp w q.2.1 b)
      if q.2.2 then acc - p else acc + p) 0), 0)
  | _ =>
    let terms := ts.map (fun q =>
      let u := E.read (comp w q.1 a)
      let v := E.read (comp w q.2.1 b)
      let m := mulX u v
      ((if q.2.2 then m.1.negate else m.1), m.2 ||| sigFlag u ||| sigFlag v))
    match terms with
    | [] => (0, 0)
    | m :: ms =>
      let r := sumX E.rdn ms m
      let z := if r.1.isZero && E.rdn then XV.zero (terms.all (fun q => q.1.isZero && q.1.neg) || E.rdn) else r.1
      E.round e (z, r.2) 0

/-- The table an element of arity code ar uses; none: ARITY (R92). -/
def tableFor (s : State) (alg ar : Nat) : Option Alg :=
  match (s.myPart.alg.toList.getD alg none) with
  | some t => if t.ar = ar then some t else none
  | none => none

/-- VAMUL (R229). -/
def mVamul (o : VOp) (x : Strand) (s : State) : Res :=
  let w := s.width o.fmt.val
  let ar := o.ar.val
  let sz := s.size o.fmt.val ar
  if algAllowed s o.ar = false ∨ s.rndAllowed o.rnd.val = false then s.illegal
  else
    match s.opd o.d.val sz sz, s.opd o.a.val sz sz, s.bSource x o.b o.nb sz sz with
    | some od, some oa, some qb =>
      let gs := oa :: qb.opds
      match s.prep x (s.cap sz) gs (some od) (gs.map (·.want o.fmt.val ar)) with
      | .error t => .stop t s
      | .ok p =>
        let alg := (vget p.v oa.base).alg
        match tableFor s alg ar with
        | none => .stop (.trap cARITY 0 s.cur.word) s
        | some t =>
          let E := venv s x o.fmt.val o.rnd.val
          let l := runLanes x.vsx p.hi (x.active o.p) (fun e =>
            let a := (Source.group oa o.na).get x p.v e
            let b := qb.get x p.v e
            let rs := (List.range (2 ^ ar)).map (algComp E t (2 ^ ar) w e a b)
            (packBits w (rs.map (·.1)), rs.foldl (fun fl r => fl ||| r.2) 0))
          commitV x p od o.fmt.val ar alg x.vsx x.vl l (fun _ => .gen)
    | _, _, _ => s.illegal
def execVamul (o : VOp) (s : State) : Out := vexec (mVamul o) s

/-- The conjugate of an element: the components of the conjugation bits change sign (R94). DESIGN CHOICE (log 75): a component in an
FMTn with S = 0, which has no sign bit, becomes its negated value rounded (+0 for a positive one), without a flag. -/
def conjElem (E : VEnv) (conj c w a : Nat) : Nat :=
  packBits w ((List.range c).map (fun k => let v := comp w k a; if conj.testBit k then (cNeg E 0 v 0 0).1 else v))

/-- VCONJ (R230): no flag; with AR = 0 a copy. -/
def mVconj (o : VOp) (x : Strand) (s : State) : Res :=
  let w := s.width o.fmt.val
  let ar := o.ar.val
  let sz := s.size o.fmt.val ar
  if algAllowed s o.ar = false then s.illegal
  else
    match s.opd o.d.val sz sz, s.opd o.a.val sz sz with
    | some od, some oa =>
      match s.prep x (s.cap sz) [oa] (some od) [oa.want o.fmt.val ar] with
      | .error t => .stop t s
      | .ok p =>
        let alg := (vget p.v oa.base).alg
        match (if ar = 0 then some (⟨0, 0, []⟩ : Alg) else tableFor s alg ar) with
        | none => .stop (.trap cARITY 0 s.cur.word) s
        | some t =>
          let E := venv s x o.fmt.val 0
          let qa := Source.group oa o.na
          let shape := shapeOf x p o.p false .none false sz od [qa]
          let p := p.onScalar x od ar (shape [])
          let l := runLanes x.vsx p.hi (x.active o.p) (fun e =>
            let a := qa.get x p.v e
            (if ar = 0 then a else conjElem E t.conj (2 ^ ar) w a, 0))
          commitV x p od o.fmt.val ar alg x.vsx x.vl l (shape l.outs)
    | _, _ => s.illegal
def execVconj (o : VOp) (s : State) : Out := vexec (mVconj o) s

/-- VNORM (R230): component 0 of a times its conjugate, an element of arity 1 whose group factor is G / c. -/
def mVnorm (o : VOp) (x : Strand) (s : State) : Res :=
  let w := s.width o.fmt.val
  let ar := o.ar.val
  let sz := s.size o.fmt.val ar
  if algAllowed s o.ar = false ∨ s.rndAllowed o.rnd.val = false then s.illegal
  else
    match s.opd o.d.val w sz, s.opd o.a.val sz sz with
    | some od, some oa =>
      match s.prep x (s.cap sz) [oa] (some od) [oa.want o.fmt.val ar] with
      | .error t => .stop t s
      | .ok p =>
        let alg := (vget p.v oa.base).alg
        match (if ar = 0 then some (⟨0, 0, []⟩ : Alg) else tableFor s alg ar) with
        | none => .stop (.trap cARITY 0 s.cur.word) s
        | some t =>
          let E := venv s x o.fmt.val o.rnd.val
          let qa := Source.group oa o.na
          let shape (outs : List (Option Nat)) : Nat → Shp :=
            if ar = 0 then shapeOf x p o.p (decide (E.mode = .sr)) .none false w od [qa] outs else fun _ => .gen
          let p := p.onScalar x od 0 (shape [])
          let l := runLanes x.vsx p.hi (x.active o.p) (fun e =>
            let a := qa.get x p.v e
            if ar = 0 then cMul E e a a 0 else algComp E t (2 ^ ar) w e a (conjElem E t.conj (2 ^ ar) w a) 0)
          commitV x p od o.fmt.val 0 alg x.vsx x.vl l (shape l.outs)
    | _, _ => s.illegal
def execVnorm (o : VOp) (s : State) : Out := vexec (mVnorm o) s

/-- VAREV (R231). -/
def mVarev (o : VOp) (x : Strand) (s : State) : Res :=
  if algAllowed s o.ar = false then s.illegal
  else
    vMove o.d o.a o.fmt.val o.ar.val [] false x.vl (fun v oa e =>
      if x.active o.p e then some ((Source.group oa o.na).get x v (x.vl - 1 - e)) else none) x s
def execVarev (o : VOp) (s : State) : Out := vexec (mVarev o) s

end Sys2Proof.Machine
end

