-- ==== Sys2Proof/Machine/VecMem.lean ====
section
/-!
DEFINITION. Vector memory (R233–R244): loads, gathers, stores, scatters, acquire and release forms, VSCADD, spill areas, and stream
bindings. Elements are performed in increasing index; the first that faults stops the instruction with the elements below it
committed (R22, R235).
-/
namespace Sys2Proof.Machine

/-! ## Set-up -/

/-- How n(e) is formed (R234). -/
inductive AddrMode
  | unit | stride | index
deriving DecidableEq, Repr

/-- What a vector memory instruction works on: the checked operands and the nibble address of each element. -/
structure VSetup where
  p : Prep
  od : Opd
  nib : Nat → Int

def vmSize (o : VMem) (s : State) : Nat := s.size o.fmt.val o.ar.val

/-- The checks of R203, then STRIDE (R104); D is a source of a store. -/
def vmSetup (o : VMem) (mode : AddrMode) (isStore : Bool) (x : Strand) (s : State) : Except Stop VSetup :=
  let sz := vmSize o s
  let base := x.rS o.a + sx o.disp
  let go (od : Opd) (ob : Option Opd) (fb : Nat) (bad : Bool) : Except Stop VSetup :=
    let dsrc := if isStore then [od] else []
    let wants := dsrc.map (·.want o.fmt.val o.ar.val) ++ ob.toList.map (·.want fb 0)
    match s.prep x (s.cap sz) (dsrc ++ ob.toList) (if isStore then none else some od) wants bad with
    | .error t => .error t
    | .ok p =>
      let b2 : Int := 2 * (base.toNat : Int)
      match mode, ob with
      | .index, some ob =>
        let u : Int := if 8 ≤ sz then 2 else 1
        .ok ⟨p, od, fun e => b2 + (s.fmtC fb).toInt (ob.get p.v e) * u⟩
      | .stride, _ =>
        let st := (match o.b with | .s r => (x.rS r).toInt | .v _ => 0)
        if 8 ≤ sz ∧ st % 2 ≠ 0 then
          .error (.trap cSTRIDE (effLocal s.cur.core o.sp.val o.loc base) (memInfo o.sp.val (if isStore then .write else .read)))
        else .ok ⟨p, od, fun e => b2 + (e : Int) * st⟩
      | _, _ => .ok ⟨p, od, fun e => b2 + ((e * (sz / 4) : Nat) : Int)⟩
  match s.opd o.d.val sz sz with
  | none => .error (illegalStop s)
  | some od =>
    match o.b with
    | .s _ => go od none 0 false
    | .v r =>
      let fb := (vget x.v r.val).format
      match s.opd r.val (s.width fb) sz with
      | none => .error (illegalStop s)
      | some ob => go od (some ob) fb (!isIntCode fb)

/-- One element performed: its value, a mark (R123, R237), the pieces touched, the state. -/
structure ElemRes where
  out : Option Nat
  mark : Bool
  ps : List Piece
  s : State

/-- A run over elements; outs and marks from the first element on. -/
structure MemRun where
  outs : List (Option Nat)
  marks : List (Option Nat)
  ps : List Piece
  s : State
  stop : Option (Nat × Stop)

/-- Performs the active elements e, e + 1, …, n of them. -/
def memLoop (x : Strand) (P : MReg) (f : Nat → State → Except Stop ElemRes) :
    Nat → Nat → List (Option Nat) → List (Option Nat) → List Piece → State → MemRun
  | 0, _, os, ms, ps, s => ⟨os.reverse, ms.reverse, ps, s, none⟩
  | n + 1, e, os, ms, ps, s =>
    if x.active P e then
      match f e s with
      | .error st => ⟨os.reverse, ms.reverse, ps, s, some (e, st)⟩
      | .ok r => memLoop x P f n (e + 1) (r.out :: os) (some (b2n r.mark) :: ms) (ps ++ r.ps) r.s
    else memLoop x P f n (e + 1) (none :: os) (some 0 :: ms) ps s

/-- The preparation as the run leaves it: the first fault stops the instruction there. -/
def Prep.after (p : Prep) (r : MemRun) (slk : Slack) (ack : Bool) : Prep :=
  let s1 := r.s.requestVec slk r.ps ack
  match r.stop with
  | some (e, st) => { p with s := s1, hi := e, stop := some (e, st) }
  | none => { p with s := s1 }

/-- Is an element e with lo ≤ e < hi active? -/
def Strand.anyActive (x : Strand) (P : MReg) (lo hi : Nat) : Bool := (List.range (hi - lo)).any (fun i => x.active P (lo + i))

/-- Ends an instruction of a vector memory word: its size follows its slack (R155, R156). -/
def vmexec (slk : Slack) (m : Strand → State → Res) (s : State) : Out := finish ((m s.me s).next (slackBytes slk))

/-! ## Synchronisation of vector accesses (R123, R124, R240) -/

/-- A vector instruction that is one synchronising operation ends the region once, as it performs its first element; where it
is executed again from a later element it only acquires again (R240). Log 75. -/
def State.syncVec (s : State) (x : Strand) (P : MReg) (scope : Nat) : State :=
  if x.anyActive P 0 x.vsx then s.drain.syncAgain scope else s.drain.sync scope

/-- A chunk-mask acquire of m_P closes toward the strand the chunks of the bound transfer whose bits are set below VL (R124, R125). -/
def State.chunkClose (s : State) (x : Strand) (P : MReg) : State :=
  match x.binds.get P with
  | none => s
  | some tid => s.closeChunks tid (fun k => decide (k < x.vl) && (x.m.get P).testBit k)

/-- Is the home of domain address da inside the unit of a scope around a core (R123)? -/
def homeIn (core scope da : Nat) : Bool :=
  if scope = 4 then true
  else
    let at_ (c : Nat) : Bool := if scope = 1 then decide (c = core) else if scope = 2 then decide (clusterOf c = clusterOf core) else decide (scope = 3)
    match daPlace da with
    | .lane c _ => at_ c
    | .vault c _ => at_ c
    | .far => decide (scope = 3)
    | .none => false

/-- ALIGN of an element at its whole size (R103). -/
def alignStop (s : State) (sp : Nat) (loc : Bool) (n : Int) (sz : Nat) (k : Kind) : Option Stop :=
  let ea := wrap64 (n / 2)
  if 8 ≤ sz ∧ ea.toNat % (sz / 8) ≠ 0 then some (.trap cALIGN (effLocal s.cur.core sp loc ea) (memInfo sp k)) else none

/-! ## Loads -/

/-- A plain element load. -/
def loadElem (o : VMem) (u : VSetup) (sz e : Nat) (s : State) : Except Stop ElemRes :=
  match s.elemLoad true o.sp.val o.loc (u.nib e) sz with
  | .error t => .error t
  | .ok (v, ps, s1) => .ok ⟨some v, false, ps, s1⟩

/-- Runs the elements of a set-up instruction, of preparation p, on state s. -/
def VSetup.run (_u : VSetup) (p : Prep) (x : Strand) (P : MReg) (f : Nat → State → Except Stop ElemRes) (s : State) : MemRun :=
  memLoop x P f (p.hi - x.vsx) x.vsx [] [] [] s

/-- A synchronising instruction starts from what its acquire leaves, unless it stops before its first active element: then it has
performed nothing, and its region has not ended (R112, R240). -/
def VSetup.from_ (u : VSetup) (x : Strand) (P : MReg) (synced : State) (p : Prep) : State :=
  if x.anyActive P x.vsx p.hi || p.stop.isNone then synced else u.p.s

/-- Where a run stops. -/
def Prep.stopRun (p : Prep) (stop : Option (Nat × Stop)) : Prep := match stop with | some (e, t) => p.stopped e t | none => p

/-- Commits the loads of elements below lim into group od: the result is general (R236). run executes the elements that a preparation
leaves; where one of them, or the emission of one into a write-bound destination, stops the instruction, only those below it are executed
(R22, R261). -/
def commitLoad (slk : Slack) (p : Prep) (od : Opd) (fmt ar alg lim : Nat) (x : Strand) (run : Prep → MemRun) : Res :=
  let lanes (p : Prep) : Lanes := ⟨(run p).outs, []⟩
  let full (p : Prep) (s : State) : State := s.writeGroup od fmt ar alg x.vsx lim (lanes p).outs (fun _ => .gen)
  let p1 := p.stopRun (run p).stop
  let p2 := p1.stopRun (emitStop x (p1.after (run p1) slk false) od (full p1) (partOf od fmt ar alg x.vsx lim (lanes p1)))
  commitV x (p2.after (run p2) slk false) od fmt ar alg x.vsx lim (lanes p2) (fun _ => .gen)

/-- Commits the loads of a vector memory word. -/
def vmCommitLoad (o : VMem) (u : VSetup) (x : Strand) (run : Prep → MemRun) : Res :=
  commitLoad o.slk u.p u.od o.fmt.val o.ar.val 0 x.vl x run

/-- VLD, VLDS and VLDX without ACQ, and the chunk-mask acquire of the first two (R236, R240). -/
def mLoad (o : VMem) (mode : AddrMode) (x : Strand) (s : State) : Res :=
  match vmSetup o mode false x s with
  | .error t => .stop t s
  | .ok u =>
    let f := loadElem o u (vmSize o s)
    if o.acq then
      let s0 := (u.p.s.syncVec x o.p 1).chunkClose x o.p
      vmCommitLoad o u x (fun p => u.run p x o.p f (u.from_ x o.p s0 p))
    else vmCommitLoad o u x (fun p => u.run p x o.p f u.p.s)

/-- One element of an acquire-gather: steps 2 to 5 of R180, then the home, then the read (R123). -/
def gatherElem (o : VMem) (u : VSetup) (sz e : Nat) (s : State) : Except Stop ElemRes :=
  let n := u.nib e
  let ea := wrap64 (n / 2)
  match alignStop s o.sp.val o.loc n sz .read with
  | some t => .error t
  | none =>
    match resolve s s.who o.sp.val o.loc ea (if sz = 4 then 1 else sz / 8) .read with
    | .error t => .error t
    | .ok (ps, s1) =>
      if ps.all (fun p => homeIn s.cur.core o.scope.val p.loc.da) then
        match piecesPoisoned s1 ps .read [] s1.me.stores with
        | some st => .error (.trap cUNCORR (effLocal s.cur.core o.sp.val o.loc ea) (BitVec.ofNat 64 st))
        | none =>
          let r := loadPieces s1 ps
          let v := leNat r.1
          .ok ⟨some (if sz = 4 then (if n % 2 = 1 then v / 16 else v % 16) else v), false, ps, r.2⟩
      else .ok ⟨none, true, [], s1⟩

def State.setMsm (s : State) (start : Nat) (bs : List (Option Nat)) : State :=
  s.setMe { s.me with msm := setBits s.me.msm start bs }

/-- VLDX with ACQ (R123, R240). -/
def mGather (o : VMem) (x : Strand) (s : State) : Res :=
  match vmSetup o .index false x s with
  | .error t => .stop t s
  | .ok u =>
    let s0 := u.p.s.syncVec x o.p o.scope.val
    let s0 := if o.p.val ≠ 0 then s0.chunkClose x o.p else s0
    vmCommitLoad o u x (fun p =>
      let r := u.run p x o.p (gatherElem o u (vmSize o s)) (u.from_ x o.p s0 p)
      { r with s := r.s.setMsm x.vsx r.marks })

def execVld (o : VMem) (s : State) : Out := vmexec o.slk (mLoad o .unit) s
def execVlds (o : VMem) (s : State) : Out := vmexec o.slk (mLoad o .stride) s
def execVldx (o : VMem) (s : State) : Out := vmexec o.slk (fun x s => if o.acq then mGather o x s else mLoad o .index x s) s

/-- Is a stop one that VLDXF records instead of taking (R237)? -/
def softStop : Stop → Bool
  | .trap c _ _ => decide (c = cPAGE ∨ c = cPERM ∨ c = cSPACE)
  | .s2 _ => false
  | .preempt => false

/-- VLDXF (R237). -/
def mVldxf (o : VMem) (fm : MReg) (x : Strand) (s : State) : Res :=
  match vmSetup o .index false x s with
  | .error t => .stop t s
  | .ok u =>
    let f (e : Nat) (s : State) : Except Stop ElemRes :=
      match loadElem o u (vmSize o s) e s with
      | .ok r => .ok r
      | .error t => if softStop t then .ok ⟨none, true, [], s⟩ else .error t
    match vmCommitLoad o u x (fun p =>
      let r := u.run p x o.p f u.p.s
      { r with s := r.s.putMask fm (setBits (r.s.me.m.get fm) x.vsx r.marks) }) with
    | .ok s1 => .ok (s1.unbindMask fm)
    | q => q
def execVldxf (o : VMem) (fm : MReg) (s : State) : Out := vmexec o.slk (mVldxf o fm) s

/-- VLDA (R240): every element an acquire; with ACQ also a chunk-mask acquire. -/
def mVlda (o : VMem) (x : Strand) (s : State) : Res :=
  match vmSetup o .unit false x s with
  | .error t => .stop t s
  | .ok u =>
    let s0 := u.p.s.syncVec x o.p (if o.acq then Nat.max 1 o.scope.val else o.scope.val)
    let s0 := if o.acq then s0.chunkClose x o.p else s0
    let sz := vmSize o s
    let f (e : Nat) (s : State) : Except Stop ElemRes :=
      match alignStop s o.sp.val o.loc (u.nib e) sz .read with
      | some t => .error t
      | none =>
        match s.elemLoad false o.sp.val o.loc (u.nib e) sz with
        | .error t => .error t
        | .ok (v, ps, s1) => .ok ⟨some v, false, ps, s1⟩
    vmCommitLoad o u x (fun p => u.run p x o.p f (u.from_ x o.p s0 p))
def execVlda (o : VMem) (s : State) : Out := vmexec o.slk (mVlda o) s

/-! ## Stores -/

/-- Of several stores of one instruction to a byte, the last one's byte remains: other agents see no lower one (R238). -/
def lastWins : List PStore → List PStore
  | [] => []
  | p :: ps =>
    let rest := lastWins ps
    { p with bytes := p.bytes.filter (fun c => !rest.any (fun q =>
      (q.part == .whole || q.part == p.part) && q.bytes.any (fun d => d.1 == c.1))) } :: rest

/-- Do the elements es write every byte of 256-byte block b (R107, R238)? -/
def coversBlock (nib : Nat → Int) (sz : Nat) (es : List Nat) (b : Int) : Bool :=
  (List.range 512).all (fun i => es.any (fun e => decide (nib e ≤ 512 * b + i ∧ 512 * b + i < nib e + (sz / 4 : Nat))))

/-- The blocks that element e touches and the active elements of the run write whole, by their numbers in a 64 KiB page. -/
def VSetup.fullBlocks (u : VSetup) (x : Strand) (P : MReg) (sz e : Nat) : List Nat :=
  let es := ((List.range (u.p.hi - x.vsx)).map (· + x.vsx)).filter (x.active P)
  (([u.nib e / 512, (u.nib e + (sz / 4 : Nat) - 1) / 512].eraseDups).filter (coversBlock u.nib sz es)).map (fun b => (b % 256).toNat)

/-- VST, VSTS, VSTX (R238). -/
def mStore (o : VMem) (mode : AddrMode) (x : Strand) (s : State) : Res :=
  match vmSetup o mode true x s with
  | .error t => .stop t s
  | .ok u =>
    let sz := vmSize o s
    let f (e : Nat) (s : State) : Except Stop ElemRes :=
      match s.elemStore o.sp.val o.loc (u.nib e) sz (u.od.get u.p.v e) (u.fullBlocks x o.p sz e) with
      | .error t => .error t
      | .ok (ps, s1) => .ok ⟨none, false, ps, s1⟩
    let s0 := u.p.s.setMe { u.p.s.me with stores := [] }
    let r := u.run u.p x o.p f s0
    let s1 := r.s.setMe { r.s.me with stores := u.p.s.me.stores ++ (if mode = .unit then r.s.me.stores else lastWins r.s.me.stores) }
    commitE (u.p.after { r with s := s1 } o.slk true)
def execVst (o : VMem) (s : State) : Out := vmexec o.slk (mStore o .unit) s
def execVsts (o : VMem) (s : State) : Out := vmexec o.slk (mStore o .stride) s
def execVstx (o : VMem) (s : State) : Out := vmexec o.slk (mStore o .index) s

/-- VSTL (R240): every element a release, in increasing index. -/
def mVstl (o : VMem) (x : Strand) (s : State) : Res :=
  match vmSetup o .unit true x s with
  | .error t => .stop t s
  | .ok u =>
    let sz := vmSize o s
    let f (e : Nat) (s : State) : Except Stop ElemRes :=
      let n := u.nib e
      match alignStop s o.sp.val o.loc n sz .write with
      | some t => .error t
      | none =>
        match permit s s.who s.me.uid false o.sp.val o.loc (wrap64 (n / 2)) (if sz = 4 then 1 else sz / 8) .write with
        | .error t => .error t
        | .ok (ps, s1) =>
          let v := u.od.get u.p.v e
          let old := readPieces s1 ps
          let new := if sz = 4 then (if n % 2 = 1 then v % 16 * 16 + leNat old.1 % 16 else leNat old.1 / 16 * 16 + v % 16) else v
          let s2 := if sz = 4 then old.2 else s1
          .ok ⟨none, false, ps, (s2.performFrom s.cur.core ps (leBytes (if sz = 4 then 1 else sz / 8) new)).foldElem o.sp.val o.loc n sz v⟩
    let run (p : Prep) : MemRun := u.run p x o.p f (u.from_ x o.p (u.p.s.syncVec x o.p o.scope.val) p)
    let p1 := u.p.stopRun (run u.p).stop
    commitE (p1.after (run p1) o.slk true)
def execVstl (o : VMem) (s : State) : Out := vmexec o.slk (mVstl o) s

/-! ## VSCADD (R239) -/

/-- One address of a batch: its nibble address and the merged addend. -/
structure Addend where
  n : Int
  v : Nat
  ps : List Piece
deriving DecidableEq, Repr

/-- Merge (R239): rounded with RND at index 0, or wrapped. Log 35. -/
def mergeAdd (E : VEnv) (a b : Nat) : Nat × Nat := cAdd false E 0 a b 0

/-- Adds one element to the batch, merging with an earlier one at the same address. -/
def addAddend (E : VEnv) (n : Int) (v : Nat) (ps : List Piece) : List Addend → List Addend × Nat
  | [] => ([⟨n, v, ps⟩], 0)
  | a :: as =>
    if a.n = n then
      let m := mergeAdd E a.v v
      ({ a with v := m.1 } :: as, m.2)
    else
      let r := addAddend E n v ps as
      (a :: r.1, r.2)

/-- Collects elements e, e + 1, …, n of them, with the checks of each. -/
def scaddCollect (o : VMem) (u : VSetup) (x : Strand) (E : VEnv) (sz : Nat) :
    Nat → Nat → List Addend → Nat → State → List Addend × Nat × State × Option (Nat × Stop)
  | 0, _, b, fl, s => (b, fl, s, none)
  | k + 1, e, b, fl, s =>
    if x.active o.p e then
      match permit s s.who s.me.uid false o.sp.val o.loc (wrap64 (u.nib e / 2)) (sz / 8) .atomic with
      | .error t => (b, fl, s, some (e, t))
      | .ok (ps, s1) =>
        if ps.any (fun p => isEndpoint p.loc.da && !Config.endpointAtomics (p.loc.da / 2 ^ 48 % 256)) then
          (b, fl, s, some (e, .trap cPERM (effLocal s.cur.core o.sp.val o.loc (wrap64 (u.nib e / 2))) (memInfo o.sp.val .atomic)))
        else
          let v := u.od.get u.p.v e
          let r := addAddend E (u.nib e) v ps b
          let s2 := if isIntCode o.fmt.val then s1.fold o.sp.val (wrap64 (u.nib e / 2)) (BitVec.ofNat 64 v) (0x80 + sz / 8) else s1
          scaddCollect o u x E sz k (e + 1) r.1 (fl ||| r.2) s2
    else scaddCollect o u x E sz k (e + 1) b fl s

/-- Performs the updates of a batch, each one atomic read-modify-write. -/
def scaddPerform (E : VEnv) (sz : Nat) : List Addend → Nat → State → Nat × State
  | [], fl, s => (fl, s)
  | a :: as, fl, s =>
    let r := readPieces s a.ps
    let m := mergeAdd E (leNat r.1) a.v
    scaddPerform E sz as (fl ||| m.2) (r.2.performFrom s.cur.core a.ps (leBytes (sz / 8) m.1))

def mVscadd (o : VMem) (rnd : Nat) (x : Strand) (s : State) : Res :=
  if s.rmode rnd = .sr then s.illegal
  else
    match vmSetup o .index true x s with
    | .error t => .stop t s
    | .ok u =>
      if isFpCode o.fmt.val && s.inDet then .stop (.trap cDETATOM 0 s.cur.word) s
      else
        let sz := vmSize o s
        let E := venv s x o.fmt.val rnd
        let c := scaddCollect o u x E sz (u.p.hi - x.vsx) x.vsx [] 0 u.p.s.drain
        let r := scaddPerform E sz c.1 c.2.1 c.2.2.1
        let s1 := r.2.raise r.1
        let run : MemRun := ⟨[], [], c.1.flatMap (·.ps), s1, c.2.2.2⟩
        commitE (u.p.after run o.slk false)
def execVscadd (o : VMem) (rnd : Fin 8) (s : State) : Out := vmexec o.slk (mVscadd o rnd.val) s

/-! ## Spill areas (R241) -/

/-- A tag (Table 2.2). -/
def shapeCode : Shape → Nat
  | .undef => 0
  | .uniform => 1
  | .affine => 2
  | .general => 3
def VReg.tag (r : VReg) : Nat := r.format + 256 * shapeCode r.shape + 1024 * r.arity + 4096 * r.alg + 65536 * r.len

/-- Stores the data words k, k + 1, …, n of them, of a spill. -/
def spillWords (o : VMem) (base : Word) (word : Nat → Nat) : Nat → Nat → List Piece → State → List Piece × State × Option (Nat × Stop)
  | 0, _, ps, s => (ps, s, none)
  | n + 1, k, ps, s =>
    match permit s s.who s.me.uid true o.sp.val o.loc (base + BitVec.ofNat 64 (64 + 8 * k)) 8 .write with
    | .error t => (ps, s, some (k, t))
    | .ok (qs, s1) =>
      spillWords o base word n (k + 1) (ps ++ qs) (s1.setMe { s1.me with stores := s1.me.stores ++ storesOf qs (leBytes 8 (word k)) })

/-- The group of a spill or fill: G registers from d on. -/
def spillGroup (o : VMem) (s : State) : Option Opd :=
  if o.d.val % s.vgroup = 0 then some ⟨o.d.val, s.vgroup, s.perReg 8, 8⟩ else none

/-- ALIGN of the area (R241). -/
def spillAlign (o : VMem) (base : Word) (k : Kind) (s : State) : Option Stop :=
  if base.toNat % 64 ≠ 0 then some (.trap cALIGN (effLocal s.cur.core o.sp.val o.loc base) (memInfo o.sp.val k)) else none

/-- VSPILL: the header, then the data words up to the one at which a chunk of a read-bound register could not be read (R22). DESIGN CHOICE
(log 75): it and VFILL transfer the whole area at VL = 0 too, where R201 lets no access be made but R241 names no VL. -/
def mVspill (o : VMem) (x : Strand) (s : State) : Res :=
  let base := x.rS o.a + sx o.disp
  match spillGroup o s with
  | none => s.illegal
  | some od =>
    match s.prep x x.vl [od] none [] false .word with
    | .error t => .stop t s
    | .ok p =>
      match spillAlign o base .write s with
      | some t => .stop t s
      | none =>
        let nw := 4 * s.lanes
        let hi := match p.stop with | some (e, _) => e | none => od.num * nw
        match p.stop with
        | some (0, t) => .stop t p.s
        | _ =>
          let data (k : Nat) : Nat := let r := vget p.v (od.base + k); r.packed (s.size r.format r.arity)
          let word (k : Nat) : Nat := data (k / nw) / 2 ^ (64 * (k % nw)) % 2 ^ 64
          let hdr := od.regs.flatMap (fun r => leBytes 4 (vget p.v r).tag)
          let hdr := hdr ++ List.replicate (64 - hdr.length) 0
          let first := if x.vsx = 0 then permit p.s p.s.who p.s.me.uid true o.sp.val o.loc base 64 .write else .ok ([], p.s)
          match first with
          | .error t => .stop t s
          | .ok (ps, s0) =>
            let s1 := s0.setMe { s0.me with stores := s0.me.stores ++ storesOf ps hdr }
            let r := spillWords o base word (hi - x.vsx) x.vsx ps s1
            commitE (p.after ⟨[], [], r.1, r.2.1, r.2.2⟩ o.slk true)
def execVspill (o : VMem) (s : State) : Out := vmexec o.slk (mVspill o) s

/-- The register a saved tag describes, with the bits given; none: an invalid tag. Log 34. -/
def fillReg (s : State) (tag bits_ : Nat) : Option VReg :=
  let fmt := bits tag 5 0
  let ar := bits tag 11 10
  let len := bits tag 28 16
  let sz := s.size fmt ar
  if isCode fmt = false ∨ s.perReg sz < len then none
  else if bits tag 9 8 = 0 then some ⟨len, bits tag 13 12, ar, .undef, fmt, 0, 0, 0⟩
  else some ⟨len, bits tag 13 12, ar, .general, fmt, 0, 0, bits_ % 2 ^ (sz * len)⟩

/-- Loads data words k, k + 1, …, n of them, into registers; a register saved as undefined keeps no data. -/
def fillWords (o : VMem) (base : Word) (od : Opd) (nw : Nat) : Nat → Nat → List Piece → State → List Piece × State × Option (Nat × Stop)
  | 0, _, ps, s => (ps, s, none)
  | n + 1, k, ps, s =>
    match permit s s.who s.me.uid true o.sp.val o.loc (base + BitVec.ofNat 64 (64 + 8 * k)) 8 .read with
    | .error t => (ps, s, some (k, t))
    | .ok (qs, s1) =>
      let l := loadPieces s1 qs
      let s2 := l.2
      let n_ := od.base + k / nw
      let r := vget s2.me.v n_
      let sz := s2.size r.format r.arity
      let r1 := if r.shape = .undef then r else
        { r with bits := putBits r.bits (64 * (k % nw) + 63) (64 * (k % nw)) (leNat l.1) % 2 ^ (sz * r.len) }
      fillWords o base od nw n (k + 1) (ps ++ qs) (s2.setMe { s2.me with v := s2.me.v.setIfInBounds n_ r1 })

def mVfill (o : VMem) (x : Strand) (s : State) : Res :=
  let base := x.rS o.a + sx o.disp
  match spillGroup o s with
  | none => s.illegal
  | some od =>
    match s.prep x x.vl [] (some od) [] false .word with
    | .error t => .stop t s
    | .ok p =>
      match spillAlign o base .read s with
      | some t => .stop t s
      | none =>
        let nw := 4 * s.lanes
        let go (ps : List Piece) (s1 : State) : Res :=
          let r := fillWords o base od nw (od.num * nw - x.vsx) x.vsx ps s1
          let q := p.after ⟨[], [], r.1, r.2.1, r.2.2⟩ o.slk false
          -- a write-bound register is emitted once the fill is whole; VSX counts the nibbles emitted beyond the words (log 34)
          match q.stop with
          | some (e, t) => stopAt q.s e t
          | none =>
            let od4 : Opd := { od with per := s.perReg 4, sz := 4 }
            let wr := slotsIn x.streams [od4]
            match emitAll x.vl (od4.num * od4.per) q.s.me.v (x.vsx - od.num * nw) (od4.num * od4.per) wr q.s with
            | (s2, some (e, t)) => stopAt s2 (od.num * nw + e) t
            | (s2, none) => .ok (s2.passSlots (q.slots ++ wr.map (·.1)))
        if x.vsx ≠ 0 then go [] p.s
        else
          match permit p.s p.s.who p.s.me.uid true o.sp.val o.loc base 64 .read with
          | .error t => .stop t s
          | .ok (ps, s1) =>
            let l := loadPieces s1 ps
            let rs := (List.range od.num).map (fun k =>
              let r := vget p.v (od.base + k)
              fillReg s (leNat ((l.1.drop (4 * k)).take 4)) (r.packed (s.size r.format r.arity)))
            if rs.any Option.isNone then .stop (.trap cFMTTAG 0 s.cur.word) s
            else go ps (l.2.putRegs od.base (rs.filterMap id))
def execVfill (o : VMem) (s : State) : Out := vmexec o.slk (mVfill o) s

/-! ## Stream bindings (R61, R242, R243) -/

/-- VBIND, an extended pair. A read-bound group becomes general, in the binding's format, with no element yet (log 12). DESIGN CHOICE
(log 75): VL is compared with no capacity, since R242 compares CLEN and R201 does not say whether it means this FMT too. -/
def mVbind (o : BindOp) (x : Strand) (s : State) : Res :=
  let sz := s.size o.fmt.val o.ar.val
  match s.opd o.d.val sz sz, (List.range 4).find? (fun k => (streamAt x.streams k).isNone) with
  | some od, some k =>
    if slotsIn x.streams [od] ≠ [] ∨ s.cap sz < o.clenM1.toNat + 1 then s.illegal
    else
      let t : Stream := ⟨o.d, o.dir, o.sp.val, o.loc, x.rS o.a, x.rS o.b, o.clenM1.toNat + 1, o.count.toNat, o.fmt.val, o.ar.val,
        o.slit.toNat, 0, false, 0⟩
      let s1 := s.setMe { s.me with streams := s.me.streams.setIfInBounds k (some t) }
      .ok (if o.dir then s1 else s1.putRegs od.base (List.replicate od.num ⟨0, 0, o.ar.val, .general, o.fmt.val, 0, 0, 0⟩))
  | _, _ => s.illegal
def execVbind (o : BindOp) (s : State) : Out := finish ((mVbind o s.me s).next 16)

/-- VUNBIND frees the slot (R243); D names a vector operand (R47). -/
def execVunbind (d : VNum) (s : State) : Out :=
  if d.val % s.vgroup ≠ 0 then finish s.illegal else
  let clear : Option Stream → Option Stream := fun t =>
    match t with
    | some t => if t.reg = d then none else some t
    | none => none
  .next ((s.setMe { s.me with streams := s.me.streams.map clear }).advance 8)

/-- The pieces of elements j, j + 1, …, n of them, of chunk k of a stream, as far as they can be reached. -/
def chunkPieces (t : Stream) (sz k : Nat) : Nat → Nat → State → List Piece
  | 0, _, _ => []
  | n + 1, j, s =>
    match resolve s s.who t.sp t.loc (wrap64 (t.nib sz k j / 2)) (if sz = 4 then 1 else sz / 8) .read with
    | .error _ => []
    | .ok (ps, s1) => ps ++ chunkPieces t sz k n (j + 1) s1

/-- The access side fetches a chunk ahead: a request leaves for each slice that holds elements of it; the data are read as the
consumer commits (R18, R133, R243). -/
def execStreamChunkFetch (core strand slot : Nat) (s : State) : Out :=
  let s1 := s.actAs core strand
  match streamAt s1.me.streams slot with
  | none => .next s
  | some t =>
    if t.dir ∨ t.count ≤ t.pos + t.fetched then .next s
    else
      let sz := s1.size t.fmt t.ar
      match chunkPieces t sz (t.pos + t.fetched) t.clen 0 s1 with
      | [] => .next s
      | ps =>
        let st := s1.me.streams.setIfInBounds slot (some { t with fetched := t.fetched + 1 })
        .next ((s1.setMe { s1.me with streams := st }).request (.lit (.ofNat 12 t.slit)) ps false)

end Sys2Proof.Machine
end

