-- ==== Sys2Proof/Machine/Transfer.lean ====
section
/-!
DEFINITION. Copies, sequencer runs, copy tags and byte-counting barriers (R270–R292): the instructions, and the events
SEQUENCER_COPY_EMIT, CHUNK_WRITTEN, TRANSFER_COMPLETE and TAG_WAIT_WAKE. A transfer writes its chunks one at a time in chunk
order; a 32-byte block that two chunks share is written once (log 40).
-/
namespace Sys2Proof.Machine

/-! ## Byte-counting barriers (R284–R287) -/

def barTarget (w : Nat) : Nat := bits w 60 31

/-- Arrive of R285 on a word's value. -/
def arriveWord (w n : Nat) (e : Bool) : Nat :=
  let err := b2n (e || w.testBit 62)
  let phase := b2n (w.testBit 63)
  let ovr := b2n (w.testBit 61)
  let T := barTarget w
  let pack (p o v : Nat) : Nat := v + T * 2 ^ 31 + o * 2 ^ 61 + err * 2 ^ 62 + p * 2 ^ 63
  if T = 0 then pack (1 - phase) 1 0
  else
    let v := bits w 30 0 + n
    if v < T then pack phase ovr v
    else if v - T < T then pack (1 - phase) ovr (v - T)
    else pack (1 - phase) 1 ((v - T) % T)

/-- One atomic arrival at the barrier word at da; the number of the phase it counts toward. -/
def State.arrive (s : State) (da n : Nat) (e : Bool) : Nat × State :=
  let r := s.readBytes da none 8
  let w := leNat r.1
  let w1 := arriveWord w n e
  let ph := Map.getD s.barFlips da 0
  let s1 := r.2.writeBytes da none (leBytes 8 w1)
  (ph, if w1.testBit 63 = w.testBit 63 then s1 else { s1 with barFlips := Map.set s1.barFlips da (ph + 1) })

/-- An access of a barrier instruction to the word at s_a (R286): its place, or why it stops. -/
def State.barPiece (s : State) (a : SReg) (loc : Bool) (k : Kind) : Except Stop (Nat × List Piece × State) :=
  let ea := s.rS a
  match s.misaligned 1 loc ea 8 k with
  | some t => .error t
  | none =>
    match permit s s.who s.me.uid false 1 loc ea 8 k with
    | .error t => .error t
    | .ok (ps, s1) => .ok ((ps.head?.map (·.loc.da)).getD 0, ps, s1)

/-- BINIT: the operand is checked before the address. -/
def execBinit (a b : SReg) (loc : Bool) (sl : Fin 8) (s : State) : Out :=
  let t := bits (s.rS b).toNat 29 0
  finish (
    if t = 0 then s.illegal
    else
      match s.drain.barPiece a loc .write with
      | .error st => .stop st s
      | .ok (_, ps, s1) => .ok (((s1.performAll (storesOf ps (leBytes 8 (t * 2 ^ 31)))).request (.cls sl) ps true).advance 8))

/-- BARR. -/
def execBarr (d a b : SReg) (loc : Bool) (sl : Fin 8) (s : State) : Out :=
  finish (
    match s.drain.barPiece a loc .atomic with
    | .error st => .stop st s
    | .ok (da, ps, s1) =>
      let r := readPieces s1 ps
      let s2 := (r.2.arrive da (bits (s.rS b).toNat 30 0) false).2
      .ok (((s2.request (.cls sl) ps false).wS d (BitVec.ofNat 64 (leNat r.1))).advance 8))

/-- BTRY: a relaxed read. -/
def execBtry (d a b : SReg) (loc : Bool) (sl : Fin 8) (s : State) : Out :=
  finish (
    match s.barPiece a loc .read with
    | .error st => .stop st s
    | .ok (_, ps, s1) =>
      let r := loadPieces s1 ps
      .ok (((r.2.request (.cls sl) ps false).wS d (boolWord (decide ((leNat r.1).testBit 63 = (s.rS b).getLsbD 0)))).advance 8))

/-! ## Observing completions (R280, R117) -/

/-- The acting strand observes the completion of transfer tid. -/
def State.observeXfer (s : State) (tid : Nat) : State :=
  let s1 := s.observe s.me.uid tid
  { s1 with xfers := Map.erase s1.xfers tid }

/-- Its completed transfers for which sel holds. -/
def State.observeAll (s : State) (sel : Xfer → Bool) : State :=
  (s.xfers.filter (fun c => decide (c.2.uid = s.me.uid) && c.2.complete && sel c.2)).foldl (fun s c => s.observeXfer c.1) s

/-- Was the arrival with this phase number counted toward a phase that is over? -/
def Xfer.counted (t : Xfer) (flips k : Nat) : Bool :=
  match t.arrived.find? (fun p => p.1 == k) with
  | some p => decide (p.2 < flips)
  | none => false

/-- Was the transfer's final arrival counted toward a phase that is over? -/
def Xfer.finalCounted (t : Xfer) (flips : Nat) : Bool :=
  match t.final with
  | some p => decide (p < flips)
  | none => t.counted flips (t.total - 1)

/-- A BWAIT that observes a phase of the word at da closes, toward the strand, the chunks counted toward it or an earlier one; a
transfer whose final arrival is among them is observed whole (R117, R280), also where its status is not reported yet. Log 37. -/
def State.observeBar (s : State) (da : Nat) : State :=
  let flips := Map.getD s.barFlips da 0
  let ts := s.xfers.filter (fun c => decide (c.2.uid = s.me.uid) && c.2.x.be && decide (c.2.bar = da))
  ts.foldl (fun s c =>
    if c.2.complete && c.2.finalCounted flips then s.observeXfer c.1
    else if decide (c.2.next = c.2.total) && c.2.finalCounted flips then s.observe s.me.uid c.1
    else s.closeChunks c.1 (c.2.counted flips)) s

/-- BWAIT. -/
def execBwait (d a b : SReg) (loc : Bool) (scope sl : Fin 8) (s : State) : Out :=
  finish (
    match s.drain.barPiece a loc .read with
    | .error st => .stop st s
    | .ok (da, ps, s1) =>
      let r := readPieces s1 ps
      let w := leNat r.1
      let s2 := r.2.request (.cls sl) ps false
      if w.testBit 63 = (s.rS b).getLsbD 0 then
        .ok ((((s2.sync scope.val).observeBar da).wS d (BitVec.ofNat 64 w)).advance 8)
      else .wait (.bword da) s2)

/-! ## Issue (R273–R275, R282) -/

/-- What a COPY or a SEQGO starts. -/
structure Issue where
  d : SReg
  x : XferOp
  sb : Word
  ss : Word
  db : Word
  ds : Word
  ordered : Bool
  slot : Option Nat
  counts : List Nat
  lss : List Word
  lds : List Word
  bar : Word
  slack : Slack

/-- Its transfers issued and not yet completed. -/
def State.outstanding (s : State) (uid : Nat) : Nat := (s.xfers.filter (fun c => decide (c.2.uid = uid) && !c.2.complete)).length

/-- The waits before the checks: a free transfer entry, and a status destination that is not pending (R273, R279). -/
def State.issueWait (s : State) (d : SReg) : Option Wait :=
  if s.me.pendStat.getLsbD d.val then some .status
  else if 64 ≤ s.outstanding s.me.uid then some .entry
  else none

/-- The checks of R275, for the chunk count of all copies. -/
def State.issueStop (s : State) (i : Issue) : Option Stop :=
  if i.x.cm.val ≠ 0 ∧ 4096 * s.g < copiesOf i.counts * copyChunks i.x then some (illegalStop s)
  else if i.x.be = false then none
  else
    match s.misaligned 1 i.x.bloc i.bar 8 .atomic with
    | some t => some t
    | none =>
      if (lmPlace s.myPart s.cur.core i.x.bloc i.bar 8).isNone then
        some (.trap cSPACE (effLocal s.cur.core 1 i.x.bloc i.bar) (memInfo 1 .atomic))
      else none

/-- A transfer enters its tag (R282). -/
def Strand.enterTag (x : Strand) (n : Fin 64) : Strand :=
  { x with
    ctb := x.ctb &&& ~~~((1 : Word) <<< n.val)
    cts := if x.pend.get n = 0 then x.cts.set n.val 0 n.isLt else x.cts
    pend := x.pend.set n.val (x.pend.get n + 1) n.isLt }

/-- The chunk mask is cleared and bound (R124, R125). -/
def Strand.bindMask (x : Strand) (cm : MReg) (n tid : Nat) : Strand :=
  if cm.val = 0 then x
  else { x with m := x.m.set cm.val (x.m.get cm / 2 ^ n * 2 ^ n) cm.isLt, binds := x.binds.set cm.val (some tid) cm.isLt }

/-- s0 names no status destination (R274). -/
def Strand.markPending (x : Strand) (d : SReg) : Strand :=
  if d.val = 0 then x else { x with pendStat := x.pendStat ||| (1 : Word) <<< d.val }

/-- The transfer starts: its identity and the state after (R275). -/
def State.startXfer (s : State) (i : Issue) : Nat × State :=
  let s0 := s.drain
  let tid := s0.fresh
  let n := copiesOf i.counts * copyChunks i.x
  let y := s0.me.bindMask i.x.cm n tid
  let y := if i.x.te then y.enterTag i.x.tag else y
  let y := y.markPending i.d
  let issuer := Map.getD s0.agents s0.me.uid noAgent
  let kind : AgentKind := if i.slot.isSome then .seqRun else .transfer
  let ag : Agent := ⟨kind, s0.cur.core, s0.cur.strand, s0.cur.pid, 0, Vector.replicate 4 0, issuer.seen, s0.me.uid, s0.accSeq, none⟩
  let t : Xfer :=
    { uid := s0.me.uid, core := s0.cur.core, strand := s0.cur.strand, pid := s0.cur.pid, task := s0.me.task, x := i.x,
      sb := i.sb, ss := i.ss, db := i.db, ds := i.ds, ordered := i.ordered, slot := i.slot, counts := i.counts, lss := i.lss,
      lds := i.lds, bar := if i.x.be then (lmPlace s0.myPart s0.cur.core i.x.bloc i.bar 8).getD 0 else 0, stat := i.d,
      slack := s0.issuedSlack i.slack, emitted := if i.slot.isSome then 0 else 1, next := 0, stop := none, late := 0,
      complete := false, arrived := [], final := none, waits := if i.slot.isSome then [] else [s0.issuedSlack i.slack], stalled := false,
      held := [], seen := [] }
  (tid, { s0.setMe y with
    fresh := tid + 1
    agents := Map.set s0.agents tid ag
    xfers := Map.set s0.xfers tid t })

/-- Register r + 1. -/
def nextReg (r : SReg) : SReg := Fin.ofNat 64 (r.val + 1)

/-- COPY. -/
def copyRes (d a b : SReg) (x : XferOp) (s : State) : Res :=
  let i : Issue := ⟨d, x, s.rS a, s.rS (nextReg a), s.rS b, s.rS (nextReg b), false, none, [], [], [], s.rS x.breg, .lit x.slit⟩
  match s.issueWait d with
  | some w => .wait w s
  | none =>
    match s.issueStop i with
    | some t => .stop t s
    | none => .ok ((s.startXfer i).2.advance 16)
def execCopy (d a b : SReg) (x : XferOp) (s : State) : Out := finish (copyRes d a b x s)

/-- The copy engine's queue of a transfer: of its strand's COPYs, or of its sequencer slot (R126). -/
def Xfer.queue (t : Xfer) : Nat := match t.slot with | some key => 8 + key | none => t.strand

/-- The slack with which the packets of a transfer's copy at hand leave: what it had as its first chunk started (R138). -/
def Xfer.copySlack (t : Xfer) : Nat := t.waits.headD t.slack

/-- A request of a transfer enters the engine's queue, with strand code 16 + tid (R133). -/
def State.engineRequest (s : State) (tid : Nat) (t : Xfer) (slack : Nat) (place : Nat × Nat) (ack : Bool) (bytes : Nat) : State :=
  s.enter (engineKey t.core) t.queue ⟨(s.part t.pid).tclass, slack, s.now, false, t.core, 16 + tid, place.1, place.2, tid,
    if ack then .ack else .data, bytes⟩

/-- One arrival of transfer tid at its barrier word: an atomic request to the lane memory that holds it (R133, R284, R287). -/
def State.arriveFor (s : State) (tid : Nat) (t : Xfer) (slack n : Nat) (e : Bool) : Nat × State :=
  let a := s.arrive t.bar n e
  (a.1, a.2.engineRequest tid t slack (s.sliceOf t.core ⟨t.bar, none, true, false, 0⟩) false 8)

/-- The issuing strand, while the task that issued the transfer is on it. -/
def State.onIssuer (s : State) (t : Xfer) (f : Strand → Strand) : State :=
  let x := s.strand t.core t.strand
  if x.uid = t.uid then s.setStrand t.core t.strand (f x) else s

/-- Bit k of the chunk mask is set while the mask is still bound to the transfer (R124, R125). -/
def Strand.setChunkBit (x : Strand) (cm : MReg) (tid k : Nat) : Strand :=
  if cm.val ≠ 0 ∧ x.binds.get cm = some tid then { x with m := x.m.set cm.val (x.m.get cm ||| 2 ^ k) cm.isLt } else x

/-- Chunk k of n bytes has been written entirely: its mask bit and its barrier arrival, with the slack of its copy (R124, R285). -/
def State.reportChunk (s : State) (tid slack : Nat) (c : Nat × Nat) : State :=
  match Map.get? s.xfers tid with
  | none => s
  | some t =>
    let s1 := s.onIssuer t (fun x => x.setChunkBit t.x.cm tid c.1)
    if t.x.be then
      let a := s1.arriveFor tid t slack c.2 false
      { a.2 with xfers := Map.set a.2.xfers tid { t with arrived := (c.1, a.1) :: t.arrived } }
    else s1

/-- The chunks to which held blocks belong, with their lengths. -/
def heldChunks (hs : List HeldBlock) : List (Nat × Nat) := (hs.map (fun h => (h.chunk, h.n))).eraseDups

/-- What the chunks of a transfer in flight hold is written, and they are reported. -/
def State.flushHeld (s : State) (tid : Nat) : State :=
  match Map.get? s.xfers tid with
  | none => s
  | some t =>
    let s1 := { s.performAll (t.held.map (·.store)) with xfers := Map.set s.xfers tid { t with held := [] } }
    (heldChunks t.held).foldl (fun s c => s.reportChunk tid t.copySlack c) s1

/-- The transfer ends without starting a further chunk; an earlier reason stays. Its chunks in flight finish (R276). One whose chunks have all been
written is complete by R277: nothing stops it. -/
def State.stopXfer (s : State) (tid code : Nat) (side : Bool) : State :=
  match Map.get? s.xfers tid with
  | none => s
  | some t =>
    if t.complete || t.stop.isSome || decide (t.next = t.total) then s
    else { s with xfers := Map.set s.xfers tid { t with stop := some (code, side), seen := [] } }.flushHeld tid

/-! ## Sequencers (R288–R292) -/

/-- Lane group of slot n of the acting partition on the acting core. -/
def State.slotKey (s : State) (n : Nat) : Nat := s.myPart.k0 s.cur.core + n
def State.seqSlot (s : State) (core key : Nat) : SeqSlot := Map.getD (s.coreOf core).seqs key SeqSlot.reset
def State.setSeqSlot (s : State) (core key : Nat) (q : SeqSlot) : State :=
  s.setCore core { s.coreOf core with seqs := Map.set (s.coreOf core).seqs key q }

/-- The slot that SEQ, SEQGO and SEQSTOP name, of the partition's g (R288). -/
def State.withSlot (s : State) (n : Nat) (k : Nat → SeqSlot → Res) : Res :=
  if s.g ≤ n then s.illegal else k (s.slotKey n) (s.seqSlot s.cur.core (s.slotKey n))

/-- SEQ. -/
def seqRes (a b : SReg) (level slot : Fin 8) (countM1 : BitVec 32) (s : State) : Res :=
  s.withSlot slot.val (fun key q =>
    if q.run.isSome then .wait .entry s
    else
      let q1 := { q with levels := q.levels.setIfInBounds level.val ⟨countM1.toNat + 1, s.rS a, s.rS b⟩ }
      .ok ((s.setSeqSlot s.cur.core key q1).advance 16))
def execSeqLevelWrite (a b : SReg) (level slot : Fin 8) (countM1 : BitVec 32) (s : State) : Out :=
  finish (seqRes a b level slot countM1 s)

/-- The run of a slot starts with this operand state (R290). -/
def State.startRun (s : State) (key : Nat) (q : SeqSlot) (d a b : SReg) (t : Template) (slack : Slack) (store : Bool) : Res :=
  let ls := q.levels.toList
  let i : Issue := ⟨d, t.x, s.rS a, t.ss, s.rS b, t.ds, t.ordered, some key, ls.map (·.count), ls.map (·.ss), ls.map (·.ds),
    BitVec.ofNat 64 t.bar, slack⟩
  match s.issueWait d with
  | some w => .wait w s
  | none =>
    match s.issueStop i with
    | some st => .stop st s
    | none =>
      let r := s.startXfer i
      .ok ((r.2.setSeqSlot s.cur.core key { q with run := some r.1, tmpl := if store then some t else q.tmpl }).advance
        (slackBytes slack))

/-- SEQGO. -/
def seqgoRes (d a b : SReg) (slot : Fin 8) (f : SeqgoForm) (s : State) : Res :=
  s.withSlot slot.val (fun key q =>
    if q.run.isSome then .wait .entry s
    else
      match f with
      | .ext ordered x =>
        s.startRun key q d a b ⟨x, s.rS (nextReg a), s.rS (nextReg b), ordered, (s.rS x.breg).toNat⟩ (.lit x.slit) true
      | .full sl =>
        match q.tmpl with
        | none => s.illegal
        | some t => s.startRun key q d a b t (.cls sl) false)
def execSeqgo (d a b : SReg) (slot : Fin 8) (f : SeqgoForm) (s : State) : Out := finish (seqgoRes d a b slot f s)

/-- SEQSTOP. -/
def execSeqstop (slot : Fin 8) (s : State) : Out :=
  finish (s.withSlot slot.val (fun _ q =>
    .ok ((match q.run with
      | some tid => s.stopXfer tid 0xF0 false
      | none => s).advance 8)))

/-! ## Copy tags (R281–R283) -/

/-- The lowest set bit of a word. -/
def lowestBit (w : Word) : Option Nat := (List.range 64).find? (fun i => w.getLsbD i)

def tagged (mask : Word) (t : Xfer) : Bool := t.x.te && mask.getLsbD t.x.tag.val

def execCtwall (a : SReg) (s : State) : Out :=
  let mask := s.rS a
  finish (
    if s.me.ctb &&& mask = mask then .ok (((s.drain.sync 1).observeAll (tagged mask)).advance 8)
    else .wait .tags s)

def execCtwany (d a : SReg) (s : State) : Out :=
  let mask := s.rS a
  let got := s.me.ctb &&& mask
  finish (
    if mask = 0 then .ok (((s.drain.sync 1).wS d (BitVec.allOnes 64)).advance 8)
    else
      match lowestBit got with
      | some n => .ok ((((s.drain.sync 1).observeAll (tagged got)).wS d (BitVec.ofNat 64 n)).advance 8)
      | none => .wait .tags s)

def execCtffr (d a : SReg) (s : State) : Out :=
  writeNext d (match lowestBit (s.me.ctb &&& s.rS a) with | some n => BitVec.ofNat 64 n | none => BitVec.allOnes 64) 8 s

/-- CTCLR: CTSn becomes 0 where PEND(n) is 0. -/
def execCtclr (a : SReg) (s : State) : Out :=
  let mask := s.rS a
  let x := s.me
  let cts := Vector.ofFn (fun (i : Fin 64) => if mask.getLsbD i.val && decide (x.pend.get i = 0) then 0 else x.cts.get i)
  .next ((s.setMe { x with ctb := x.ctb &&& ~~~mask, cts := cts }).advance 8)

def execCtst (d a : SReg) (s : State) : Out := writeNext d (s.me.cts.get (Fin.ofNat 64 (s.rS a).toNat)) 8 s

/-- The waits of R270: an engine instruction, an instruction on a pending status destination, or EXIT with transfers under way. -/
def Wait.engine : Wait → Bool
  | .tags => true
  | .status => true
  | .entry => true
  | .bword _ => true
  | .mcast _ => true
  | .slices => true
  | .collw => true
  | .exit => true
  | .mem _ _ => false
  | .barrier _ => false
  | .mmode => false
  | .tlbi => false
  | .yield _ _ => false
  | .s2stop => false

/-- TAG_WAIT_WAKE: a strand in such a wait resumes; its instruction is executed again. -/
def execTagWaitWake (core strand : Nat) (s : State) : Out :=
  match (s.strand core strand).run with
  | .waiting w => .next (if w.engine then s.wake core strand else s)
  | _ => .next s

/-! ## The engine's steps (R276, R277, R287, R291) -/

/-- The engine has transfer tid under way. -/
def Xfer.running (t : Xfer) : Bool := !t.complete && t.stop.isNone

/-- The task that issued the transfer is on its strand: its context is not saved (R303). -/
def State.present (s : State) (t : Xfer) : Bool := decide ((s.strand t.core t.strand).uid = t.uid)

/-- SEQUENCER_COPY_EMIT: the next copy of a run; at most two are in flight. It waits with the slack of the SEQGO (R138). -/
def execSequencerCopyEmit (tid : Nat) (s : State) : Out :=
  match Map.get? s.xfers tid with
  | none => .next s
  | some t =>
    if s.present t = true ∧ t.running ∧ t.stalled = false ∧ t.slot.isSome = true ∧ t.emitted < copiesOf t.counts ∧ t.emitted - t.next / copyChunks t.x < 2 then
      .next { s with xfers := Map.set s.xfers tid { t with emitted := t.emitted + 1, waits := t.waits ++ [t.slack] } }
    else .next s

/-- A COPY waits for the older ones of its strand's queue (R126). -/
def State.queueHead (s : State) (tid : Nat) (t : Xfer) : Bool :=
  t.slot.isSome || !s.xfers.any (fun c => decide (c.1 < tid ∧ c.2.uid = t.uid) && c.2.slot.isNone && !c.2.complete)

/-- One side of a chunk, checked from step 3 of R180 on, and for conflicts (R118, R276). Log 40. -/
def State.chunkSide (s : State) (tid : Nat) (w : Who) (sp : Nat) (loc : Bool) (ea : Word) (n : Nat) (k : Kind) :
    Except Stop (List Piece × State) :=
  match resolve s w sp loc ea n k with
  | .error t => .error t
  | .ok (ps, s1) =>
    match piecesPoisoned s1 ps k with
    | some st => .error (.trap cUNCORR ea (BitVec.ofNat 64 st))
    | none =>
      match findConflict s1 tid (piecesBlocks ps) k.writes with
      | some f => .error (.trap cRACE ea (raceInfo s1 f.uid))
      | none => .ok (ps, s1)

/-- The requests of a chunk's side: one for each slice that it touches (R133). -/
def State.injectXfer (s : State) (tid : Nat) (t : Xfer) (ps : List Piece) (ack : Bool) : State :=
  ((s.shares t.core ps).foldl (fun s c => s.engineRequest tid t t.copySlack c.1 ack c.2) s).touchLines t.core ps ack

/-- The 32-byte blocks that a side of n bytes at a covers only in part, as formed and in the domain: among its first and last. -/
def edgeBlocks (a : Word) (n : Nat) (ps : List Piece) : List (Nat × Nat) :=
  let first := (a.toNat / 32, (ps.head?.map (·.loc.da)).getD 0 / 32)
  let last := ((a.toNat + n - 1) / 32, (ps.getLast?.map (fun p => p.loc.da + p.n - 1)).getD 0 / 32)
  ([first, last].eraseDups).filter (fun b => decide (32 * b.1 < a.toNat ∨ a.toNat + n < 32 * (b.1 + 1)))

/-- Does a chunk of the same copy that comes after chunk k touch block b on this side (R126, R127)? -/
def Xfer.later (t : Xfer) (k : Nat) (side : Chunk → Word) (b : Nat) : Bool :=
  (List.range (copyChunks t.x - 1 - k % copyChunks t.x)).any (fun i =>
    let c := t.chunk (k + 1 + i)
    decide ((side c).toNat / 32 ≤ b ∧ b ≤ ((side c).toNat + c.n - 1) / 32))

/-- The bytes of the pieces, those in blocks that the transfer has seen as it saw them. -/
def seenBytes (bl : List SeenBlock) : List Piece → List Byte → List Byte
  | [], _ => []
  | p :: ps, bs =>
    ((bs.take p.n).mapIdx (fun i b =>
      match bl.find? (fun q => q.da == (p.loc.da + i) / 32 && q.mat == p.loc.mat) with
      | some q => q.bytes.getD ((p.loc.da + i) % 32) b
      | none => b)) ++ seenBytes bl ps (bs.drop p.n)

/-- 32-byte blocks of the domain that the pieces touch, with their key material. -/
def blocks32 (ps : List Piece) : List (Nat × Option Nat) :=
  (ps.flatMap (fun p =>
    if p.n = 0 then []
    else (List.range ((p.loc.da + p.n - 1) / 32 - p.loc.da / 32 + 1)).map (fun i => (p.loc.da / 32 + i, p.loc.mat)))).eraseDups

/-- The source blocks that later chunks of the copy read on, and the blocks that this chunk overwrites, as they stand: a later chunk of the
transfer reads them as they stood before the transfer wrote them, so that each destination block is of one version (R272). Of an ORDERED
run each copy reads what the copies before it have written (R127). -/
def Xfer.nextSeen (t : Xfer) (s : State) (k : Nat) (c : Chunk) (sp dp : List Piece) : List SeenBlock :=
  if t.ordered ∧ (k + 1) % copyChunks t.x = 0 then [] else
  let keep := t.seen.filter (fun q => q.own || t.later k (·.src) q.va)
  let has (bl : List SeenBlock) (da : Nat) (mat : Option Nat) : Bool := bl.any (fun q => q.da == da && q.mat == mat)
  let part := (edgeBlocks c.src c.n sp).filter (fun b => t.later k (·.src) b.1)
  let new := part.filterMap (fun b =>
    let mat := (sp.find? (fun p => decide (p.loc.da / 32 ≤ b.2 ∧ b.2 ≤ (p.loc.da + p.n - 1) / 32))).bind (·.loc.mat)
    if has keep b.2 mat then none else some (⟨b.1, b.2, mat, false, (s.readBytes (32 * b.2) mat 32).1⟩ : SeenBlock))
  let own := if t.total ≤ k + 1 then [] else (blocks32 dp).filterMap (fun b =>
    match (keep ++ new).find? (fun q => q.da == b.1 && q.mat == b.2) with
    | some q => some { q with own := true }
    | none => some ⟨0, b.1, b.2, true, (s.readBytes (32 * b.1) b.2 32).1⟩)
  (keep ++ new).filter (fun q => !has own q.da q.mat) ++ own

/-- The destination blocks whose bytes are held until a later chunk of the copy has brought the rest. -/
def Xfer.nextHeld (t : Xfer) (k : Nat) (c : Chunk) (dp : List Piece) : List (Nat × Nat) :=
  ((t.held.map (fun h => (h.va, h.da)) ++ edgeBlocks c.dst c.n dp).eraseDups).filter (fun b => t.later k (·.dst) b.1)

/-- The bytes of a store in some blocks, as held blocks of chunk k. -/
def holdOf (k n : Nat) (bl : List (Nat × Nat)) (p : PStore) : List HeldBlock :=
  bl.filterMap (fun b =>
    match p.bytes.filter (fun x => x.1 / 32 == b.2) with
    | [] => none
    | cs => some ⟨k, n, b.1, b.2, { p with bytes := cs }⟩)

/-- A chunk that passed its checks: it is read, and written with what earlier chunks held for its blocks; the chunks that are thereby
written entirely are reported. -/
def State.moveChunk (s : State) (tid : Nat) (t : Xfer) (k : Nat) (c : Chunk) (sp dp : List Piece) : State :=
  let s1 := s.addFoot tid (piecesBlocks sp) (piecesBlocks dp) k
  let r := readPieces s1 sp
  let bl := t.nextHeld k c dp
  let stores := storesOf dp (seenBytes t.seen sp r.1)
  let held (h : HeldBlock) : Bool := bl.contains (h.va, h.da)
  let keep := t.held.filter held ++ stores.flatMap (holdOf k c.n bl)
  let go := (t.held.filter (fun h => !held h)).map (·.store)
    ++ stores.map (fun p => { p with bytes := p.bytes.filter (fun x => !bl.any (fun b => b.2 == x.1 / 32)) })
  let s2 := (r.2.touchLines t.core dp true).performAll go
  let s3 := (s2.injectXfer tid t sp false).injectXfer tid t dp true
  let t1 := { t with
    next := k + 1, held := keep, seen := t.nextSeen r.2 k c sp dp
    waits := if (k + 1) % copyChunks t.x = 0 then t.waits.tail else t.waits }
  let done := (heldChunks t.held ++ [(k, c.n)]).filter (fun d => !keep.any (fun h => h.chunk == d.1))
  done.foldl (fun s d => s.reportChunk tid t.copySlack d) { s3 with xfers := Map.set s3.xfers tid t1 }

/-- A chunk that failed on a side: a stage-2 fault pre-empts the context, and the chunk is tried again when it runs (R426); any
other failure ends the transfer (R276). -/
def State.failChunk (s : State) (tid : Nat) (t : Xfer) (side : Bool) : Stop → State
  | .s2 f => { s.takeS2 t.pid f (0x3FF + 1024 * t.strand) with xfers := Map.set s.xfers tid { t with stalled := true } }
  | .preempt => s
  | .trap c a i => (s.countStop t.pid (.trap c a i)).stopXfer tid c side

/-- CHUNK_WRITTEN: the next chunk. -/
def execChunkWritten (tid : Nat) (s : State) : Out :=
  match Map.get? s.xfers tid with
  | none => .next s
  | some t =>
    let k := t.next
    if s.present t && t.running && !t.stalled && decide (k < t.total) && decide (k / copyChunks t.x < t.emitted) && s.queueHead tid t then
      let c := t.chunk k
      let w : Who := ⟨t.pid, (s.part t.pid).slot, t.core⟩
      match s.chunkSide tid w t.x.ssp.val t.x.sloc c.src c.n .read with
      | .error st => .next (s.failChunk tid t false st)
      | .ok (sp, s1) =>
        match s1.chunkSide tid w t.x.dsp.val t.x.dloc c.dst c.n .write with
        | .error st => .next (s.failChunk tid t true st)
        | .ok (dp, s2) => .next (s2.moveChunk tid t k c sp dp)
    else .next s

/-- The status word (Table 10.3). -/
def Xfer.status (t : Xfer) : Word :=
  match t.stop with
  | none => BitVec.ofNat 64 (t.before t.total % 2 ^ 48)
  | some (c, side) => BitVec.ofNat 64 (c * 2 ^ 56 + b2n side * 2 ^ 55 + t.before t.next % 2 ^ 48)

/-- CODE of a status word. -/
def statusCode (w : Word) : Nat := bits w.toNat 63 56

/-- The tag state at completion (R282). -/
def Strand.leaveTag (x : Strand) (n : Fin 64) (st : Word) : Strand :=
  let p := x.pend.get n - 1
  let c := x.cts.get n
  let c1 : Word :=
    if statusCode c ≠ 0 then c
    else if statusCode st = 0 then BitVec.ofNat 64 ((c.toNat + st.toNat) % 2 ^ 48)
    else st
  { x with
    pend := x.pend.set n.val p n.isLt
    cts := x.cts.set n.val c1 n.isLt
    ctb := if p = 0 then x.ctb ||| (1 : Word) <<< n.val else x.ctb }

/-- The status destination (R279). -/
def Strand.putStatus (x : Strand) (d : SReg) (st : Word) : Strand :=
  if d.val = 0 then x else { x.wS d st with pendStat := x.pendStat &&& ~~~((1 : Word) <<< d.val) }

/-- Late replies counted into EXS, and the event (R139). -/
def Strand.addLate (x : Strand) (n : Nat) : Strand :=
  if n = 0 then x
  else { x with exs := Nat.min (x.exs + n) (2 ^ 32 - 1), pendSlackex := x.pendSlackex || x.slkctl.testBit 0 }

/-- No packet of the transfer is in the network: its chunks in flight have finished. -/
def State.quiet (s : State) (code : Nat) : Bool :=
  s.arbs.all (fun c => c.2.packets.all (fun p => decide (p.strand ≠ code)))

/-- No packet that was issued for an agent is in the network. -/
def State.quietFor (s : State) (uid : Nat) : Bool :=
  s.arbs.all (fun c => c.2.packets.all (fun p => decide (p.uid ≠ uid)))

/-- The reports of a completion, in the order of R277. DESIGN CHOICE (log 72): the transfer does not wait for the reply of its final arrival. -/
def State.complete (s : State) (tid : Nat) (t : Xfer) : State :=
  let st := t.status
  let fin_ := t.x.be && t.stop.isSome
  let a := if fin_ then s.arriveFor tid t t.copySlack (t.before t.total - t.before t.next) true else (0, s)
  let s1 := a.2.onIssuer t (fun x =>
    let y := if t.x.te then x.leaveTag t.x.tag st else x
    (y.putStatus t.stat st).addLate t.late)
  let s2 :=
    match t.slot with
    | none => s1
    | some key =>
      let q := s1.seqSlot t.core key
      if q.run = some tid then s1.setSeqSlot t.core key { q with run := none } else s1
  { s2 with xfers := Map.set s2.xfers tid { t with complete := true, final := if fin_ then some a.1 else none } }

/-- TRANSFER_COMPLETE. -/
def execTransferComplete (tid : Nat) (s : State) : Out :=
  match Map.get? s.xfers tid with
  | none => .next s
  | some t =>
    if s.present t && !t.complete && (decide (t.next = t.total) || t.stop.isSome) && s.quiet (16 + tid) then .next (s.complete tid t)
    else .next s

end Sys2Proof.Machine
end

