-- ==== Sys2Proof/Machine/Network.lean ====
section
/-!
DEFINITION. The network's own steps (R133–R146) and the store buffer's (R129, R130, R181): SLACK_DECREMENT, PACKET_FORWARD,
REPLY_DELIVERY, SPAN_BOUNDARY, SPAN_TABLE_SWITCH, STORE_PERFORM.
-/
namespace Sys2Proof.Machine

/-! ## Slack (R137, R138) -/

def Packet.tick (p : Packet) : Packet := { p with slack := p.slack - 1 }

/-- The slack of copies that wait for their first chunk to start: all but the first, and the first too before it starts (R138). -/
def Xfer.tick (t : Xfer) : Xfer :=
  if t.running = false then t
  else
    match t.waits with
    | [] => t
    | w :: ws => { t with waits := (if t.next % copyChunks t.x = 0 then w - 1 else w) :: ws.map (· - 1) }

/-- Every waiting packet loses one unit, on the cycles that are multiples of 4; so does a copy that waits in the engine's queue. -/
def execSlackDecrement (s : State) : Out :=
  if s.now % 4 = 0 then
    .next { s with
      arbs := s.arbs.map (fun c => (c.1, c.2.mapQueues (·.map Packet.tick)))
      xfers := s.xfers.map (fun c => (c.1, if s.present c.2 then c.2.tick else c.2)) }
  else .next s

/-! ## Arbitration (R140, R141) -/

/-- The candidates: inputs and the heads of their queues. -/
def candidates : Nat → List (List Packet) → List (Nat × Packet)
  | _, [] => []
  | i, [] :: qs => candidates (i + 1) qs
  | i, (p :: _) :: qs => (i, p) :: candidates (i + 1) qs

/-- How far input i stands behind the one served last, in rotation over n inputs. -/
def rotDist (n last i : Nat) : Nat := (i + n * (last / n + 1) - last - 1) % n

/-- The first of the candidates with the least (major, age, rotation). -/
def leastBy (major : Packet → Nat) (n last : Nat) : List (Nat × Packet) → Option (Nat × Packet)
  | [] => none
  | c :: cs =>
    match leastBy major n last cs with
    | none => some c
    | some d =>
      let before : Bool := decide (major c.2 < major d.2) || (decide (major c.2 = major d.2) && (decide (c.2.age < d.2.age)
        || (decide (c.2.age = d.2.age) && decide (rotDist n last c.1 ≤ rotDist n last d.1))))
      some (if before then c else d)

/-- The choice of R141 of one arbiter of at most 5 inputs, under owner class o (none: open span). -/
def choose (o : Option Nat) (last : Nat) (C : List (Nat × Packet)) : Option (Nat × Packet) :=
  let carried := C.filter (fun c => c.2.carried)
  if carried ≠ [] then leastBy (fun _ => 0) 5 last carried
  else
    let own := match o with
      | some k => C.filter (fun c => decide (c.2.cls = k))
      | none => []
    let E := if own = [] then C else own
    let late := E.filter (fun c => decide (c.2.slack = 0))
    if late ≠ [] then leastBy (fun _ => 0) 5 last late else leastBy (·.slack) 5 last E

/-- Stages of the tree over n inputs. -/
def treeStages (n : Nat) : Nat := if n ≤ 5 then 1 else if n ≤ 25 then 2 else 3

/-- What arbiter j of stage t chooses: the input and its head. DESIGN CHOICE (log 49): one that has served no input yet behaves as if
input 4 had been served last, so that input 0 comes first in rotation. -/
def Arb.pick (a : Arb) (o : Option Nat) (t j : Nat) : Option (Nat × Packet) :=
  choose o (Map.getD a.last (nodeKey t j) 4) (candidates 0 (Map.getD a.nodes (nodeKey t j) []))

/-- The head of a queue leaves, and the next packet becomes a candidate now. -/
def popQueue (now : Nat) : List Packet → List Packet
  | [] => []
  | [_] => []
  | _ :: p :: ps => { p with age := now } :: ps

/-- The head of input i leaves arbiter j of stage t. -/
def Arb.take (a : Arb) (now t j i : Nat) : Arb :=
  { a with
    nodes := Map.set a.nodes (nodeKey t j) ((Map.getD a.nodes (nodeKey t j) []).modify i (popQueue now))
    last := Map.set a.last (nodeKey t j) i }

/-- An arbiter whose output, an input of the next stage, is free forwards its choice there, where it becomes a candidate now (R140, R141). -/
def Arb.pass (a : Arb) (o : Option Nat) (now t j : Nat) : Arb :=
  if ((Map.getD a.nodes (nodeKey (t + 1) (j / 5)) []).getD (j % 5) []).isEmpty then
    match a.pick o t j with
    | some (i, p) => (a.take now t j i).push (t + 1) j { p with age := now, carried := false }
    | none => a
  else a

/-- The arbiters of the stages below stage n forward, the later stages first. -/
def Arb.passAll (a : Arb) (o : Option Nat) (now last : Nat) : Nat → Arb
  | 0 => a
  | n + 1 => ((List.range (5 ^ (last - n))).foldl (fun b j => b.pass o now n j) a).passAll o now last n

/-- Each arbiter of a switch forwards at most one packet: the last stage's leaves the switch. -/
def Arb.forward (a : Arb) (o : Option Nat) (now : Nat) : Option Packet × Arb :=
  let last := treeStages a.size - 1
  match a.pick o last 0 with
  | some (i, p) => (some p, (a.take now last 0 i).passAll o now last last)
  | none => (none, a.passAll o now last last)

/-- Owner class of the current span (Table 5.3). -/
def State.owner (s : State) : Option Nat :=
  let e := s.spanTab.toList.getD s.span ⟨true, 0⟩
  if e.isOpen then none else some e.cls

/-- Core next to a router on its output (R6). -/
def neighbour (core out : Nat) : Nat :=
  match out with
  | 0 => core - 1
  | 1 => core + 1
  | 2 => core - 32
  | _ => core + 32

/-- A late reply is counted in its partition's telemetry (Table 22.4). -/
def State.countLate (s : State) (pid : Nat) : State :=
  s.setPart pid { s.part pid with late := (s.part pid).late + 1 }

/-- A late packet is counted in the telemetry of its partition: a prefetch carries the partition, a collective's access its collective,
another packet its strand. -/
def State.countPacket (s : State) (p : Packet) : State :=
  if p.slack ≠ 0 then s
  else if p.strand = 8 then s.countLate p.uid
  else if p.strand = 9 then (match Map.get? s.colls p.uid with | some c => s.countLate c.pid | none => s)
  else
    match ownerOf s.parts p.core p.strand with
    | some pid => s.countLate pid
    | none => s

/-- A reply has come back to its core (R139); a prefetch and a collective have no EXS. Log 72. -/
def State.backAt (s : State) (p : Packet) : State :=
  let late := decide (p.slack = 0)
  let s1 := if p.strand = 8 ∨ p.strand = 9 then s.countPacket p else s
  { s1 with agenda := s1.agenda ++ [.replyDelivery p.core p.strand late (decide (p.kind = .data))] }

/-- A message has reached its place; the contribution of a collective leaves its slack there (R138). -/
def State.messageAt (s : State) (p : Packet) : State :=
  let s1 := s.countPacket p
  match Map.get? s1.colls p.uid with
  | some c => { s1 with colls := Map.set s1.colls p.uid { c with slack := Nat.min c.slack p.slack } }
  | none => s1

/-- A slice answers a request: an acknowledgement, or its data in packets of at most 8 beats of 64 bytes, with the slack that the
request has left (R133, R138). -/
def replies (p : Packet) : List Packet :=
  match p.kind with
  | .ack => [p]
  | .msg => []
  | .data => (List.range (Nat.max 1 ((p.bytes + 511) / 512))).map (fun i => { p with bytes := Nat.min 512 (p.bytes - 512 * i) })

/-- A request enters a queue of its slice: of its class, from the router (0) or from the core's copy engine (1). -/
def State.atSlice (s : State) (core from_ : Nat) (p : Packet) : State :=
  match p.kind with
  | .msg => s.messageAt p
  | .data => s.enter (sliceKey core p.slice) (2 * p.cls + from_) p
  | .ack => s.enter (sliceKey core p.slice) (2 * p.cls + from_) p

/-- Where a forwarded packet goes: along the mesh, to the slice, through its service, to the reply bus, back, and to its strand. The
copy engine reaches its own core's lane memory and vault without a router (R133, R134, R140). DESIGN CHOICE (log 75): service at a slice
takes no time, so that it costs no slack; the spec does not say how long it takes (R137). -/
def State.route (s : State) (key : Nat) (p : Packet) : State :=
  let core := key / 64
  let k := key % 64
  if k < 4 then s.enter (reqKey (neighbour core k) (reqOut (neighbour core k) p.target p.slice)) (1 + k) p
  else if k < 16 then s.atSlice core 0 p
  else if k < 24 then (replies p).foldl (fun s q => s.enter (busKey core) (k - 16) q) s
  else if k = 24 then s.enter (replyKey core (replyOut core p.core)) 0 p
  else if k < 36 then s.enter (replyKey (neighbour core (k - 32)) (replyOut (neighbour core (k - 32)) p.core)) (1 + (k - 32)) p
  else if k = 36 then s.backAt p
  else if p.target = core ∧ p.slice < 2 then s.atSlice core 1 p
  else s.pushPacket p

/-- PACKET_FORWARD at a switch. -/
def execPacketForward (arb : Nat) (s : State) : Out :=
  match Map.get? s.arbs arb with
  | none => .next s
  | some a =>
    let r := a.forward s.owner s.now
    let s1 := { s with arbs := Map.set s.arbs arb r.2 }
    .next (match r.1 with
      | some p => s1.route arb p
      | none => s1)

/-! ## Replies (R139) -/

/-- A late reply of a strand's own access counts in its EXS, and in telemetry. An instruction that consumes replies commits as the last
of them arrives: its strand issues nothing before (State.turns), so that SLACKEX is pending at its commit. -/
def State.lateReply (s : State) (core strand : Nat) : State :=
  let s1 := s.setStrand core strand ((s.strand core strand).addLate 1)
  match ownerOf s.parts core strand with
  | some pid => s1.countLate pid
  | none => s1

/-- Data have arrived for a strand: what it waited for them does not count as time that it was ready (R29). With the last of them its load has
committed. -/
def State.dataBack (s : State) (core strand : Nat) : State :=
  let x := s.strand core strand
  let s1 := s.setStrand core strand { x with readyAt := s.now }
  if s1.awaitsData x then s1 else { s1 with flights := Map.erase s1.flights (skey core strand) }

/-- REPLY_DELIVERY. Strand 8 stands for the advice sequencer, 9 for the collector, 16 + tid for a transfer, whose late replies count at its
completion. -/
def execReplyDelivery (core strand : Nat) (late consumed : Bool) (s : State) : Out :=
  if strand < 8 then
    let s1 := if consumed then s.dataBack core strand else s
    .next (if late then s1.lateReply core strand else s1)
  else if late = false then .next s
  else
    match Map.get? s.xfers (strand - 16) with
    | none => .next s
    | some t =>
      if strand < 16 then .next s
      else .next ({ s with xfers := Map.set s.xfers (strand - 16) { t with late := t.late + 1 } }.countLate t.pid)

/-! ## Spans (R143–R145) -/

/-- The heads of the owner's class become carried. -/
def carryHead (cls : Nat) : List Packet → List Packet
  | [] => []
  | p :: ps => (if p.cls = cls then { p with carried := true } else p) :: ps

/-- SPAN_BOUNDARY: the next span by the time base. -/
def execSpanBoundary (s : State) : Out :=
  if s.now % 256 = 0 then
    let arbs := match s.owner with
      | none => s.arbs
      | some k => s.arbs.map (fun c => (c.1, c.2.mapQueues (carryHead k)))
    .next { s with arbs := arbs, span := s.now / 256 % 32 }
  else .next s

/-- SPAN_TABLE_SWITCH: at the boundary of the frame that was announced, or a later one. -/
def execSpanTableSwitch (s : State) : Out :=
  match s.nextTab with
  | some (frame, t) => .next (if s.now % 8192 = 0 ∧ frame ≤ s.now / 8192 then { s with spanTab := t, nextTab := none } else s)
  | none => .next s

/-! ## The store buffer (R129, R130, R181) -/

/-- Two stores write a common byte. -/
def PStore.overlaps (p q : PStore) : Bool := p.bytes.any (fun c => q.bytes.any (fun d => d.1 == c.1))

/-- STORE_PERFORM: one buffered store is performed; an older store to the same byte goes first (R116). Log 27. -/
def execStorePerform (core strand idx : Nat) (s : State) : Out :=
  let x := s.strand core strand
  match x.stores[idx]? with
  | none => .next s
  | some p =>
    if (x.stores.take idx).any p.overlaps then .next s
    else .next ((s.perform p).setStrand core strand { x with stores := x.stores.eraseIdx idx })

end Sys2Proof.Machine
end

