-- ==== Sys2Proof/WellFormed.lean ====
section
/-!
DEFINITION. Well-formed instructions: those the encoding admits (R164 check 4; the limits themselves stand in
Machine/Limits.lean). Nothing here depends on the state.
-/
namespace Sys2Proof

/-- The instruction's fields hold only values its reference entry admits. -/
def Instr.wf (i : Instr) : Bool := i.fieldsOk

end Sys2Proof
end

