-- ==== Sys2Proof/Decode.lean ====
section
/-!
DEFINITION. From code words, pair halves and advice words to instructions (R148–R164, R349) and back. A word is cut into its
fields (Table 6.2, Table 6.5, R349); build reads the instruction the fields name; it is accepted when it is well formed and
its own encoding gives back exactly those fields, so that a nonzero unused field is refused (R151, R156, R167).
-/
namespace Sys2Proof
open Machine

/-- Packs (width, value) fields, least significant first. -/
def packL : List (Nat × Nat) → Nat
  | [] => 0
  | (w, v) :: r => v % 2 ^ w + 2 ^ w * packL r

/-- Cuts a number into fields of these widths, least significant first. -/
def unpackL : List Nat → Nat → List Nat
  | [], _ => []
  | w :: ws, n => n % 2 ^ w :: unpackL ws (n / 2 ^ w)

/-- The fields of a full word or extended head (Table 6.2). -/
structure Fields where
  op : Nat
  d : Nat
  a : Nat
  b : Nat
  p : Nat
  ca : Nat
  cb : Nat
  sl : Nat
  fn : Nat
deriving DecidableEq, Repr

/-- An instruction's encoding, by fields: a full word; an extended head and its payload; a half (Table 6.5); an advice word
(R349); or no word of its own (an event or a command). -/
inductive Enc
  | full (f : Fields)
  | ext (f : Fields) (payload : Nat)
  | half (hop d a imm : Nat)
  | advice (aop d s imm : Nat)
  | event
deriving DecidableEq, Repr

def Fields.pack (kind : Nat) (f : Fields) : Nat :=
  packL [(22, f.fn), (3, f.sl), (1, f.cb), (1, f.ca), (4, f.p), (7, f.b), (7, f.a), (7, f.d), (10, f.op), (2, kind)]

def Fields.unpack (w : Nat) : Fields :=
  ⟨bits w 61 52, bits w 51 45, bits w 44 38, bits w 37 31, bits w 30 27, bits w 26 26, bits w 25 25, bits w 24 22, bits w 21 0⟩

/-! ## Encoding -/

def F0 (op : Nat) : Fields := ⟨op, 0, 0, 0, 0, 0, 0, 0, 0⟩

/-- Register specifiers (Table 6.3). -/
def vSpec (v : VNum) : Nat := 64 + v.val
def mSpec (m : MReg) : Nat := 96 + m.val
def accSpec (t : Acc) : Nat := 112 + t.val
def bSpec : BSrc → Nat
  | .s r => r.val
  | .v r => vSpec r

def nbrCode : Nbr → Nat
  | .plain => 0
  | .left => 1
  | .right => 2

def encRRR (op : Nat) (d a b : SReg) : Enc := .full { F0 op with d := d.val, a := a.val, b := b.val }
def encRR (op : Nat) (d a : SReg) (fn : Nat) : Enc := .full { F0 op with d := d.val, a := a.val, fn := fn }
/-- The immediate form (R153). -/
def encImm (op d a : Nat) (imm : BitVec 29) : Enc :=
  .full { F0 op with d := d, a := a, b := imm.toNat / 2 ^ 22, fn := imm.toNat % 2 ^ 22 }
def encFp (op : Nat) (d a b : SReg) (rnd fmt : Fin 8) : Enc :=
  .full { F0 op with d := d.val, a := a.val, b := b.val, fn := packL [(3, fmt.val), (3, rnd.val)] }

/-- A word with a network effect: slack class in the full word, SLIT and XOP in the continuation (R155, R156). -/
def encNet (slk : Slack) (f : Fields) (fnFull fnExt xop : Nat) : Enc :=
  match slk with
  | .cls n => .full { f with sl := n.val, fn := fnFull }
  | .lit u => .ext { f with fn := fnExt } (packL [(50, xop), (12, u.toNat)])

def encMem (op : Nat) (m : MemOp) : Enc :=
  let fn (disp : Nat) := packL [(13, disp), (1, b2n m.x), (2, m.w.val), (3, m.scope.val), (1, b2n m.loc), (2, m.sp.val)]
  encNet m.slk { F0 op with d := m.d.val, a := m.a.val, b := m.b.val } (fn m.disp.toNat) (fn 0) m.disp.toNat

def encAtom (op : Nat) (o : AtomOp) : Enc :=
  let fn := packL [(8, 0), (4, o.aop.val), (2, o.ord.val), (2, o.w.val), (3, o.scope.val), (1, b2n o.loc), (2, o.sp.val)]
  encNet o.slk { F0 op with d := o.d.val, a := o.a.val, b := o.b.val } fn fn o.disp.toNat

/-- Table 8.1; d is the specifier of the destination. -/
def encV {D : Type} (op d : Nat) (o : VOpG D) : Enc :=
  .full { op := op, d := d, a := vSpec o.a, b := bSpec o.b, p := o.p.val, ca := b2n o.ca, cb := b2n o.cb, sl := 0,
          fn := packL [(7, o.xf.val), (2, nbrCode o.nb), (2, nbrCode o.na), (3, o.rnd.val), (2, o.ar.val), (6, o.fmt.val)] }

def vmemFields (op : Nat) (o : VMem) : Fields :=
  { F0 op with d := vSpec o.d, a := o.a.val, b := bSpec o.b, p := o.p.val, cb := b2n o.cb }

/-- Table 8.5; low is FN[6:0]. -/
def vmemFn (o : VMem) (low : Nat) : Nat :=
  packL [(7, low), (1, b2n o.acq), (2, o.ar.val), (6, o.fmt.val), (3, o.scope.val), (1, b2n o.loc), (2, o.sp.val)]

def encVMem (op : Nat) (o : VMem) : Enc :=
  encNet o.slk (vmemFields op o) (vmemFn o o.disp.toNat) (vmemFn o 0) o.disp.toNat
/-- The rows of Table 8.5 that have no DISP7. -/
def encVMemX (op : Nat) (o : VMem) (low : Nat) : Enc :=
  encNet o.slk (vmemFields op o) (vmemFn o low) (vmemFn o low) o.disp.toNat

def encMop (op mk : Nat) (o : MopOp) : Enc :=
  .full { F0 op with d := accSpec o.acc, a := vSpec o.a, b := vSpec o.b, ca := b2n o.ca, cb := b2n o.cb,
                     fn := packL [(4, 0), (4, mk), (2, o.ar.val), (6, o.fmtb.val), (6, o.fmta.val)] }

def encMld (op : Nat) (o : MldOp) : Enc :=
  let fn := packL [(10, 0), (1, b2n o.loc), (1, b2n o.dir), (2, o.alg.val), (2, o.ar.val), (6, o.fmt.val)]
  encNet o.slk { F0 op with d := vSpec o.d, a := o.a.val, b := o.b.val } fn fn 0

/-- Table 10.2. -/
def xferFn (x : XferOp) (ordered : Bool) (slot : Nat) : Nat :=
  packL [(3, slot), (1, b2n ordered), (5, 0), (1, b2n x.bloc), (6, x.breg.val), (1, b2n x.dloc), (2, x.dsp.val), (1, b2n x.sloc),
         (2, x.ssp.val)]
def xferPayload (x : XferOp) : Nat :=
  packL [(4, x.cm.val), (1, b2n x.be), (1, b2n x.te), (6, x.tag.val), (16, x.nrowM1.toNat), (22, x.rlenM1.toNat), (12, x.slit.toNat)]

def encBar (op d a b : Nat) (loc : Bool) (scope sl : Nat) : Enc :=
  .full { F0 op with d := d, a := a, b := b, sl := sl, fn := packL [(16, 0), (3, scope), (1, b2n loc)] }

/-- Register and immediate halves (R158, R159). -/
def encHR (hop : Nat) (d a : HalfReg) : Enc := .half hop d.val a.val 0
def encHI (hop : Nat) (d a : HalfReg) (imm : BitVec 14) : Enc := .half hop d.val a.val imm.toNat
def encHF (hop : Nat) (d a : HalfReg) (b : Nat) (rnd fmt : Fin 8) : Enc :=
  .half hop d.val a.val (packL [(3, fmt.val), (3, 0), (3, rnd.val), (5, b)])
def encHV (hop : Nat) (d a : HalfReg) (b : Nat) (fmt : Fin 64) (rnd : Fin 8) : Enc :=
  .half hop d.val a.val (packL [(3, rnd.val), (6, fmt.val), (5, b)])

/-- The encoding of an instruction (Tables 6.6, 6.7, 15.1 and the FN tables of chapters 07–10). DESIGN CHOICE (log 75): A of VMOVV and of
VPERM counts as read element by element, so that CA may be 1 there (R152), and A of VTAG and VMOVS does not; the spec does not say. -/
def encode : Instr → Enc
  | .add d a b => encRRR 0x001 d a b
  | .sub d a b => encRRR 0x002 d a b
  | .mul d a b => encRRR 0x003 d a b
  | .mulh d a b => encRRR 0x004 d a b
  | .mulhn d a b => encRRR 0x005 d a b
  | .div d a b => encRRR 0x006 d a b
  | .divn d a b => encRRR 0x007 d a b
  | .rem d a b => encRRR 0x008 d a b
  | .remn d a b => encRRR 0x009 d a b
  | .and d a b => encRRR 0x00a d a b
  | .or d a b => encRRR 0x00b d a b
  | .xor d a b => encRRR 0x00c d a b
  | .andn d a b => encRRR 0x00d d a b
  | .orn d a b => encRRR 0x00e d a b
  | .shl d a b => encRRR 0x00f d a b
  | .shr d a b => encRRR 0x010 d a b
  | .sra d a b => encRRR 0x011 d a b
  | .rol d a b => encRRR 0x012 d a b
  | .min d a b => encRRR 0x013 d a b
  | .max d a b => encRRR 0x014 d a b
  | .minn d a b => encRRR 0x015 d a b
  | .maxn d a b => encRRR 0x016 d a b
  | .seq d a b => encRRR 0x017 d a b
  | .sne d a b => encRRR 0x018 d a b
  | .slt d a b => encRRR 0x019 d a b
  | .sltn d a b => encRRR 0x01a d a b
  | .sge d a b => encRRR 0x01b d a b
  | .sgen d a b => encRRR 0x01c d a b
  | .csel d a b => encRRR 0x01d d a b
  | .lea d a b sh disp => .full { F0 0x01E with d := d.val, a := a.val, b := b.val, fn := packL [(4, sh.val), (18, disp.toNat)] }
  | .clz d a => encRR 0x020 d a 0
  | .ctz d a => encRR 0x021 d a 0
  | .popc d a => encRR 0x022 d a 0
  | .brev d a => encRR 0x023 d a 0
  | .bfx d a s pos len => encRR 0x024 d a (packL [(6, len.val), (6, pos.val), (1, b2n s)])
  | .bfi d a pos len => encRR 0x025 d a (packL [(6, len.val), (6, pos.val)])
  | .addi d a imm => encImm 0x040 d.val a.val imm
  | .shlImm d a imm => encImm 0x041 d.val a.val imm
  | .shrImm d a imm => encImm 0x042 d.val a.val imm
  | .sraImm d a imm => encImm 0x043 d.val a.val imm
  | .rolImm d a imm => encImm 0x044 d.val a.val imm
  | .li d imm => encImm 0x045 d.val 0 imm
  | .addpc d imm => encImm 0x046 d.val 0 imm
  | .lix d v => .ext { F0 0x047 with d := d.val, fn := v.toNat / 2 ^ 62 } (v.toNat % 2 ^ 62)
  | .fadd d a b r f => encFp 0x080 d a b r f
  | .fsub d a b r f => encFp 0x081 d a b r f
  | .fmul d a b r f => encFp 0x082 d a b r f
  | .ffma d a b r f => encFp 0x083 d a b r f
  | .fdiv d a b r f => encFp 0x084 d a b r f
  | .fsqrt d a r f => encFp 0x085 d a 0 r f
  | .fmin d a b f => encFp 0x086 d a b 0 f
  | .fmax d a b f => encFp 0x087 d a b 0 f
  | .fcmp d a b c f => .full { F0 0x088 with d := d.val, a := a.val, b := b.val, fn := packL [(3, f.val), (3, 0), (3, c.val)] }
  | .fcvt d a r s t => encRR 0x089 d a (packL [(6, t.val), (6, s.val), (3, r.val)])
  | .fclass d a f => encRR 0x08a d a f.val
  | .fmv d a f => encRR 0x08b d a f.val
  | .j off => encImm 0x0c0 0 0 off
  | .call d off => encImm 0x0c1 d.val 0 off
  | .jr a => encRR 0x0c2 0 a 0
  | .callr d a => encRR 0x0c3 d a 0
  | .ret a => encRR 0x0c4 0 a 0
  | .beq d a off => encImm 0x0c8 d.val a.val off
  | .bne d a off => encImm 0x0c9 d.val a.val off
  | .blt d a off => encImm 0x0ca d.val a.val off
  | .bge d a off => encImm 0x0cb d.val a.val off
  | .bltn d a off => encImm 0x0cc d.val a.val off
  | .bgen d a off => encImm 0x0cd d.val a.val off
  | .nop => .full (F0 0x0d0)
  | .yield => .full (F0 0x0d1)
  | .exit => .full (F0 0x0d2)
  | .ld m => encMem 0x100 m
  | .st m => encMem 0x101 m
  | .lda m => encMem 0x102 m
  | .stl m => encMem 0x103 m
  | .amo o => encAtom 0x110 o
  | .amox o => encAtom 0x111 o
  | .cas o => encAtom 0x112 o
  | .fence k s => .full { F0 0x120 with fn := packL [(3, k.val), (3, s.val)] }
  | .bar s sl => .full { F0 0x121 with sl := sl.val, fn := packL [(3, 0), (3, s.val)] }
  | .wait o => .full { F0 0x122 with d := o.d.val, a := o.a.val, b := o.b.val, sl := o.sl.val, fn := packL [(11, 0), (3, o.cond.val), (2, o.w.val), (3, o.scope.val), (1, b2n o.loc), (2, o.sp.val)] }
  | .mark id a b => .full { F0 0x123 with a := a.val, b := b.val, fn := id.toNat }
  | .slk d a c set clr => encRR 0x124 d a (packL [(3, c.val), (1, b2n set), (1, b2n clr)])
  | .mfs d c => encRR 0x140 d 0 c.toNat
  | .mts a c => encRR 0x141 0 a c.toNat
  | .svc c => .full { F0 0x142 with fn := c.toNat }
  | .eret => .full (F0 0x143)
  | .brk c => .full { F0 0x144 with fn := c.toNat }
  | .featq d l => encRR 0x145 d 0 l.val
  | .tlbi a b k s => .full { F0 0x146 with a := a.val, b := b.val, fn := packL [(3, k.val), (3, s.val)] }
  | .ctxsave d a b sl => .full { F0 0x147 with d := d.val, a := a.val, b := b.val, sl := sl.val }
  | .ctxload d a b sl => .full { F0 0x148 with d := d.val, a := a.val, b := b.val, sl := sl.val }
  | .evack c => .full { F0 0x149 with fn := c.toNat }
  | .halt => .full (F0 0x14a)
  | .vsetl d a ew ar => encRR 0x200 d a (packL [(3, ew.val), (2, ar.val)])
  | .vsetg g => .full { F0 0x201 with fn := g.val }
  | .vtag d a fm ar alg => .full { F0 0x202 with d := vSpec d, a := vSpec a, fn := packL [(12, 0), (2, alg.val), (2, ar.val), (6, fm.val)] }
  | .vidx d a b p fm => .full { F0 0x203 with d := vSpec d, a := a.val, b := b.val, p := p.val, fn := packL [(16, 0), (6, fm.val)] }
  | .vbc d a p fm ar => .full { F0 0x204 with d := vSpec d, a := a.val, p := p.val, fn := packL [(14, 0), (2, ar.val), (6, fm.val)] }
  | .vmovs d a b fm ar => .full { F0 0x205 with d := d.val, a := vSpec a, b := b.val, fn := packL [(14, 0), (2, ar.val), (6, fm.val)] }
  | .vmovv d a p ca fm ar => .full { F0 0x206 with d := vSpec d, a := vSpec a, p := p.val, ca := b2n ca, fn := packL [(14, 0), (2, ar.val), (6, fm.val)] }
  | .vadd o => encV 0x210 (vSpec o.d) o
  | .vsub o => encV 0x211 (vSpec o.d) o
  | .vmul o => encV 0x212 (vSpec o.d) o
  | .vmulh o => encV 0x213 (vSpec o.d) o
  | .vfma o => encV 0x214 (vSpec o.d) o
  | .vfms o => encV 0x215 (vSpec o.d) o
  | .vdiv o => encV 0x216 (vSpec o.d) o
  | .vsqrt o => encV 0x217 (vSpec o.d) o
  | .vrsq o => encV 0x218 (vSpec o.d) o
  | .vrcp o => encV 0x219 (vSpec o.d) o
  | .vexp2 o => encV 0x21a (vSpec o.d) o
  | .vlog2 o => encV 0x21b (vSpec o.d) o
  | .vmin o => encV 0x220 (vSpec o.d) o
  | .vmax o => encV 0x221 (vSpec o.d) o
  | .vabs o => encV 0x222 (vSpec o.d) o
  | .vneg o => encV 0x223 (vSpec o.d) o
  | .vand o => encV 0x224 (vSpec o.d) o
  | .vor o => encV 0x225 (vSpec o.d) o
  | .vxor o => encV 0x226 (vSpec o.d) o
  | .vshl o => encV 0x227 (vSpec o.d) o
  | .vshr o => encV 0x228 (vSpec o.d) o
  | .vsra o => encV 0x229 (vSpec o.d) o
  | .vclz o => encV 0x22a (vSpec o.d) o
  | .vpopc o => encV 0x22b (vSpec o.d) o
  | .vmwide o => encV 0x230 (vSpec o.d) o
  | .vdot o => encV 0x231 (vSpec o.d) o
  | .vcmp o => encV 0x232 (mSpec o.d) o
  | .vsel o => encV 0x233 (vSpec o.d) o
  | .vred o => encV 0x240 o.d.val o
  | .vscan o => encV 0x241 (vSpec o.d) o
  | .vrecur o => encV 0x242 (vSpec o.d) o
  | .vslide o => encV 0x243 (vSpec o.d) o
  | .vperm o => encV 0x244 (vSpec o.d) o
  | .vcompr o => encV 0x245 (vSpec o.d) o
  | .vexpd o => encV 0x246 (vSpec o.d) o
  | .vcvt o => encV 0x250 (vSpec o.d) o
  | .vcvts o => encV 0x251 (vSpec o.d) o
  | .vrng d p fm => .full { F0 0x252 with d := vSpec d, p := p.val, fn := packL [(16, 0), (6, fm.val)] }
  | .vclass d a p ca fm set => .full { F0 0x253 with d := mSpec d, a := vSpec a, p := p.val, ca := b2n ca, fn := packL [(4, 0), (10, set.toNat), (2, 0), (6, fm.val)] }
  | .vamul o => encV 0x260 (vSpec o.d) o
  | .vconj o => encV 0x261 (vSpec o.d) o
  | .vnorm o => encV 0x262 (vSpec o.d) o
  | .varev o => encV 0x263 (vSpec o.d) o
  | .mand d a b => .full { F0 0x300 with d := mSpec d, a := mSpec a, b := mSpec b }
  | .mor d a b => .full { F0 0x301 with d := mSpec d, a := mSpec a, b := mSpec b }
  | .mxor d a b => .full { F0 0x302 with d := mSpec d, a := mSpec a, b := mSpec b }
  | .mandn d a b => .full { F0 0x303 with d := mSpec d, a := mSpec a, b := mSpec b }
  | .mnot d a => .full { F0 0x304 with d := mSpec d, a := mSpec a }
  | .mset d => .full { F0 0x305 with d := mSpec d }
  | .mclr d => .full { F0 0x306 with d := mSpec d }
  | .mpop d a => .full { F0 0x307 with d := d.val, a := mSpec a }
  | .mffs d a => .full { F0 0x308 with d := d.val, a := mSpec a }
  | .mpsum d a fm => .full { F0 0x309 with d := vSpec d, a := mSpec a, fn := packL [(16, 0), (6, fm.val)] }
  | .mmv op d a => .full { F0 0x30a with d := if op.val = 2 then 0 else mSpec d, a := if op.val = 1 then 0 else mSpec a, fn := op.val }
  | .vld o => encVMem 0x320 o
  | .vlds o => encVMem 0x321 o
  | .vldx o => encVMem 0x322 o
  | .vst o => encVMem 0x328 o
  | .vsts o => encVMem 0x329 o
  | .vstx o => encVMem 0x32a o
  | .vlda o => encVMem 0x33a o
  | .vstl o => encVMem 0x33b o
  | .vldxf o fm => encVMemX 0x323 o (packL [(3, 0), (4, fm.val)])
  | .vscadd o r => encVMemX 0x32b o (packL [(4, 0), (3, r.val)])
  | .vspill o => encVMemX 0x330 o 0
  | .vfill o => encVMemX 0x331 o 0
  | .vbind o => .ext { F0 0x338 with d := vSpec o.d, a := o.a.val, b := o.b.val, fn := packL [(8, 0), (2, o.ar.val), (6, o.fmt.val), (2, 0), (1, b2n o.dir), (1, b2n o.loc), (2, o.sp.val)] } (packL [(36, o.count.toNat), (12, o.clenM1.toNat), (2, 0), (12, o.slit.toNat)])
  | .vunbind d => .full { F0 0x339 with d := vSpec d }
  | .mmodeEnter t x => .full { F0 0x380 with fn := packL [(2, 0), (2, t.val), (2, x.val)] }
  | .mmodeLeave => .full { F0 0x380 with fn := 1 }
  | .tshape d a b fm ar => .full { F0 0x381 with d := d.val, a := a.val, b := b.val, fn := packL [(14, 0), (2, ar.val), (6, fm.val)] }
  | .mzero t => .full { F0 0x382 with d := accSpec t }
  | .mop o => encMop 0x383 0 o
  | .mops o mk => encMop 0x384 mk.val o
  | .mld o => encMld 0x385 o
  | .mldp o => encMld 0x386 o
  | .mdrain o => .full { F0 0x387 with d := vSpec o.d, a := accSpec o.acc, b := o.b.val, fn := packL [(2, o.alg.val), (2, o.ar.val), (3, o.rnd.val), (5, o.fb.val), (5, o.fa.val), (5, o.t.val)] }
  | .mfill o => .full { F0 0x388 with d := accSpec o.acc, a := vSpec o.a, b := o.b.val, ca := b2n o.ca, fn := packL [(2, 0), (2, o.ar.val), (13, 0), (5, o.src.val)] }
  | .mstat d t clr => .full { F0 0x389 with d := d.val, a := accSpec t, fn := b2n clr }
  | .mscl t a => .full { F0 0x38a with d := accSpec t, a := a.val }
  | .algld o => encNet o.slk { F0 0x38b with a := o.a.val } (packL [(2, o.n.val), (17, 0), (1, b2n o.loc), (2, o.sp.val)]) (packL [(2, o.n.val), (17, 0), (1, b2n o.loc), (2, o.sp.val)]) o.disp.toNat
  | .copy d a b t => .ext { F0 0x3c0 with d := d.val, a := a.val, b := b.val, fn := xferFn t false 0 } (xferPayload t)
  | .seqLevelWrite a b l s c => .ext { F0 0x3c1 with a := a.val, b := b.val, fn := packL [(3, l.val), (3, s.val)] } c.toNat
  | .seqgo d a b s (.full sl) => .full { F0 0x3c2 with d := d.val, a := a.val, b := b.val, sl := sl.val, fn := s.val }
  | .seqgo d a b s (.ext o t) => .ext { F0 0x3c2 with d := d.val, a := a.val, b := b.val, fn := xferFn t o s.val } (xferPayload t)
  | .seqstop s => .full { F0 0x3c3 with fn := s.val }
  | .ctwall a => encRR 0x3c8 0 a 0
  | .ctwany d a => encRR 0x3c9 d a 0
  | .ctffr d a => encRR 0x3ca d a 0
  | .ctclr a => encRR 0x3cb 0 a 0
  | .ctst d a => encRR 0x3cc d a 0
  | .binit a b loc sl => encBar 0x3d0 0 a.val b.val loc 0 sl.val
  | .barr d a b loc sl => encBar 0x3d1 d.val a.val b.val loc 0 sl.val
  | .bwait d a b loc sc sl => encBar 0x3d2 d.val a.val b.val loc sc.val sl.val
  | .btry d a b loc sl => encBar 0x3d3 d.val a.val b.val loc 0 sl.val
  | .mcastSend o => 
    let fn := packL [(1, 0), (7, 0), (2, o.ar.val), (6, o.fmt.val), (3, 0), (1, b2n o.loc), (2, o.sp.val)]
    encNet o.slk { F0 0x3d8 with d := vSpec o.d, a := o.a.val, b := o.b.val } fn fn o.disp.toNat
  | .mcastRecv d fm ar => .full { F0 0x3d8 with d := vSpec d, fn := packL [(1, 1), (7, 0), (2, ar.val), (6, fm.val)] }
  | .coll o => 
    let fn := packL [(9, o.grp.toNat), (2, o.slot.val), (6, o.fmt.val), (3, o.rop.val), (2, o.kind.val)]
    encNet o.slk { F0 0x3d9 with d := o.d.val, a := o.a.val, b := o.b.val } fn fn o.count.toNat
  | .collw d a => encRR 0x3da d a 0
  | .dgst d s => encRR 0x3e0 d 0 s.val
  | .addHalf d a => encHR 0x01 d a
  | .subHalf d a => encHR 0x02 d a
  | .mulHalf d a => encHR 0x03 d a
  | .andHalf d a => encHR 0x04 d a
  | .orHalf d a => encHR 0x05 d a
  | .xorHalf d a => encHR 0x06 d a
  | .andnHalf d a => encHR 0x07 d a
  | .shlHalf d a => encHR 0x08 d a
  | .shrHalf d a => encHR 0x09 d a
  | .sraHalf d a => encHR 0x0a d a
  | .minHalf d a => encHR 0x0b d a
  | .maxHalf d a => encHR 0x0c d a
  | .minnHalf d a => encHR 0x0d d a
  | .maxnHalf d a => encHR 0x0e d a
  | .cselHalf d a b => .half 0x0f d.val a.val (packL [(9, 0), (5, b.val)])
  | .addiHalf d a imm => encHI 0x10 d a imm
  | .shlImmHalf d a imm => encHI 0x11 d a imm
  | .shrImmHalf d a imm => encHI 0x12 d a imm
  | .sraImmHalf d a imm => encHI 0x13 d a imm
  | .liHalf d imm => encHI 0x14 d 0 imm
  | .faddHalf d a r f => encHF 0x18 d a 0 r f
  | .fsubHalf d a r f => encHF 0x19 d a 0 r f
  | .fmulHalf d a r f => encHF 0x1a d a 0 r f
  | .ffmaHalf d a b r f => encHF 0x1b d a b.val r f
  | .fminHalf d a r f => encHF 0x1c d a 0 r f
  | .fmaxHalf d a r f => encHF 0x1d d a 0 r f
  | .ldBzHalf d a imm => encHI 0x20 d a imm
  | .ldHzHalf d a imm => encHI 0x21 d a imm
  | .ldWzHalf d a imm => encHI 0x22 d a imm
  | .ldDHalf d a imm => encHI 0x23 d a imm
  | .ldBsHalf d a imm => encHI 0x24 d a imm
  | .ldHsHalf d a imm => encHI 0x25 d a imm
  | .ldWsHalf d a imm => encHI 0x26 d a imm
  | .stBHalf d a imm => encHI 0x28 d a imm
  | .stHHalf d a imm => encHI 0x29 d a imm
  | .stWHalf d a imm => encHI 0x2a d a imm
  | .stDHalf d a imm => encHI 0x2b d a imm
  | .beqHalf d a imm => encHI 0x30 d a imm
  | .bneHalf d a imm => encHI 0x31 d a imm
  | .bltHalf d a imm => encHI 0x32 d a imm
  | .bgeHalf d a imm => encHI 0x33 d a imm
  | .bltnHalf d a imm => encHI 0x34 d a imm
  | .bgenHalf d a imm => encHI 0x35 d a imm
  | .jHalf imm => .half 0x36 0 0 imm.toNat
  | .nopHalf => .half 0x3f 0 0 0
  | .vaddHalf d a fm r => encHV 0x40 d a 0 fm r
  | .vsubHalf d a fm r => encHV 0x41 d a 0 fm r
  | .vmulHalf d a fm r => encHV 0x42 d a 0 fm r
  | .vfmaHalf d a b fm r => encHV 0x43 d a b.val fm r
  | .vminHalf d a fm r => encHV 0x44 d a 0 fm r
  | .vmaxHalf d a fm r => encHV 0x45 d a 0 fm r
  | .vandHalf d a fm r => encHV 0x46 d a 0 fm r
  | .vorHalf d a fm r => encHV 0x47 d a 0 fm r
  | .vxorHalf d a fm r => encHV 0x48 d a 0 fm r
  | .vshlHalf d a fm r => encHV 0x49 d a 0 fm r
  | .vshrHalf d a fm r => encHV 0x4a d a 0 fm r
  | .vsraHalf d a fm r => encHV 0x4b d a 0 fm r
  | .aend => .advice 0x00 0 0 0
  | .anop => .advice 0x01 0 0 0
  | .await d s id => .advice 0x02 d.val s.val id.toNat
  | .amark d f => .advice 0x03 d.val 0 f.val
  | .aaddi d s imm => .advice 0x04 d.val s.val imm.toNat
  | .aadd d s => .advice 0x05 d.val s.val 0
  | .aand d s => .advice 0x07 d.val s.val 0
  | .amul d s => .advice 0x08 d.val s.val 0
  | .ashl d s r n => .advice 0x06 d.val s.val (packL [(6, n.val), (1, b2n r)])
  | .apf d s sp loc => .advice 0x09 d.val s.val (packL [(15, 0), (1, b2n loc), (2, sp.val)])
  | .apin d s c => .advice 0x0a d.val s.val c.val
  | .aslk k b => .advice 0x0b 0 0 (packL [(10, b.toNat), (3, k.val)])
  | .aord k p => .advice 0x0c 0 0 (packL [(2, p.val), (8, 0), (3, k.val)])
  | .abr d s c off => .advice 0x0d d.val s.val (packL [(15, off.toNat), (3, c.val)])
  | .ajmp off => .advice 0x0e 0 0 off.toNat
  | .async k => .advice 0x0f 0 0 k.val
  | .barRelease .. | .waitReread .. | .tlbiPerformed .. | .haltWake .. | .matrixModeGrant .. | .sequencerCopyEmit ..
  | .tagWaitWake .. | .collectiveComplete .. | .eventTaken .. | .replyDelivery .. | .storePerform ..
  | .streamChunkFetch .. | .chunkWritten .. | .transferComplete .. | .prefetchComplete .. | .packetForward ..
  | .slackDecrement .. | .spanBoundary .. | .spanTableSwitch .. | .adviceIdleRecord .. | .awaitRecord ..
  | .nopCommand .. | .launch .. | .signal .. | .abort .. | .group .. | .commandWriteRefused .. | .queueConfigWrite ..
  | .dependenceMet .. | .commandStart .. | .rangeRequest .. | .groupAdmit .. | .launchRetire .. | .launchStop ..
  | .notificationSend .. | .timeSliceExpiry .. | .preemptionComplete .. | .restore .. | .contextEntryWrite ..
  | .dieFence .. | .thaSample .. | .blockRetirement .. | .partwrite .. | .partremove .. | .vfwrite .. | .ctxxlate ..
  | .s2inval .. | .keygen .. | .keyclear .. | .keywrap .. | .keyload .. | .measure .. | .attest .. | .telemetry ..
  | .fwupdate .. | .doorbellWhileBusy .. | .faultRingConsumerWrite .. | .managementWindowWrite .. | .coldReset ..
  | .warmReset .. | .packageStop .. | .s2invalComplete .. | .remoteAccessRequest .. | .yieldResume .. => .event

/-! ## Decoding -/

def fin (n : Nat) [NeZero n] (x : Nat) : Fin n := Fin.ofNat n x
def fld (v hi lo : Nat) : Nat := bits v hi lo
def bit (v i : Nat) : Bool := decide (v / 2 ^ i % 2 = 1)

def sR (n : Nat) : SReg := fin 64 n
def vR (n : Nat) : VNum := fin 32 (n - 64)
def mR (n : Nat) : MReg := fin 16 (n - 96)
def accR (n : Nat) : Acc := fin 2 (n - 112)
def bOf (n : Nat) : BSrc := if n < 64 then .s (sR n) else .v (vR n)
def nbrOf : Nat → Nbr
  | 0 => .plain
  | 1 => .left
  | _ => .right
def imm29 (f : Fields) : BitVec 29 := .ofNat 29 (f.fn + 2 ^ 22 * f.b)

/-- SL of a full word, SLIT of a continuation. -/
def slackOf (f : Fields) : Option Nat → Slack
  | none => .cls (fin 8 f.sl)
  | some x => .lit (.ofNat 12 (x / 2 ^ 50))

/-- The displacement: the low w bits of FN sign-extended, or XOP. -/
def dispOf (w : Nat) (f : Fields) : Option Nat → BitVec 50
  | none => (BitVec.ofNat w f.fn).signExtend 50
  | some x => .ofNat 50 x

def memOf (f : Fields) (x : Option Nat) : MemOp :=
  { d := sR f.d, a := sR f.a, b := sR f.b, sp := fin 4 (fld f.fn 21 20), loc := bit f.fn 19, scope := fin 8 (fld f.fn 18 16),
    w := fin 4 (fld f.fn 15 14), x := bit f.fn 13, disp := dispOf 13 f x, slk := slackOf f x }

def atomOf (f : Fields) (x : Option Nat) : AtomOp :=
  { d := sR f.d, a := sR f.a, b := sR f.b, sp := fin 4 (fld f.fn 21 20), loc := bit f.fn 19, scope := fin 8 (fld f.fn 18 16),
    w := fin 4 (fld f.fn 15 14), ord := fin 4 (fld f.fn 13 12), aop := fin 16 (fld f.fn 11 8), disp := dispOf 0 f x,
    slk := slackOf f x }

def vopOf {D : Type} (f : Fields) (d : D) : VOpG D :=
  { d := d, a := vR f.a, b := bOf f.b, p := fin 16 f.p, ca := bit f.ca 0, cb := bit f.cb 0, fmt := fin 64 (fld f.fn 21 16),
    ar := fin 4 (fld f.fn 15 14), rnd := fin 8 (fld f.fn 13 11), na := nbrOf (fld f.fn 10 9), nb := nbrOf (fld f.fn 8 7),
    xf := fin 128 (fld f.fn 6 0) }

def vmemOf (f : Fields) (x : Option Nat) (disp : BitVec 50) : VMem :=
  { d := vR f.d, a := sR f.a, b := bOf f.b, p := fin 16 f.p, cb := bit f.cb 0, sp := fin 4 (fld f.fn 21 20), loc := bit f.fn 19,
    scope := fin 8 (fld f.fn 18 16), fmt := fin 64 (fld f.fn 15 10), ar := fin 4 (fld f.fn 9 8), acq := bit f.fn 7, disp := disp,
    slk := slackOf f x }

def mopOf (f : Fields) : MopOp :=
  { acc := accR f.d, a := vR f.a, b := vR f.b, ca := bit f.ca 0, cb := bit f.cb 0, fmta := fin 64 (fld f.fn 21 16),
    fmtb := fin 64 (fld f.fn 15 10), ar := fin 4 (fld f.fn 9 8) }

def mldOf (f : Fields) (x : Option Nat) : MldOp :=
  { d := vR f.d, a := sR f.a, b := sR f.b, fmt := fin 64 (fld f.fn 21 16), ar := fin 4 (fld f.fn 15 14),
    alg := fin 4 (fld f.fn 13 12), dir := bit f.fn 11, loc := bit f.fn 10, slk := slackOf f x }

def xferOf (f : Fields) (x : Option Nat) : XferOp :=
  let y := x.getD 0
  { ssp := fin 4 (fld f.fn 21 20), sloc := bit f.fn 19, dsp := fin 4 (fld f.fn 18 17), dloc := bit f.fn 16,
    breg := fin 64 (fld f.fn 15 10), bloc := bit f.fn 9, rlenM1 := .ofNat 22 (fld y 49 28), nrowM1 := .ofNat 16 (fld y 27 12),
    tag := fin 64 (fld y 11 6), te := bit y 5, be := bit y 4, cm := fin 16 (fld y 3 0), slit := .ofNat 12 (fld y 61 50) }

/-- OP 0x001–0x047 of Table 6.6: the instruction the fields name; x is the payload of an extended pair. -/
def buildInt (f : Fields) (x : Option Nat) : Option Instr :=
  match f.op with
  | 0x001 => some (.add (sR f.d) (sR f.a) (sR f.b))
  | 0x002 => some (.sub (sR f.d) (sR f.a) (sR f.b))
  | 0x003 => some (.mul (sR f.d) (sR f.a) (sR f.b))
  | 0x004 => some (.mulh (sR f.d) (sR f.a) (sR f.b))
  | 0x005 => some (.mulhn (sR f.d) (sR f.a) (sR f.b))
  | 0x006 => some (.div (sR f.d) (sR f.a) (sR f.b))
  | 0x007 => some (.divn (sR f.d) (sR f.a) (sR f.b))
  | 0x008 => some (.rem (sR f.d) (sR f.a) (sR f.b))
  | 0x009 => some (.remn (sR f.d) (sR f.a) (sR f.b))
  | 0x00a => some (.and (sR f.d) (sR f.a) (sR f.b))
  | 0x00b => some (.or (sR f.d) (sR f.a) (sR f.b))
  | 0x00c => some (.xor (sR f.d) (sR f.a) (sR f.b))
  | 0x00d => some (.andn (sR f.d) (sR f.a) (sR f.b))
  | 0x00e => some (.orn (sR f.d) (sR f.a) (sR f.b))
  | 0x00f => some (.shl (sR f.d) (sR f.a) (sR f.b))
  | 0x010 => some (.shr (sR f.d) (sR f.a) (sR f.b))
  | 0x011 => some (.sra (sR f.d) (sR f.a) (sR f.b))
  | 0x012 => some (.rol (sR f.d) (sR f.a) (sR f.b))
  | 0x013 => some (.min (sR f.d) (sR f.a) (sR f.b))
  | 0x014 => some (.max (sR f.d) (sR f.a) (sR f.b))
  | 0x015 => some (.minn (sR f.d) (sR f.a) (sR f.b))
  | 0x016 => some (.maxn (sR f.d) (sR f.a) (sR f.b))
  | 0x017 => some (.seq (sR f.d) (sR f.a) (sR f.b))
  | 0x018 => some (.sne (sR f.d) (sR f.a) (sR f.b))
  | 0x019 => some (.slt (sR f.d) (sR f.a) (sR f.b))
  | 0x01a => some (.sltn (sR f.d) (sR f.a) (sR f.b))
  | 0x01b => some (.sge (sR f.d) (sR f.a) (sR f.b))
  | 0x01c => some (.sgen (sR f.d) (sR f.a) (sR f.b))
  | 0x01d => some (.csel (sR f.d) (sR f.a) (sR f.b))
  | 0x01e => some (.lea (sR f.d) (sR f.a) (sR f.b) (fin 16 (fld f.fn 3 0)) (.ofNat 18 (fld f.fn 21 4)))
  | 0x020 => some (.clz (sR f.d) (sR f.a))
  | 0x021 => some (.ctz (sR f.d) (sR f.a))
  | 0x022 => some (.popc (sR f.d) (sR f.a))
  | 0x023 => some (.brev (sR f.d) (sR f.a))
  | 0x024 => some (.bfx (sR f.d) (sR f.a) (bit f.fn 12) (fin 64 (fld f.fn 11 6)) (fin 64 (fld f.fn 5 0)))
  | 0x025 => some (.bfi (sR f.d) (sR f.a) (fin 64 (fld f.fn 11 6)) (fin 64 (fld f.fn 5 0)))
  | 0x040 => some (.addi (sR f.d) (sR f.a) (imm29 f))
  | 0x041 => some (.shlImm (sR f.d) (sR f.a) (imm29 f))
  | 0x042 => some (.shrImm (sR f.d) (sR f.a) (imm29 f))
  | 0x043 => some (.sraImm (sR f.d) (sR f.a) (imm29 f))
  | 0x044 => some (.rolImm (sR f.d) (sR f.a) (imm29 f))
  | 0x045 => some (.li (sR f.d) (imm29 f))
  | 0x046 => some (.addpc (sR f.d) (imm29 f))
  | 0x047 => some (.lix (sR f.d) (.ofNat 64 (x.getD 0 + 2 ^ 62 * f.fn)))
  | _ => none

/-- OP 0x080–0x08B of Table 6.6: the instruction the fields name; x is the payload of an extended pair. -/
def buildFp (f : Fields) (_x : Option Nat) : Option Instr :=
  match f.op with
  | 0x080 => some (.fadd (sR f.d) (sR f.a) (sR f.b) (fin 8 (fld f.fn 5 3)) (fin 8 (fld f.fn 2 0)))
  | 0x081 => some (.fsub (sR f.d) (sR f.a) (sR f.b) (fin 8 (fld f.fn 5 3)) (fin 8 (fld f.fn 2 0)))
  | 0x082 => some (.fmul (sR f.d) (sR f.a) (sR f.b) (fin 8 (fld f.fn 5 3)) (fin 8 (fld f.fn 2 0)))
  | 0x083 => some (.ffma (sR f.d) (sR f.a) (sR f.b) (fin 8 (fld f.fn 5 3)) (fin 8 (fld f.fn 2 0)))
  | 0x084 => some (.fdiv (sR f.d) (sR f.a) (sR f.b) (fin 8 (fld f.fn 5 3)) (fin 8 (fld f.fn 2 0)))
  | 0x085 => some (.fsqrt (sR f.d) (sR f.a) (fin 8 (fld f.fn 5 3)) (fin 8 (fld f.fn 2 0)))
  | 0x086 => some (.fmin (sR f.d) (sR f.a) (sR f.b) (fin 8 (fld f.fn 2 0)))
  | 0x087 => some (.fmax (sR f.d) (sR f.a) (sR f.b) (fin 8 (fld f.fn 2 0)))
  | 0x088 => some (.fcmp (sR f.d) (sR f.a) (sR f.b) (fin 8 (fld f.fn 8 6)) (fin 8 (fld f.fn 2 0)))
  | 0x089 => some (.fcvt (sR f.d) (sR f.a) (fin 8 (fld f.fn 14 12)) (fin 64 (fld f.fn 11 6)) (fin 64 (fld f.fn 5 0)))
  | 0x08a => some (.fclass (sR f.d) (sR f.a) (fin 8 (fld f.fn 2 0)))
  | 0x08b => some (.fmv (sR f.d) (sR f.a) (fin 8 (fld f.fn 2 0)))
  | _ => none

/-- OP 0x0C0–0x0D2 of Table 6.6: the instruction the fields name; x is the payload of an extended pair. -/
def buildCtl (f : Fields) (_x : Option Nat) : Option Instr :=
  match f.op with
  | 0x0c0 => some (.j (imm29 f))
  | 0x0c1 => some (.call (sR f.d) (imm29 f))
  | 0x0c2 => some (.jr (sR f.a))
  | 0x0c3 => some (.callr (sR f.d) (sR f.a))
  | 0x0c4 => some (.ret (sR f.a))
  | 0x0c8 => some (.beq (sR f.d) (sR f.a) (imm29 f))
  | 0x0c9 => some (.bne (sR f.d) (sR f.a) (imm29 f))
  | 0x0ca => some (.blt (sR f.d) (sR f.a) (imm29 f))
  | 0x0cb => some (.bge (sR f.d) (sR f.a) (imm29 f))
  | 0x0cc => some (.bltn (sR f.d) (sR f.a) (imm29 f))
  | 0x0cd => some (.bgen (sR f.d) (sR f.a) (imm29 f))
  | 0x0d0 => some (.nop)
  | 0x0d1 => some (.yield)
  | 0x0d2 => some (.exit)
  | _ => none

/-- OP 0x100–0x124 of Table 6.6: the instruction the fields name; x is the payload of an extended pair. -/
def buildMem (f : Fields) (x : Option Nat) : Option Instr :=
  match f.op with
  | 0x100 => some (.ld (memOf f x))
  | 0x101 => some (.st (memOf f x))
  | 0x102 => some (.lda (memOf f x))
  | 0x103 => some (.stl (memOf f x))
  | 0x110 => some (.amo (atomOf f x))
  | 0x111 => some (.amox (atomOf f x))
  | 0x112 => some (.cas (atomOf f x))
  | 0x120 => some (.fence (fin 8 (fld f.fn 2 0)) (fin 8 (fld f.fn 5 3)))
  | 0x121 => some (.bar (fin 8 (fld f.fn 5 3)) (fin 8 f.sl))
  | 0x122 => some (.wait { d := sR f.d, a := sR f.a, b := sR f.b, sp := fin 4 (fld f.fn 21 20), loc := bit f.fn 19, scope := fin 8 (fld f.fn 18 16), w := fin 4 (fld f.fn 15 14), cond := fin 8 (fld f.fn 13 11), sl := fin 8 f.sl })
  | 0x123 => some (.mark (.ofNat 16 f.fn) (sR f.a) (sR f.b))
  | 0x124 => some (.slk (sR f.d) (sR f.a) (fin 8 (fld f.fn 2 0)) (bit f.fn 3) (bit f.fn 4))
  | _ => none

/-- OP 0x140–0x14A of Table 6.6: the instruction the fields name; x is the payload of an extended pair. -/
def buildSys (f : Fields) (_x : Option Nat) : Option Instr :=
  match f.op with
  | 0x140 => some (.mfs (sR f.d) (.ofNat 12 f.fn))
  | 0x141 => some (.mts (sR f.a) (.ofNat 12 f.fn))
  | 0x142 => some (.svc (.ofNat 16 f.fn))
  | 0x143 => some (.eret)
  | 0x144 => some (.brk (.ofNat 16 f.fn))
  | 0x145 => some (.featq (sR f.d) (fin 64 f.fn))
  | 0x146 => some (.tlbi (sR f.a) (sR f.b) (fin 8 (fld f.fn 2 0)) (fin 8 (fld f.fn 5 3)))
  | 0x147 => some (.ctxsave (sR f.d) (sR f.a) (sR f.b) (fin 8 f.sl))
  | 0x148 => some (.ctxload (sR f.d) (sR f.a) (sR f.b) (fin 8 f.sl))
  | 0x149 => some (.evack (.ofNat 8 f.fn))
  | 0x14a => some (.halt)
  | _ => none

/-- OP 0x200–0x233 of Table 6.6: the instruction the fields name; x is the payload of an extended pair. -/
def buildVec (f : Fields) (_x : Option Nat) : Option Instr :=
  match f.op with
  | 0x200 => some (.vsetl (sR f.d) (sR f.a) (fin 8 (fld f.fn 2 0)) (fin 4 (fld f.fn 4 3)))
  | 0x201 => some (.vsetg (fin 4 f.fn))
  | 0x202 => some (.vtag (vR f.d) (vR f.a) (fin 64 (fld f.fn 21 16)) (fin 4 (fld f.fn 15 14)) (fin 4 (fld f.fn 13 12)))
  | 0x203 => some (.vidx (vR f.d) (sR f.a) (sR f.b) (fin 16 f.p) (fin 64 (fld f.fn 21 16)))
  | 0x204 => some (.vbc (vR f.d) (sR f.a) (fin 16 f.p) (fin 64 (fld f.fn 21 16)) (fin 4 (fld f.fn 15 14)))
  | 0x205 => some (.vmovs (sR f.d) (vR f.a) (sR f.b) (fin 64 (fld f.fn 21 16)) (fin 4 (fld f.fn 15 14)))
  | 0x206 => some (.vmovv (vR f.d) (vR f.a) (fin 16 f.p) (bit f.ca 0) (fin 64 (fld f.fn 21 16)) (fin 4 (fld f.fn 15 14)))
  | 0x210 => some (.vadd (vopOf f (vR f.d)))
  | 0x211 => some (.vsub (vopOf f (vR f.d)))
  | 0x212 => some (.vmul (vopOf f (vR f.d)))
  | 0x213 => some (.vmulh (vopOf f (vR f.d)))
  | 0x214 => some (.vfma (vopOf f (vR f.d)))
  | 0x215 => some (.vfms (vopOf f (vR f.d)))
  | 0x216 => some (.vdiv (vopOf f (vR f.d)))
  | 0x217 => some (.vsqrt (vopOf f (vR f.d)))
  | 0x218 => some (.vrsq (vopOf f (vR f.d)))
  | 0x219 => some (.vrcp (vopOf f (vR f.d)))
  | 0x21a => some (.vexp2 (vopOf f (vR f.d)))
  | 0x21b => some (.vlog2 (vopOf f (vR f.d)))
  | 0x220 => some (.vmin (vopOf f (vR f.d)))
  | 0x221 => some (.vmax (vopOf f (vR f.d)))
  | 0x222 => some (.vabs (vopOf f (vR f.d)))
  | 0x223 => some (.vneg (vopOf f (vR f.d)))
  | 0x224 => some (.vand (vopOf f (vR f.d)))
  | 0x225 => some (.vor (vopOf f (vR f.d)))
  | 0x226 => some (.vxor (vopOf f (vR f.d)))
  | 0x227 => some (.vshl (vopOf f (vR f.d)))
  | 0x228 => some (.vshr (vopOf f (vR f.d)))
  | 0x229 => some (.vsra (vopOf f (vR f.d)))
  | 0x22a => some (.vclz (vopOf f (vR f.d)))
  | 0x22b => some (.vpopc (vopOf f (vR f.d)))
  | 0x230 => some (.vmwide (vopOf f (vR f.d)))
  | 0x231 => some (.vdot (vopOf f (vR f.d)))
  | 0x232 => some (.vcmp (vopOf f (mR f.d)))
  | 0x233 => some (.vsel (vopOf f (vR f.d)))
  | _ => none

/-- OP 0x240–0x30A of Table 6.6: the instruction the fields name; x is the payload of an extended pair. -/
def buildVec2 (f : Fields) (_x : Option Nat) : Option Instr :=
  match f.op with
  | 0x240 => some (.vred (vopOf f (sR f.d)))
  | 0x241 => some (.vscan (vopOf f (vR f.d)))
  | 0x242 => some (.vrecur (vopOf f (vR f.d)))
  | 0x243 => some (.vslide (vopOf f (vR f.d)))
  | 0x244 => some (.vperm (vopOf f (vR f.d)))
  | 0x245 => some (.vcompr (vopOf f (vR f.d)))
  | 0x246 => some (.vexpd (vopOf f (vR f.d)))
  | 0x250 => some (.vcvt (vopOf f (vR f.d)))
  | 0x251 => some (.vcvts (vopOf f (vR f.d)))
  | 0x252 => some (.vrng (vR f.d) (fin 16 f.p) (fin 64 (fld f.fn 21 16)))
  | 0x253 => some (.vclass (mR f.d) (vR f.a) (fin 16 f.p) (bit f.ca 0) (fin 64 (fld f.fn 21 16)) (.ofNat 10 (fld f.fn 13 4)))
  | 0x260 => some (.vamul (vopOf f (vR f.d)))
  | 0x261 => some (.vconj (vopOf f (vR f.d)))
  | 0x262 => some (.vnorm (vopOf f (vR f.d)))
  | 0x263 => some (.varev (vopOf f (vR f.d)))
  | 0x300 => some (.mand (mR f.d) (mR f.a) (mR f.b))
  | 0x301 => some (.mor (mR f.d) (mR f.a) (mR f.b))
  | 0x302 => some (.mxor (mR f.d) (mR f.a) (mR f.b))
  | 0x303 => some (.mandn (mR f.d) (mR f.a) (mR f.b))
  | 0x304 => some (.mnot (mR f.d) (mR f.a))
  | 0x305 => some (.mset (mR f.d))
  | 0x306 => some (.mclr (mR f.d))
  | 0x307 => some (.mpop (sR f.d) (mR f.a))
  | 0x308 => some (.mffs (sR f.d) (mR f.a))
  | 0x309 => some (.mpsum (vR f.d) (mR f.a) (fin 64 (fld f.fn 21 16)))
  | 0x30a => some (.mmv (fin 4 f.fn) (mR f.d) (mR f.a))
  | _ => none

/-- OP 0x320–0x33B of Table 6.6: the instruction the fields name; x is the payload of an extended pair. -/
def buildVMem (f : Fields) (x : Option Nat) : Option Instr :=
  match f.op with
  | 0x320 => some (.vld (vmemOf f x (dispOf 7 f x)))
  | 0x321 => some (.vlds (vmemOf f x (dispOf 7 f x)))
  | 0x322 => some (.vldx (vmemOf f x (dispOf 7 f x)))
  | 0x328 => some (.vst (vmemOf f x (dispOf 7 f x)))
  | 0x329 => some (.vsts (vmemOf f x (dispOf 7 f x)))
  | 0x32a => some (.vstx (vmemOf f x (dispOf 7 f x)))
  | 0x33a => some (.vlda (vmemOf f x (dispOf 7 f x)))
  | 0x33b => some (.vstl (vmemOf f x (dispOf 7 f x)))
  | 0x323 => some (.vldxf (vmemOf f x (dispOf 0 f x)) (fin 16 (fld f.fn 6 3)))
  | 0x32b => some (.vscadd (vmemOf f x (dispOf 0 f x)) (fin 8 (fld f.fn 6 4)))
  | 0x330 => some (.vspill (vmemOf f x (dispOf 0 f x)))
  | 0x331 => some (.vfill (vmemOf f x (dispOf 0 f x)))
  | 0x338 => some (.vbind { d := vR f.d, a := sR f.a, b := sR f.b, sp := fin 4 (fld f.fn 21 20), loc := bit f.fn 19, dir := bit f.fn 18, fmt := fin 64 (fld f.fn 15 10), ar := fin 4 (fld f.fn 9 8), clenM1 := .ofNat 12 (fld (x.getD 0) 47 36), count := .ofNat 36 (fld (x.getD 0) 35 0), slit := .ofNat 12 (fld (x.getD 0) 61 50) })
  | 0x339 => some (.vunbind (vR f.d))
  | _ => none

/-- OP 0x380–0x38B of Table 6.6: the instruction the fields name; x is the payload of an extended pair. -/
def buildMat (f : Fields) (x : Option Nat) : Option Instr :=
  match f.op with
  | 0x380 => some (if bit f.fn 0 then .mmodeLeave else .mmodeEnter (fin 4 (fld f.fn 3 2)) (fin 4 (fld f.fn 5 4)))
  | 0x381 => some (.tshape (sR f.d) (sR f.a) (sR f.b) (fin 64 (fld f.fn 21 16)) (fin 4 (fld f.fn 15 14)))
  | 0x382 => some (.mzero (accR f.d))
  | 0x383 => some (.mop (mopOf f))
  | 0x384 => some (.mops (mopOf f) (fin 16 (fld f.fn 7 4)))
  | 0x385 => some (.mld (mldOf f x))
  | 0x386 => some (.mldp (mldOf f x))
  | 0x387 => some (.mdrain { d := vR f.d, acc := accR f.a, b := sR f.b, t := fin 32 (fld f.fn 21 17), fa := fin 32 (fld f.fn 16 12), fb := fin 32 (fld f.fn 11 7), rnd := fin 8 (fld f.fn 6 4), ar := fin 4 (fld f.fn 3 2), alg := fin 4 (fld f.fn 1 0) })
  | 0x388 => some (.mfill { acc := accR f.d, a := vR f.a, b := sR f.b, ca := bit f.ca 0, src := fin 32 (fld f.fn 21 17), ar := fin 4 (fld f.fn 3 2) })
  | 0x389 => some (.mstat (sR f.d) (accR f.a) (bit f.fn 0))
  | 0x38a => some (.mscl (accR f.d) (sR f.a))
  | 0x38b => some (.algld { a := sR f.a, n := fin 4 (fld f.fn 1 0), sp := fin 4 (fld f.fn 21 20), loc := bit f.fn 19, disp := dispOf 0 f x, slk := slackOf f x })
  | _ => none

/-- OP 0x3C0–0x3E0 of Table 6.6: the instruction the fields name; x is the payload of an extended pair. -/
def buildEng (f : Fields) (x : Option Nat) : Option Instr :=
  match f.op with
  | 0x3c0 => some (.copy (sR f.d) (sR f.a) (sR f.b) (xferOf f x))
  | 0x3c1 => some (.seqLevelWrite (sR f.a) (sR f.b) (fin 8 (fld f.fn 2 0)) (fin 8 (fld f.fn 5 3)) (.ofNat 32 (x.getD 0)))
  | 0x3c2 => some (.seqgo (sR f.d) (sR f.a) (sR f.b) (fin 8 (fld f.fn 2 0)) (match x with | none => .full (fin 8 f.sl) | some _ => .ext (bit f.fn 3) (xferOf f x)))
  | 0x3c3 => some (.seqstop (fin 8 f.fn))
  | 0x3c8 => some (.ctwall (sR f.a))
  | 0x3c9 => some (.ctwany (sR f.d) (sR f.a))
  | 0x3ca => some (.ctffr (sR f.d) (sR f.a))
  | 0x3cb => some (.ctclr (sR f.a))
  | 0x3cc => some (.ctst (sR f.d) (sR f.a))
  | 0x3d0 => some (.binit (sR f.a) (sR f.b) (bit f.fn 19) (fin 8 f.sl))
  | 0x3d1 => some (.barr (sR f.d) (sR f.a) (sR f.b) (bit f.fn 19) (fin 8 f.sl))
  | 0x3d2 => some (.bwait (sR f.d) (sR f.a) (sR f.b) (bit f.fn 19) (fin 8 (fld f.fn 18 16)) (fin 8 f.sl))
  | 0x3d3 => some (.btry (sR f.d) (sR f.a) (sR f.b) (bit f.fn 19) (fin 8 f.sl))
  | 0x3d8 => some (if bit f.fn 0 then .mcastRecv (vR f.d) (fin 64 (fld f.fn 15 10)) (fin 4 (fld f.fn 9 8)) else .mcastSend { d := vR f.d, a := sR f.a, b := sR f.b, sp := fin 4 (fld f.fn 21 20), loc := bit f.fn 19, fmt := fin 64 (fld f.fn 15 10), ar := fin 4 (fld f.fn 9 8), disp := dispOf 0 f x, slk := slackOf f x })
  | 0x3d9 => some (.coll { d := sR f.d, a := sR f.a, b := sR f.b, kind := fin 4 (fld f.fn 21 20), rop := fin 8 (fld f.fn 19 17), fmt := fin 64 (fld f.fn 16 11), slot := fin 4 (fld f.fn 10 9), grp := .ofNat 9 (fld f.fn 8 0), count := .ofNat 40 (fld (x.getD 0) 39 0), slk := slackOf f x })
  | 0x3da => some (.collw (sR f.d) (sR f.a))
  | 0x3e0 => some (.dgst (sR f.d) (fin 4 f.fn))
  | _ => none

/-- Table 6.6. -/
def build (f : Fields) (x : Option Nat) : Option Instr :=
  if f.op < 0x080 then buildInt f x else if f.op < 0x0C0 then buildFp f x else if f.op < 0x100 then buildCtl f x
  else if f.op < 0x140 then buildMem f x else if f.op < 0x200 then buildSys f x else if f.op < 0x240 then buildVec f x
  else if f.op < 0x320 then buildVec2 f x else if f.op < 0x380 then buildVMem f x else if f.op < 0x3C0 then buildMat f x
  else buildEng f x


/-- Table 15.1. -/
def buildAdvice (aop d s imm : Nat) : Option Instr :=
  match aop with
  | 0x00 => some (.aend)
  | 0x01 => some (.anop)
  | 0x02 => some (.await (fin 16 d) (fin 16 s) (.ofNat 16 imm))
  | 0x03 => some (.amark (fin 16 d) (fin 8 imm))
  | 0x04 => some (.aaddi (fin 16 d) (fin 16 s) (.ofNat 18 imm))
  | 0x05 => some (.aadd (fin 16 d) (fin 16 s))
  | 0x07 => some (.aand (fin 16 d) (fin 16 s))
  | 0x08 => some (.amul (fin 16 d) (fin 16 s))
  | 0x06 => some (.ashl (fin 16 d) (fin 16 s) (bit imm 6) (fin 64 (fld imm 5 0)))
  | 0x09 => some (.apf (fin 16 d) (fin 16 s) (fin 4 (fld imm 17 16)) (bit imm 15))
  | 0x0a => some (.apin (fin 16 d) (fin 16 s) (fin 4 imm))
  | 0x0b => some (.aslk (fin 8 (fld imm 12 10)) (.ofNat 10 (fld imm 9 0)))
  | 0x0c => some (.aord (fin 8 (fld imm 12 10)) (fin 4 (fld imm 1 0)))
  | 0x0d => some (.abr (fin 16 d) (fin 16 s) (fin 8 (fld imm 17 15)) (.ofNat 15 (fld imm 14 0)))
  | 0x0e => some (.ajmp (.ofNat 18 imm))
  | 0x0f => some (.async (fin 8 imm))
  | _ => none

/-- Why a word is refused. half names half B (true) or half A of a pair word (R161, Table 6.8). -/
inductive Reject
  /-- The OP, HOP or AOP names no instruction (R162, R163, R349). -/
  | unassigned (half : Bool)
  /-- A form the map does not give, a specifier, an unused field or a reserved value (R151, R152, R156, R167). -/
  | badField (half : Bool)
  /-- A head whose next word is no continuation (R157). -/
  | headAlone
  /-- A continuation reached in sequence (R157). -/
  | continuation
  /-- The pairing rule that the word breaks (R160): 1 to 4. -/
  | pairconf (rule : Nat)
  /-- Fewer bytes than the word needs. -/
  | short
deriving DecidableEq, Repr

/-- Accepts what build read if it is well formed and encodes back to these very fields (R164, order 4). -/
def accept (half : Bool) (e : Enc) : Option Instr → Except Reject Instr
  | none => .error (.unassigned half)
  | some i => if encode i = e ∧ i.wf = true then .ok i else .error (.badField half)

/-- A half that passed the checks of Table 6.7, by its fields (Table 6.5). -/
structure HalfCode where
  hop : Nat
  d : Nat
  a : Nat
  imm : Nat
deriving DecidableEq, Repr

def HalfCode.unpack (h : Nat) : HalfCode := ⟨bits h 30 24, bits h 23 19, bits h 18 14, bits h 13 0⟩
def HalfCode.b (c : HalfCode) : Nat := bits c.imm 13 9

/-- Formats that the full-word instruction of a vector half accepts (Table 8.2, R159). -/
def halfFmts (hop : Nat) : Nat → Bool :=
  if hop ≤ 0x45 then isNumCode else if hop ≤ 0x48 then isIntOrBits else isIntCode

/-- The limits of Table 6.7 on an assigned half. -/
def HalfCode.ok (c : HalfCode) : Bool :=
  if c.hop ≤ 0x0E then decide (c.imm = 0)
  else if c.hop = 0x0F then decide (bits c.imm 8 0 = 0)
  else if c.hop = 0x10 then true
  else if c.hop ≤ 0x13 then decide (c.imm ≤ 63)
  else if c.hop = 0x14 then decide (c.a = 0)
  else if c.hop ≤ 0x1D then
    decide (bits c.imm 5 3 = 0) && decide (bits c.imm 2 0 ≤ 3) && decide (bits c.imm 8 6 ≠ 6) && (decide (c.hop = 0x1B) || decide (c.b = 0))
  else if c.hop ≤ 0x35 then true
  else if c.hop = 0x36 then decide (c.d = 0 ∧ c.a = 0)
  else if c.hop = 0x3F then decide (c.d = 0 ∧ c.a = 0 ∧ c.imm = 0)
  else vHalf (halfFmts c.hop) (fin 64 (bits c.imm 8 3)) (fin 8 (bits c.imm 2 0)) && (decide (c.hop = 0x43) || decide (c.b = 0))

/-- The assigned values of HOP (Table 6.7). -/
def hopAssigned (hop : Nat) : Bool :=
  decide (1 ≤ hop ∧ hop ≤ 0x14) || decide (0x18 ≤ hop ∧ hop ≤ 0x1D) || decide (0x20 ≤ hop ∧ hop ≤ 0x26)
    || decide (0x28 ≤ hop ∧ hop ≤ 0x2B) || decide (0x30 ≤ hop ∧ hop ≤ 0x36) || decide (hop = 0x3F) || decide (0x40 ≤ hop ∧ hop ≤ 0x4B)

def decodeHalf (half : Bool) (h : Nat) : Except Reject HalfCode :=
  let c := HalfCode.unpack h
  if !hopAssigned c.hop then .error (.unassigned half) else if !c.ok then .error (.badField half) else .ok c

/-- What a word holds: one instruction and its size in bytes, or a pair. -/
inductive Decoded
  | one (i : Instr) (size : Nat)
  | pair (a b : HalfCode)
deriving DecidableEq, Repr

/-- Form of a half, by HOP (Table 6.7). -/
def isMemHop (hop : Nat) : Bool := decide (0x20 ≤ hop ∧ hop ≤ 0x2B)
def isStoreHop (hop : Nat) : Bool := decide (0x28 ≤ hop ∧ hop ≤ 0x2B)
def isBranchHop (hop : Nat) : Bool := decide (0x30 ≤ hop ∧ hop ≤ 0x36)
def isVecHop (hop : Nat) : Bool := decide (0x40 ≤ hop)

/-- The register a half writes, scalar n as n and vector n as 64 + n (R160 rule 3). -/
def HalfCode.dest (c : HalfCode) : Option Nat :=
  if isStoreHop c.hop || isBranchHop c.hop || decide (c.hop = 0x3F) then none
  else if isVecHop c.hop then some (64 + c.d) else some c.d

/-- The banks of a vector half's sources (R160 rule 4): D and A, and B in VFMA. -/
def HalfCode.banks (c : HalfCode) : List Nat :=
  if isVecHop c.hop then [c.d % 4, c.a % 4] ++ (if c.hop = 0x43 then [c.b % 4] else []) else []

/-- The first pairing rule of R160 that the two halves break. -/
def pairRule (x y : HalfCode) : Option Nat :=
  if isMemHop x.hop && isMemHop y.hop then some 1
  else if isBranchHop x.hop then some 2
  else if x.dest.isSome && x.dest == y.dest then some 3
  else if x.banks.any (fun n => y.banks.contains n) then some 4
  else none

/-- A pair word: half A, half B, then the pairing rules (Table 6.8). -/
def decodePair (w : Nat) : Except Reject Decoded :=
  match decodeHalf false (bits w 61 31) with
  | .error r => .error r
  | .ok a =>
    match decodeHalf true (bits w 30 0) with
    | .error r => .error r
    | .ok b =>
      match pairRule a b with
      | some n => .error (.pairconf n)
      | none => .ok (.pair a b)

def decodeFull (w : Nat) : Except Reject Decoded :=
  let f := Fields.unpack w
  match accept false (.full f) (build f none) with
  | .ok i => .ok (.one i 8)
  | .error r => .error r

def decodeExt (w next : Nat) : Except Reject Decoded :=
  let f := Fields.unpack w
  if bits next 63 62 = 3 then
    match accept false (.ext f (bits next 61 0)) (build f (some (bits next 61 0))) with
    | .ok i => .ok (.one i 16)
    | .error r => .error r
  else .error .headAlone

/-- Decodes the word w; next is the word after it, which only an extended head uses (Table 6.1). -/
def decode (w next : Nat) : Except Reject Decoded :=
  match bits w 63 62 with
  | 0 => decodeFull w
  | 1 => decodePair w
  | 2 => decodeExt w next
  | _ => .error .continuation

/-- Decodes the instruction at the head of a list of bytes, and the bytes after it (R12, R148). -/
def decodeBytes (bs : List Byte) : Except Reject (Decoded × List Byte) :=
  if bs.length < 8 then .error .short
  else
    match decode (leNat (bs.take 8)) (leNat ((bs.drop 8).take 8)) with
    | .error r => .error r
    | .ok (.one i n) => if bs.length < n then .error .headAlone else .ok (.one i n, bs.drop n)
    | .ok (.pair a b) => .ok (.pair a b, bs.drop 8)

/-- An advice word (R349). -/
def decodeAdvice (w : Nat) : Except Reject Instr :=
  let aop := bits w 31 26
  let d := bits w 25 22
  let s := bits w 21 18
  let imm := bits w 17 0
  accept false (.advice aop d s imm) (buildAdvice aop d s imm)

/-! ## The words of an instruction -/

def packHalf (hop d a imm : Nat) : Nat := packL [(14, imm), (5, a), (5, d), (7, hop)]

/-- The 31 bits of a half; none for anything else. -/
def halfBits (i : Instr) : Option Nat :=
  match encode i with
  | .half hop d a imm => some (packHalf hop d a imm)
  | _ => none

/-- The pair word of two halves (R158). -/
def pairWord (a b : Nat) : Nat := b + 2 ^ 31 * a + 2 ^ 62

/-- The code words of a full word or extended pair, as numbers. -/
def words (i : Instr) : List Nat :=
  match encode i with
  | .full f => [f.pack 0]
  | .ext f x => [f.pack 2, x + 3 * 2 ^ 62]
  | _ => []

/-- The 32-bit word of an advice instruction. -/
def adviceWord (i : Instr) : Option Nat :=
  match encode i with
  | .advice aop d s imm => some (packL [(18, imm), (4, s), (4, d), (6, aop)])
  | _ => none

/-- The instruction the decoder reads from an instruction whose bits are w, the first word least significant. A 32-bit row is
an advice word; every other row is a code word and, for an extended pair, its continuation. A pair word holds the halves of two
rows and is no row's instruction: it answers none (the table gives no half bits of its own). -/
def decodeTableWord (nbits w : Nat) : Option Instr :=
  if nbits ≤ 32 then
    match decodeAdvice (leNat (leBytes 4 w)) with
    | .ok i => some i
    | .error _ => none
  else
    match decodeBytes (leBytes 16 w) with
    | .ok (.one i _, _) => some i
    | .ok (.pair _ _, _) => none
    | .error _ => none

end Sys2Proof
end

