-- ==== Sys2Proof/Machine/Sync.lean ====
section
/-!
DEFINITION. Synchronisation and slack (R186–R190): FENCE, BAR, WAIT, MARK, SLK, and the events BAR_RELEASE, WAIT_REREAD and
YIELD_RESUME. Each ends the strand's region where R112 says so; the store buffer has drained by then.
-/
namespace Sys2Proof.Machine

/-- FENCE: earlier stores are performed, the region ends (R114, R132, R186). One strand performs its accesses in order, so every
kind has the effect of FULL. Log 63. -/
def execFence (_kind scope : Fin 8) (s : State) : Out := .next ((s.drain.sync scope.val).advance 8)

/-! ## BAR (R187) -/

/-- The unit of a barrier scope that a core lies in. -/
def barUnit (scope core : Nat) : Nat := if scope = 1 then core else clusterOf core
/-- Key of a group's barrier of one scope in one unit (Launch.barReleased). -/
def barKey (grp scope unit : Nat) : Nat := (grp * 4 + scope) * 1024 + unit

/-- How often a strand has arrived at barriers of a scope. -/
def Strand.barCount (x : Strand) (scope : Nat) : Nat := if scope = 1 then x.barCore else x.barCluster
def Strand.arriveBar (x : Strand) (scope : Nat) : Strand :=
  let y := { x with barIn := x.barIn ||| 2 ^ scope }
  if scope = 1 then { y with barCore := y.barCore + 1 } else { y with barCluster := y.barCluster + 1 }
/-- The strand has passed its BAR. -/
def Strand.leaveBar (x : Strand) (scope : Nat) : Strand := { x with barIn := putBits x.barIn scope scope 0 }
/-- Where the messages of a barrier go: the first core of its unit (log 64). -/
def barHome (scope core : Nat) : Nat := if scope = 1 then core else coreAt (coreX core / 4 * 4) (coreY core / 4 * 4)

/-- A resident task of group grp of a launch, on a core of the unit, that has not executed EXIT. -/
def inBarGroup (vfn seq grp scope unit : Nat) (c : Nat × Strand) : Bool :=
  match c.2.task with
  | none => false
  | some t =>
    decide (t.vfn = vfn ∧ t.seq = seq ∧ t.grp = grp) && decide (barUnit scope (c.1 / 8) = unit) && decide (c.2.run ≠ .exited)

/-- The participants of a barrier: keys of their strands. -/
def State.participants (s : State) (vfn seq grp scope unit : Nat) : List Nat :=
  (s.strands.filter (inBarGroup vfn seq grp scope unit)).map (·.1)

/-- The strand arrives, once for each BAR, with a message of slack class SL, and waits; a BAR that it left for a trap handler and that
was released meanwhile lets it pass. A strand without a task has no group and passes. Log 64. -/
def execBar (scope sl : Fin 8) (s : State) : Out :=
  let sc := scope.val
  match s.me.task with
  | none => .next ((s.drain.sync sc).advance 8)
  | some t =>
    let done := match s.myLaunch with
      | some l => Map.getD l.barReleased (barKey t.grp sc (barUnit sc s.cur.core)) 0
      | none => 0
    if s.me.barIn.testBit sc = false then
      let s1 := (s.drain.sync sc).inject (.cls sl) (barHome sc s.cur.core, 5) .msg 0
      finish (.wait (.barrier sc) (s1.setMe (s1.me.arriveBar sc)))
    else if s.me.barCount sc ≤ done then
      let s1 := s.drain.sync sc
      .next ((s1.setMe (s1.me.leaveBar sc)).advance 8)
    else finish (.wait (.barrier sc) s)

/-- Has the strand with this key arrived at barrier n of the scope? -/
def State.arrivedAt (s : State) (scope n key : Nat) : Bool :=
  let x := s.strand (key / 8) (key % 8)
  x.barIn.testBit scope && decide (x.barCount scope = n)

/-- One participant is released: if it waits at its BAR it acquires what the others released, and issues again. One that has left for a
trap handler passes as it comes back. -/
def State.passBar (s : State) (scope key : Nat) : State :=
  let x := s.strand (key / 8) (key % 8)
  if x.run = .waiting (.barrier scope) then
    (s.syncAgent x.uid scope).setStrand (key / 8) (key % 8) { x.leaveBar scope with pc := x.pc + 8, vsx := 0, run := .ready, readyAt := s.now }
  else s

/-- Every participant has arrived: all are released together (R187). Otherwise nothing happens. -/
def execBarRelease (vfn seq grp scope unit : Nat) (s : State) : Out :=
  match s.launchOf vfn seq with
  | none => .next s
  | some l =>
    let key := barKey grp scope unit
    let n := Map.getD l.barReleased key 0 + 1
    let ps := s.participants vfn seq grp scope unit
    if ps ≠ [] ∧ ps.all (s.arrivedAt scope n) = true then
      let s1 := { s with launches := Map.set s.launches (lkey vfn seq) { l with barReleased := Map.set l.barReleased key n } }
      .next (ps.foldl (fun s k => s.passBar scope k) s1)
    else .next s

/-! ## WAIT (R188) -/

/-- COND of WAIT on w-bit values. -/
def waitCond (cond w v op : Nat) : Bool :=
  match cond with
  | 0 => decide (v = op)
  | 1 => decide (v ≠ op)
  | 2 => decide (sintOf w op ≤ sintOf w v)
  | _ => decide (op ≤ v)

/-- One read of the word; if it satisfies the condition it is the acquire, else the strand waits for a write. -/
def waitOnce (o : WaitOp) (s : State) : Res :=
  let ea := s.rS o.a
  let n := 2 ^ o.w.val
  let op := (s.rS o.b).toNat % 2 ^ (8 * n)
  if ea.toNat % n ≠ 0 then .stop (.trap cALIGN (effLocal s.cur.core o.sp.val o.loc ea) (memInfo o.sp.val .read)) s
  else
    let s0 := s.drain
    match permit s0 s0.who s0.me.uid false o.sp.val o.loc ea n .read with
    | .error t => .stop t s
    | .ok (ps, s1) =>
      let r := readPieces s1 ps
      let v := leNat r.1
      let s2 := r.2.request (.cls o.sl) ps false
      if waitCond o.cond.val (8 * n) v op then .ok (((s2.sync o.scope.val).wS o.d (BitVec.ofNat 64 v)).advance 8)
      else .wait (.mem ((ps.head?.map (·.loc.da)).getD 0) n) s2

def execWait (o : WaitOp) (s : State) : Out := finish (waitOnce o s)

/-- A write to the waited word makes WAIT read it again. A WAIT that can no longer be fetched is left to the strand's own
fetch. -/
def execWaitReread (core strand : Nat) (s : State) : Out :=
  match (s.strand core strand).run with
  | .waiting (.mem _ _) =>
    let s1 := (s.wake core strand).actAs core strand
    match s1.fetchWord s1.me.pc with
    | .ok (w, s2) =>
      match decode w 0 with
      | .ok (.one (.wait o) _) => execWait o { s2 with cur := { s2.cur with word := BitVec.ofNat 64 w } }
      | _ => .next s1
    | .error _ => .next s1
  | _ => .next s

/-! ## MARK (R189, R346, R456) -/

/-- Raises the count of id among the first 64 distinct ids; the occurrence number is 0 for an id that is not counted. -/
def countMark : List (Nat × Nat) → Nat → Nat → Nat × List (Nat × Nat)
  | [], room, id => if room = 0 then (0, []) else (1, [(id, 1)])
  | (i, n) :: cs, room, id =>
    if i = id then (n + 1, (i, n + 1) :: cs)
    else
      let r := countMark cs (room - 1) id
      (r.1, (i, n) :: r.2)

/-- The strand's number relative to its partition's first lane group on the core. -/
def State.relStrand (s : State) : Nat := s.cur.strand - s.myPart.k0 s.cur.core

/-- Pushes a record into the mark queue of 64 entries; the oldest is dropped when it is full, and LAG counts it. -/
def State.pushMark (s : State) (r : MarkRec) : State :=
  let pc := s.pcore s.cur.pid s.cur.core
  if pc.adv.bound = 0 then s
  else if s.me.marks.length < 64 then s.setMe { s.me with marks := s.me.marks ++ [r] }
  else
    (s.setMe { s.me with marks := s.me.marks.drop 1 ++ [r] }).setPCore s.cur.pid s.cur.core
      { pc with adv := { pc.adv with cLag := Nat.min (pc.adv.cLag + 1) (2 ^ 32 - 1) } }

/-- The 32-byte record of the mark trace: time base, core, strand, mark id, occurrence number (the places of the fields are the
model's, log 20). -/
def traceRecord (now core strand id occ : Nat) : List Byte :=
  leBytes 8 now ++ leBytes 2 core ++ leBytes 2 strand ++ leBytes 4 id ++ leBytes 8 occ ++ List.replicate 8 0

/-- While the trace of the strand's partition runs, a MARK writes one record into the ring (R456). -/
def State.traceMark (s : State) (id occ : Nat) : State :=
  match s.tele.trace with
  | none => s
  | some (pid, addr, size) =>
    if pid ≠ s.cur.pid then s
    else if size ≤ s.tele.traceLen then { s with tele := { s.tele with mtdrop := s.tele.mtdrop + 1 } }
    else
      let s1 := s.writeBytes (addr + 32 * s.tele.traceLen) none (traceRecord s.now s.cur.core s.relStrand id occ)
      { s1 with tele := { s1.tele with traceLen := s1.tele.traceLen + 1 } }

/-- MARK: count, MCNT and record together. -/
def execMark (id : BitVec 16) (a b : SReg) (s : State) : Out :=
  let r := countMark s.me.occ 64 id.toNat
  let s1 := s.setMe { s.me with occ := r.2, mcntId := id.toNat, mcntOcc := r.1 }
  let s2 := s1.pushMark ⟨id.toNat, r.1, s.rS a, s.rS b, s.relStrand, s.now⟩
  .next ((s2.traceMark id.toNat r.1).advance 8)

/-! ## SLK (R190) -/

/-- EXS is read before CLR and SET act; s_a is read before s_d is written. -/
def execSlk (d a : SReg) (cls : Fin 8) (set clr : Bool) (s : State) : Out :=
  let x := s.me
  let y := if clr then { x with exs := 0 } else x
  let z := if set then { y with slkt := y.slkt.set cls.val ((x.rS a).toNat % 4096) cls.isLt } else y
  .next ((s.setMe (z.wS d (BitVec.ofNat 64 x.exs))).advance 8)

/-! ## YIELD_RESUME (R178) -/

/-- The strand issues again once 16 arithmetic cycles have passed, or its siblings have issued. -/
def execYieldResume (core strand : Nat) (s : State) : Out :=
  match (s.strand core strand).run with
  | .waiting (.yield due others) => .next (if due ≤ 19 * s.now ∨ others = [] then s.wake core strand else s)
  | _ => .next s

end Sys2Proof.Machine
end

