-- ==== Sys2Proof/Machine/Collect.lean ====
section
/-!
DEFINITION. Multicast, collectives and digests (R293–R302): the instructions and the event COLLECTIVE_COMPLETE. What the members
on other packages contribute arrives with that event.
-/
namespace Sys2Proof.Machine

/-! ## Multicast (R293–R296) -/

/-- Core n of the acting core's cluster (R260). -/
def State.gangCore (s : State) (n : Nat) : Nat :=
  coreAt (coreX s.cur.core / 4 * 4 + n % 4) (coreY s.cur.core / 4 * 4 + n / 4)

/-- The strand of the acting strand's position on a core of its partition (R294). -/
def State.peer (s : State) (core : Nat) : Nat := s.myPart.k0 core + s.relStrand

/-- Does that strand hold a resident task of the sender's launch (R296)? -/
def State.isMember (s : State) (core : Nat) : Bool :=
  let y := s.strand core (s.peer core)
  s.myPart.owns core && decide (core ≠ s.cur.core) && decide (y.run ≠ .exited)
    && (match y.task, s.me.task with
      | some t, some u => decide (t.vfn = u.vfn ∧ t.seq = u.seq)
      | _, _ => false)

/-- The cores that receive the strip. -/
def State.members (s : State) (gang : Nat) : List Nat :=
  (((List.range 16).filter gang.testBit).map s.gangCore).filter s.isMember

/-- Every member's inbox has a free entry. -/
def State.inboxesFree (s : State) (cs : List Nat) : Bool := cs.all (fun c => decide ((s.strand c (s.peer c)).inbox.length < 4))

/-- Slices that a vector register holds in each of its partition's lane groups (R25, R26): one, where its shape is general. -/
def VReg.slices (r : VReg) : Nat := if r.shape = .general then 1 else 0

/-- Free slices in each lane group of partition pid on a core: of 288, what the registers and the inboxes of its strands do not hold
(R28, R294, R295). -/
def State.freeSlices (s : State) (pid core : Nat) : Nat :=
  let p := s.part pid
  288 - ((List.range p.g).map (fun k =>
    let x := s.strand core (p.k0 core + k)
    (x.v.toList.map VReg.slices).foldl (· + ·) 0 + (x.inbox.map (fun t => t.regs.length)).foldl (· + ·) 0)).foldl (· + ·) 0

/-- Since when a strand has waited for slices on a core. -/
def Strand.shortOn (x : Strand) (core : Nat) : Option Nat := x.short.bind (fun c => if c.2.contains core then some c.1 else none)

/-- R28: may slices of partition pid on a core go to an instruction of strand key, for the strand holder there? Of the strands stopped for
lack of slices, the one that has waited longest is first; while another is stopped, a strand that holds an inbox's strips, which count as
uncommitted allocations (R295), receives none. Log 76. -/
def State.sliceTurn (s : State) (pid core key holder : Nat) : Bool :=
  let since := s.strands.filterMap (fun c =>
    if c.1 ≠ key ∧ ownerOf s.parts (c.1 / 8) (c.1 % 8) = some pid then (c.2.shortOn core).map (fun t => (t, c.1)) else none)
  match (s.strand (key / 8) (key % 8)).short with
  | some (t, _) => since.all (fun o => decide (t < o.1 ∨ (t = o.1 ∧ key < o.2)))
  | none => since.isEmpty || (s.strand (holder / 8) (holder % 8)).inbox.isEmpty

/-- The members' cores where VG slices of every lane group are not free for this send (R28, R294). -/
def State.slicesLack (s : State) (cs : List Nat) : List Nat :=
  cs.filter (fun c => !(decide (s.vgroup ≤ s.freeSlices s.cur.pid c)
    && s.sliceTurn s.cur.pid c (skey s.cur.core s.cur.strand) (skey c (s.peer c))))

/-- VLD of the strip. -/
def mcastLoad (o : McastOp) : VMem := ⟨o.d, o.a, .s 0, 0, false, o.sp, o.loc, 0, o.fmt, o.ar, false, o.disp, o.slk⟩

/-- The strip that vd holds now. -/
def State.strip (s : State) (o : McastOp) : Strip :=
  let sz := s.size o.fmt.val o.ar.val
  let per := s.perReg sz
  let regs := (List.range s.vgroup).map (fun k =>
    let n := Nat.min per (s.me.vl - k * per)
    (⟨n, 0, o.ar.val, .general, o.fmt.val, 0, 0, (vget s.me.v (o.d.val + k)).packed sz % 2 ^ (sz * n)⟩ : VReg))
  ⟨s.me.vg, o.fmt.val, o.ar.val, s.me.vl, regs⟩

/-- The strip enters each member's inbox, in the slices that the strips there hold. A message with the instruction's slack goes to each
member (R138). -/
def State.deliver (s : State) (slk : Slack) (t : Strip) (cs : List Nat) : State :=
  cs.foldl (fun s c =>
    (s.setStrand c (s.peer c) { s.strand c (s.peer c) with inbox := (s.strand c (s.peer c)).inbox ++ [t] }).inject slk (c, 5) .msg 0) s

/-- The send: it waits for every member, then loads, and delivers once it commits whole. -/
def mSend (o : McastOp) (x : Strand) (s : State) : Res :=
  match vmSetup (mcastLoad o) .unit false x s with
  | .error t => .stop t s
  | .ok _ =>
    let cs := s.members (bits (x.rS o.b).toNat 15 0)
    if s.inboxesFree cs = false then .wait (.mcast []) s
    else if s.slicesLack cs ≠ [] then .wait (.mcast (s.slicesLack cs)) s
    else
      match mLoad (mcastLoad o) .unit x s with
      | .ok s1 => .ok (s1.deliver o.slk (s1.strip o) cs)
      | .stop t s1 => .stop t s1
      | .wait w s1 => .wait w s1
def execMcastSend (o : McastOp) (s : State) : Out := vmexec o.slk (mSend o) s

/-- The receive: the oldest strip, if it agrees with the instruction (R295). vd takes the strip's slices; its old ones are free. -/
def mRecv (d : VNum) (fmt : Fin 64) (ar : Fin 4) (x : Strand) (s : State) : Res :=
  match x.inbox with
  | [] => .wait (.mcast []) s
  | t :: rest =>
    let sz := s.size fmt.val ar.val
    match s.opd d.val sz sz with
    | none => s.illegal
    | some od =>
      if t.vg ≠ x.vg then s.illegal
      else if t.fmt ≠ fmt.val then .stop (.trap cFMTTAG 0 s.cur.word) s
      else if t.ar ≠ ar.val then .stop (.trap cARITY 0 s.cur.word) s
      else
        match s.prep x x.vl [] (some od) [] with
        | .error st => .stop st s
        | .ok p =>
          let outs := ((List.range t.len).map (fun i => some ((t.regs.getD (i / od.per) VReg.reset).elem od.sz (i % od.per)))).drop x.vsx
          commitW x p od (fun s => (s.setMe { s.me with inbox := rest }).putRegs d.val t.regs)
            (partOf od fmt.val ar.val 0 x.vsx t.len ⟨outs, []⟩) (fun _ => 0)
def execMcastRecv (d : VNum) (fmt : Fin 64) (ar : Fin 4) (s : State) : Out := vexec (mRecv d fmt ar) s

/-! ## Collectives (R297–R301) -/

/-- The entry of the partition's group table. -/
def Part.group (p : Part) (n : Nat) : Option GroupEntry := Map.get? p.groups n

/-- n of COLL. -/
def collCount (o : CollOp) (s : State) : Nat :=
  match o.slk with
  | .cls _ => bits (s.rS o.d).toNat 39 0
  | .lit _ => o.count.toNat

/-- The contribution of a collective leaves toward the package of rank 0, with the slack and the class of its instruction (R138, R144,
R297). Log 38. -/
def State.contribute (s : State) (slk : Slack) (cid grp : Nat) : State :=
  let pkg := (((s.myPart.group grp).map (·.members)).getD []).headD Config.packageId
  s.pushPacket ⟨s.myPart.tclass, s.issuedSlack slk, s.now, false, s.cur.core, s.cur.strand, Config.portRouter pkg, 4, cid, .msg, 0⟩

/-- COLL: the slot is taken and the collective's region opens. The strand's older stores are performed (R298). -/
def execColl (o : CollOp) (s : State) : Out :=
  finish (
    if s.feature 13 = false then s.illegal
    else if (s.me.collSlots.get o.slot).isSome then s.illegal
    else if (s.myPart.group o.grp.toNat).isNone then s.illegal
    else
      let s0 := s.drain
      let cid := s0.fresh
      let issuer := Map.getD s0.agents s0.me.uid noAgent
      let ag : Agent :=
        ⟨.collective, s0.cur.core, s0.cur.strand, s0.cur.pid, 0, Vector.replicate 4 0, issuer.seen, s0.me.uid, s0.accSeq, none⟩
      let c : Coll :=
        ⟨s0.me.uid, s0.cur.core, s0.cur.strand, s0.cur.pid, o.slot.val, o.kind.val, o.rop.val, o.fmt.val, o.grp.toNat,
          collCount o s0, s0.rS o.a, s0.rS o.b, none, s0.issuedSlack o.slk, false, s0.myPart.slot⟩
      let s1 := s0.setMe { s0.me with collSlots := s0.me.collSlots.set o.slot.val (some cid) o.slot.isLt }
      .ok (({ s1 with
        fresh := cid + 1
        agents := Map.set s1.agents cid ag
        colls := Map.set s1.colls cid c }.contribute o.slk cid o.grp.toNat).advance (slackBytes o.slk)))

/-- The collectives held by the named slots, in slot order: slot and identity. -/
def Strand.held (x : Strand) (mask : Nat) : List (Nat × Nat) :=
  (List.range 4).filterMap (fun k => if mask.testBit k then (x.collSlots.toList.getD k none).map (fun c => (k, c)) else none)

/-- CODE and flags of a collective that is complete. -/
def State.collDone (s : State) (cid : Nat) : Option (Nat × Nat) := (Map.get? s.colls cid).bind (·.done)

/-- A COLLW observes one collective and frees its slot (R280, R301). -/
def State.freeColl (s : State) (h : Nat × Nat) : State :=
  let fl := ((s.collDone h.2).map (·.2)).getD 0
  let s1 := s.observe s.me.uid h.2
  let s2 := s1.setMe { s1.me with collSlots := s1.me.collSlots.setIfInBounds h.1 none }
  { s2.raise fl with colls := Map.erase s2.colls h.2 }

/-- COLLW. -/
def execCollw (d a : SReg) (s : State) : Out :=
  let hs := s.me.held (bits (s.rS a).toNat 3 0)
  finish (
    if s.feature 13 = false then s.illegal
    else if hs.all (fun h => (s.collDone h.2).isSome) then
      let codes := hs.map (fun h => ((s.collDone h.2).map (·.1)).getD 0)
      let code := (codes.find? (· ≠ 0)).getD 0
      let v := code * 2 ^ 56 + hs.foldl (fun m h => m + 2 ^ h.1) 0
      .ok (((hs.foldl State.freeColl s).wS d (BitVec.ofNat 64 v)).advance 8)
    else .wait .collw s)

/-- Steps 3 to 7 of R180 for a run of bytes of an engine agent, page by page. -/
def State.rangeSide (s : State) (id : Nat) (w : Who) (k : Kind) : List (Word × Nat) → Except Stop (List Piece × State)
  | [] => .ok ([], s)
  | (a, n) :: r =>
    match s.chunkSide id w 0 false a n k with
    | .error t => .error t
    | .ok (ps, s1) =>
      match s1.rangeSide id w k r with
      | .error t => .error t
      | .ok (qs, s2) => .ok (ps ++ qs, s2)

/-- Element i of es bytes. -/
def elemOf (es i : Nat) (bs : List Byte) : Nat := leNat ((bs.drop (es * i)).take es)

/-- Bytes of source and destination at a rank (Table 10.8). -/
def Coll.srcBytes (c : Coll) (es pm rank : Nat) : Nat :=
  if c.kind = 2 then c.n * pm * es else if c.kind = 3 ∧ rank ≠ 0 then 0 else c.n * es
def Coll.dstBytes (c : Coll) (es pm : Nat) : Nat := if c.kind = 1 then c.n * pm * es else c.n * es

/-- ROP as an operation of R91. -/
def ropOp (rop : Nat) : RedOp := redOp (if rop = 0 then 0 else rop + 1)

/-- The reduction of elements 0, …, m − 1 over the sources in rank order: their bytes and the flags. -/
def collReduce (E : VEnv) (op : RedOp) (es m : Nat) (srcs : List (List Byte)) : List Byte × Nat :=
  let rs := (List.range m).map (fun e => reduce E op (srcs.map (fun bs => some (elemOf es e bs))))
  (rs.flatMap (fun r => leBytes es r.1), rs.foldl (fun fl r => fl ||| r.2) 0)

/-- What the member of a rank writes, and the flags (R298). -/
def Coll.result (c : Coll) (E : VEnv) (es rank : Nat) (srcs : List (List Byte)) : List Byte × Nat :=
  match c.kind with
  | 0 => collReduce E (ropOp c.rop) es c.n srcs
  | 1 => (srcs.flatten, 0)
  | 2 =>
    let r := collReduce E (ropOp c.rop) es (c.n * srcs.length) srcs
    ((r.1.drop (rank * c.n * es)).take (c.n * es), r.2)
  | _ => (srcs.headD [], 0)

/-- The members agree, in the collective and in the group's member list, and each other rank contributes once (R299, R400). -/
def Coll.agrees (c : Coll) (g : GroupEntry) (others : List Contribution) : Bool :=
  others.all (fun o => decide (o.kind = c.kind ∧ o.rop = c.rop ∧ o.fmt = c.fmt ∧ o.n = c.n ∧ o.members = g.members))
    && decide (others.length + 1 = g.members.length)
    && (List.range g.members.length).all (fun r => decide (r = g.rank) || others.any (fun o => decide (o.rank = r)))

def State.endColl (s : State) (cid : Nat) (c : Coll) (code flags : Nat) : State :=
  { s with colls := Map.set s.colls cid { c with done := some (code, flags) } }

/-- A failure at this member: its own status takes the cause; a stage-2 fault pre-empts the context (R426). -/
def State.failColl (s : State) (cid : Nat) (c : Coll) : Stop → State
  | .s2 f => { s.takeS2 c.pid f (0x3FF + 1024 * c.strand) with colls := Map.set s.colls cid { c with stalled := true } }
  | .preempt => s
  | .trap cause a i => (s.countStop c.pid (.trap cause a i)).endColl cid c cause 0

/-- The least slack that remains among the contributions (R138). -/
def Coll.leastSlack (c : Coll) (others : List Contribution) : Nat := others.foldl (fun m o => Nat.min m o.slack) c.slack

/-- The output of a collective stage leaves toward the package of the next rank, with the least slack that remains among the contributions, in its
partition's class (R138, R144). -/
def State.sendOutput (s : State) (cid : Nat) (c : Coll) (g : GroupEntry) (others : List Contribution) : State :=
  let pkg := g.members.getD ((g.rank + 1) % g.members.length) Config.packageId
  s.pushPacket ⟨(s.part c.pid).tclass, c.leastSlack others, s.now, false, c.core, c.strand,
    Config.portRouter pkg, 4, cid, .msg, 0⟩

/-- A collective's accesses travel as requests, with the least slack that remains (R133, R138). Its replies reach the collector (strand code 9),
and no strand's EXS. -/
def State.collRequest (s : State) (cid : Nat) (c : Coll) (slack : Nat) (ps : List Piece) (ack : Bool) : State :=
  ((s.shares c.core ps).foldl (fun s q =>
    s.pushPacket ⟨(s.part c.pid).tclass, slack, s.now, false, c.core, 9, q.1.1, q.1.2, cid, if ack then .ack else .data, q.2⟩) s).touchLines
      c.core ps ack

/-- The pieces' blocks enter the collective's footprint piece by piece, each split where it must be (R120). -/
def State.collFoot (s : State) (cid : Nat) (sp dp : List Piece) : State :=
  let s1 := sp.foldl (fun s p => s.addFoot cid (piecesBlocks [p]) [] 0) s
  dp.foldl (fun s p => s.addFoot cid [] (piecesBlocks [p]) 0) s1

/-- COLLECTIVE_COMPLETE with the contributions of the other ranks, once the member's own has left the network; while its context is on the cores
(R303), whether or not the task that issued it has executed EXIT (R35). Log 38. -/
def execCollectiveComplete (cid : Nat) (others : List Contribution) (s : State) : Out :=
  match Map.get? s.colls cid with
  | none => .next s
  | some c =>
    if c.done.isSome ∨ c.stalled = true ∨ (s.part c.pid).running ≠ some c.ctx ∨ s.quietFor cid = false then .next s
    else
      let p := s.part c.pid
      match p.group c.grp with
      | none => .next (s.endColl cid c 0xF3 0)
      | some g =>
        if c.agrees g others = false then .next (s.endColl cid c 0xF3 0)
        else
          let f := (fmtOf p.fmt c.fmt).getD (.int false 8)
          let es := f.width / 8
          let pm := g.members.length
          let w : Who := ⟨c.pid, p.slot, c.core⟩
          match s.rangeSide cid w .read (rangePages c.src (c.srcBytes es pm g.rank)) with
          | .error t => .next (s.failColl cid c t)
          | .ok (sp, s1) =>
            match s1.rangeSide cid w .write (rangePages c.dst (c.dstBytes es pm)) with
            | .error t => .next (s.failColl cid c t)
            | .ok (dp, s2) =>
              if others.any (fun o => !o.readable) then .next (s2.endColl cid c 0xF3 0)
              else
                let r := readPieces s2 sp
                let srcs := (List.range pm).map (fun k =>
                  if k = g.rank then r.1 else ((others.find? (fun o => o.rank == k)).map (·.data)).getD [])
                let q := c.result ⟨f, .rne, false, false, 0, 0⟩ es g.rank srcs
                let s3 := ((r.2.collFoot cid sp dp).collRequest cid c (c.leastSlack others) sp false).sendOutput cid c g others
                let s4 := s3.collRequest cid c (c.leastSlack others) dp true
                .next ((s4.performFrom c.core dp q.1).endColl cid c 0 q.2)

/-! ## Digests (R302) -/

/-- DGST: 0 in a launch without DET. -/
def execDgst (d : SReg) (sel : Fin 4) (s : State) : Out :=
  let v : Word :=
    match s.myLaunch with
    | none => 0
    | some l =>
      if l.det = false then 0
      else if sel.val = 0 then s.me.digest
      else if sel.val = 1 then (if l.digv then l.digest else 0)
      else BitVec.ofNat 64 s.me.nstores
  writeNext d v 8 s

end Sys2Proof.Machine
end

