-- ==== Sys2Proof/Machine/Sha.lean ====
section
/-!
DEFINITION. SHA-512 (FIPS 180-4), which the manual names for the command digest (R388), measurements (R446), reports (R447) and
image hashes (R330).
-/
namespace Sys2Proof.Machine

/-- The round constants. -/
def shaK : List Word :=
  [0x428A2F98D728AE22, 0x7137449123EF65CD, 0xB5C0FBCFEC4D3B2F, 0xE9B5DBA58189DBBC]
    ++ [0x3956C25BF348B538, 0x59F111F1B605D019, 0x923F82A4AF194F9B, 0xAB1C5ED5DA6D8118]
    ++ [0xD807AA98A3030242, 0x12835B0145706FBE, 0x243185BE4EE4B28C, 0x550C7DC3D5FFB4E2]
    ++ [0x72BE5D74F27B896F, 0x80DEB1FE3B1696B1, 0x9BDC06A725C71235, 0xC19BF174CF692694]
    ++ [0xE49B69C19EF14AD2, 0xEFBE4786384F25E3, 0x0FC19DC68B8CD5B5, 0x240CA1CC77AC9C65]
    ++ [0x2DE92C6F592B0275, 0x4A7484AA6EA6E483, 0x5CB0A9DCBD41FBD4, 0x76F988DA831153B5]
    ++ [0x983E5152EE66DFAB, 0xA831C66D2DB43210, 0xB00327C898FB213F, 0xBF597FC7BEEF0EE4]
    ++ [0xC6E00BF33DA88FC2, 0xD5A79147930AA725, 0x06CA6351E003826F, 0x142929670A0E6E70]
    ++ [0x27B70A8546D22FFC, 0x2E1B21385C26C926, 0x4D2C6DFC5AC42AED, 0x53380D139D95B3DF]
    ++ [0x650A73548BAF63DE, 0x766A0ABB3C77B2A8, 0x81C2C92E47EDAEE6, 0x92722C851482353B]
    ++ [0xA2BFE8A14CF10364, 0xA81A664BBC423001, 0xC24B8B70D0F89791, 0xC76C51A30654BE30]
    ++ [0xD192E819D6EF5218, 0xD69906245565A910, 0xF40E35855771202A, 0x106AA07032BBD1B8]
    ++ [0x19A4C116B8D2D0C8, 0x1E376C085141AB53, 0x2748774CDF8EEB99, 0x34B0BCB5E19B48A8]
    ++ [0x391C0CB3C5C95A63, 0x4ED8AA4AE3418ACB, 0x5B9CCA4F7763E373, 0x682E6FF3D6B2B8A3]
    ++ [0x748F82EE5DEFB2FC, 0x78A5636F43172F60, 0x84C87814A1F0AB72, 0x8CC702081A6439EC]
    ++ [0x90BEFFFA23631E28, 0xA4506CEBDE82BDE9, 0xBEF9A3F7B2C67915, 0xC67178F2E372532B]
    ++ [0xCA273ECEEA26619C, 0xD186B8C721C0C207, 0xEADA7DD6CDE0EB1E, 0xF57D4F7FEE6ED178]
    ++ [0x06F067AA72176FBA, 0x0A637DC5A2C898A6, 0x113F9804BEF90DAE, 0x1B710B35131C471B]
    ++ [0x28DB77F523047D84, 0x32CAAB7B40C72493, 0x3C9EBE0A15C9BEBC, 0x431D67C49C100D4C]
    ++ [0x4CC5D4BECB3E42B6, 0x597F299CFC657E2A, 0x5FCB6FAB3AD6FAEC, 0x6C44198C4A475817]

/-- The initial hash value. -/
def shaH0 : List Word :=
  [0x6A09E667F3BCC908, 0xBB67AE8584CAA73B, 0x3C6EF372FE94F82B, 0xA54FF53A5F1D36F1]
    ++ [0x510E527FADE682D1, 0x9B05688C2B3E6C1F, 0x1F83D9ABFB41BD6B, 0x5BE0CD19137E2179]

def ror (x : Word) (n : Nat) : Word := x.rotateRight n

/-- n big-endian bytes of a number, and the number that bytes are. -/
def beBytes (n v : Nat) : List Byte := (leBytes n v).reverse
def beNat (bs : List Byte) : Nat := leNat bs.reverse

/-- The message schedule, newest word first: n more words after the 16 of the block. -/
def shaSchedule : Nat → List Word → List Word
  | 0, ws => ws
  | n + 1, ws =>
    let w2 := ws.getD 1 0
    let w7 := ws.getD 6 0
    let w15 := ws.getD 14 0
    let w16 := ws.getD 15 0
    let s0 := ror w15 1 ^^^ ror w15 8 ^^^ (w15 >>> 7)
    let s1 := ror w2 19 ^^^ ror w2 61 ^^^ (w2 >>> 6)
    shaSchedule n ((s1 + w7 + s0 + w16) :: ws)

/-- The working variables. -/
structure ShaVars where
  a : Word
  b : Word
  c : Word
  d : Word
  e : Word
  f : Word
  g : Word
  h : Word
deriving DecidableEq, Repr

def ShaVars.ofList (l : List Word) : ShaVars :=
  ⟨l.getD 0 0, l.getD 1 0, l.getD 2 0, l.getD 3 0, l.getD 4 0, l.getD 5 0, l.getD 6 0, l.getD 7 0⟩
def ShaVars.toList (v : ShaVars) : List Word := [v.a, v.b, v.c, v.d, v.e, v.f, v.g, v.h]

/-- One round. -/
def shaRound (v : ShaVars) (k w : Word) : ShaVars :=
  let t1 := v.h + (ror v.e 14 ^^^ ror v.e 18 ^^^ ror v.e 41) + ((v.e &&& v.f) ^^^ (~~~v.e &&& v.g)) + k + w
  let t2 := (ror v.a 28 ^^^ ror v.a 34 ^^^ ror v.a 39) + ((v.a &&& v.b) ^^^ (v.a &&& v.c) ^^^ (v.b &&& v.c))
  ⟨t1 + t2, v.a, v.b, v.c, v.d + t1, v.e, v.f, v.g⟩

def shaRounds : List Word → List Word → ShaVars → ShaVars
  | k :: ks, w :: ws, v => shaRounds ks ws (shaRound v k w)
  | _, _, v => v

/-- Words of n × 8 bytes. -/
def beWords : Nat → List Byte → List Word
  | 0, _ => []
  | n + 1, bs => BitVec.ofNat 64 (beNat (bs.take 8)) :: beWords n (bs.drop 8)

/-- One block of 128 bytes. -/
def shaBlock (h : List Word) (block : List Byte) : List Word :=
  let ws := (shaSchedule 64 (beWords 16 block).reverse).reverse
  List.zipWith (· + ·) h (shaRounds shaK ws (ShaVars.ofList h)).toList

def shaBlocks : Nat → List Byte → List Word → List Word
  | 0, _, h => h
  | n + 1, bs, h => shaBlocks n (bs.drop 128) (shaBlock h (bs.take 128))

/-- SHA-512 of bytes. -/
def sha512 (m : List Byte) : List Byte :=
  let n := m.length
  let z := (111 + 128 - n % 128) % 128
  let p := m ++ [0x80] ++ List.replicate z 0 ++ beBytes 16 (8 * n)
  (shaBlocks (p.length / 128) p shaH0).flatMap (fun w => beBytes 8 w.toNat)

end Sys2Proof.Machine
end

