-- ==== Sys2Proof/Machine/Journal.lean ====
section
/-!
DEFINITION. The command front end (R383–R392, R397–R402): the command window, acceptance, the journal, dependences, starts of
commands, notifications. A command is the bytes that were written to the port.
-/
namespace Sys2Proof.Machine

abbrev HostOut := Host.Outcome State Fault Refusal

/-! ## Bytes of a command (Table 19.3) -/

/-- The n-byte number at an offset. -/
def numAt (bs : List Byte) (off n : Nat) : Nat := leNat ((bs.drop off).take n)
/-- n bytes at an offset are 0. -/
def zeroAt (bs : List Byte) (off n : Nat) : Bool := ((bs.drop off).take n).all (· == 0)

def cmdKind (c : List Byte) : Nat := numAt c 0 2
def cmdNdep (c : List Byte) : Nat := numAt c 3 1
def cmdEvdep (c : List Byte) : Nat := numAt c 4 1
def cmdCtx (c : List Byte) : Nat := numAt c 6 2
/-- DEP0, …, DEP(NDEP − 1). -/
def cmdDeps (c : List Byte) : List Nat := (List.range (cmdNdep c)).map (fun i => numAt c (0x10 + 8 * i) 8)
def cmdEvaddr (c : List Byte) : Word := BitVec.ofNat 64 (numAt c 0x30 8)
def cmdEvval (c : List Byte) : Nat := numAt c 0x38 8

/-- LEN of each KIND. -/
def kindLen (k : Nat) : Option Nat :=
  match k with
  | 0 => some 1
  | 1 => some 3
  | 2 => some 2
  | 3 => some 2
  | 4 => some 2
  | _ => none

/-- A command write is well formed (R383). -/
def writeOk (c : List Byte) : Bool :=
  match kindLen (cmdKind c) with
  | none => false
  | some n => decide (numAt c 2 1 = n) && decide (c.length = 64 * n)

/-! Fields of a LAUNCH's body (Table 19.6). -/
def dEntry (c : List Byte) : Word := BitVec.ofNat 64 (numAt c 0x40 8)
def dN0 (c : List Byte) : Nat := numAt c 0x48 8
def dN1 (c : List Byte) : Nat := numAt c 0x50 8
def dN2 (c : List Byte) : Nat := numAt c 0x58 8
def dN (c : List Byte) : Nat := dN0 c * dN1 c * dN2 c
def dS (c : List Byte) : Nat := numAt c 0x60 4
def dZ (c : List Byte) : Nat := numAt c 0x64 4
def dLevel (c : List Byte) : Nat := numAt c 0x68 1
def dG (c : List Byte) : Nat := numAt c 0x69 1
def dFlags (c : List Byte) : Nat := numAt c 0x6A 1
def dSteal (c : List Byte) : Nat := numAt c 0x6B 1
def dFr (c : List Byte) : Nat := numAt c 0x80 8
def dSr (c : List Byte) : Nat := numAt c 0x88 8
def dDone (c : List Byte) : Word := BitVec.ofNat 64 (numAt c 0x90 8)

def flagDet (c : List Byte) : Bool := (dFlags c).testBit 0
def flagIdemp (c : List Byte) : Bool := (dFlags c).testBit 1
def flagSerial (c : List Byte) : Bool := (dFlags c).testBit 2
def flagOrdered (c : List Byte) : Bool := decide (cmdKind c = 1) && (dFlags c).testBit 3
def flagDigv (c : List Byte) : Bool := (dFlags c).testBit 4
def flagDone (c : List Byte) : Bool := (dFlags c).testBit 5

/-! ## Accesses of the front end (R387, R391, R397) -/

/-- The pieces of n bytes at va under the tables of a context slot; the TLBs take no part. Log 57. -/
def State.hostPieces (s : State) (pid slot : Nat) (va : Word) (n : Nat) (k : Kind) : Option (List Piece) :=
  match resolve { s with cores := [], clusters := [] } ⟨pid, slot, 0⟩ 0 false va n k with
  | .ok (ps, _) => some ps
  | .error _ => none

/-- A read through a context's tables; none where it does not translate or is uncorrectable. -/
def State.hostRead (s : State) (pid slot : Nat) (va : Word) (n : Nat) : Option (List Byte × State) :=
  match s.hostPieces pid slot va n .read with
  | none => none
  | some ps => if (piecesPoisoned s ps .read).isSome then none else some (readPieces s ps)

/-- A write through a context's tables, performed at once (an STL of domain scope). A partial write whose block cannot be read is not performed
(R452). DESIGN CHOICE (log 57): it then counts as one that does not translate. -/
def State.hostWrite (s : State) (pid slot : Nat) (va : Word) (bs : List Byte) : Option State :=
  match s.hostPieces pid slot va bs.length .write with
  | none => none
  | some ps => if (piecesPoisoned s ps .write).isSome then none else some ((s.overLines 48 (lineParts ps)).performAll (storesOf ps bs))

/-! ## The journal (R388–R390) -/

def JState.final : JState → Bool
  | .retired => true
  | .failed => true
  | .aborted => true
  | .empty => false
  | .accepted => false
  | .dispatched => false

/-- The entry of sequence number n, while the ring still holds it. -/
def VF.entry (v : VF) (n : Nat) : Option JEntry :=
  match Map.get? v.journal (n % 4096) with
  | some e => if e.seq = n then some e else none
  | none => none

/-- STATE of Table 19.5. -/
def JState.code : JState → Nat
  | .empty => 0
  | .accepted => 1
  | .dispatched => 2
  | .retired => 3
  | .failed => 4
  | .aborted => 5

/-- The 64 bytes of an entry (Table 19.5). -/
def JEntry.image (e : JEntry) : List Byte :=
  [e.seq, e.ctag, e.cdig, e.res.toNat].flatMap (leBytes 8)
    ++ [e.state.code, e.cause, e.queue, e.kind].flatMap (leBytes 1) ++ leBytes 4 0 ++ [e.tacc, e.tdis, e.tend].flatMap (leBytes 8)

/-- The bytes of a function's journal ring at index n; an index that no command has used is empty. -/
def VF.ringEntry (v : VF) (n : Nat) : List Byte :=
  match Map.get? v.journal n with
  | some e => e.image
  | none => List.replicate 64 0

/-- The journal window of the management function: function v's ring at offset v × 0x4_0000 (R390). -/
def State.journalWindow (s : State) (off : Nat) : Byte :=
  ((s.vf (off / 0x40000)).ringEntry (off % 0x40000 / 64)).getD (off % 64) 0

def VF.putEntry (v : VF) (e : JEntry) : VF := { v with journal := Map.set v.journal (e.seq % 4096) e }
def VF.queue (v : VF) (q : Nat) : Queue := Map.getD v.queues q Queue.reset
def VF.putQueue (v : VF) (q : Nat) (x : Queue) : VF := { v with queues := Map.set v.queues q x }

/-- A final command counts toward its queue's notification: the first opens the window, of the COAL with which it was accepted; a
bad end closes it (R384, R401). -/
def Queue.count (q : Queue) (now : Nat) (f : Final) : Queue :=
  { q with
    finals := q.finals ++ [f]
    window := match q.window with
      | some w => some (if f.bad.isSome then now else w)
      | none => some (if f.bad.isSome then now else now + 2 * f.coal) }

/-- A command has retired: no command of the function waits for it any longer (R391). -/
def VF.settleDep (v : VF) (seq : Nat) : VF :=
  { v with journal := v.journal.map (fun c => (c.1, { c.2 with deps := c.2.deps.filter (· ≠ seq) })) }

/-- An entry becomes final, once (R389). -/
def State.finalOne (s : State) (vfn seq : Nat) (st : JState) (cause : Nat) : State :=
  let v := s.vf vfn
  match v.entry seq with
  | none => s
  | some e =>
    if e.state.final then s
    else
      let v1 := v.putEntry { e with state := st, cause := cause, tend := s.now }
      let v2 := if st = .retired then v1.settleDep seq else v1
      s.setVf vfn (v2.putQueue e.queue ((v2.queue e.queue).count s.now
        ⟨seq, if st = .retired then none else some cause, e.coal, e.naddr / 32 * 32⟩))

/-- The DISPATCHED ABORTs that wait for a target. -/
def VF.waitingAborts (v : VF) (seq : Nat) : List Nat :=
  (v.journal.filter (fun c => decide (c.2.kind = 3) && decide (c.2.state = .dispatched) && decide (numAt c.2.cmd 0x40 8 = seq))).map (·.2.seq)

/-- A command that this one depends on ended badly. -/
def VF.depBad (v : VF) (e : JEntry) : Bool :=
  e.deps.any (fun d => match v.entry d with | some f => decide (f.state = .failed ∨ f.state = .aborted) | none => false)

/-- The ACCEPTED commands, in increasing number. -/
def VF.pendingSeqs (v : VF) : List Nat :=
  sortNat ((v.journal.filter (fun c => decide (c.2.state = .accepted))).map (·.2.seq))

/-- The commands that depend on one that ended badly are ABORTED with it, and so in turn those that depend on them, which have
higher numbers (R391). -/
def State.abortDependents (s : State) (vfn : Nat) : State :=
  (s.vf vfn).pendingSeqs.foldl (fun s n =>
    match (s.vf vfn).entry n with
    | some e => if (s.vf vfn).depBad e then s.finalOne vfn n .aborted 0x05 else s
    | none => s) s

/-- A command becomes final, and with it the ABORTs that waited for it (R398) and, after a bad end, its dependents. -/
def State.finalise (s : State) (vfn seq : Nat) (st : JState) (cause : Nat) : State :=
  let s1 := s.finalOne vfn seq st cause
  let s2 := ((s1.vf vfn).waitingAborts seq).foldl (fun s n => s.finalOne vfn n .retired 0) s1
  if st = .retired then s2 else s2.abortDependents vfn

/-! ## Acceptance (R383–R387) -/

/-- The reply of Table 19.1. -/
def State.replyCmd (s : State) (vfn code seq : Nat) : State :=
  { s with out := s.out ++ [⟨1, vfn, leBytes 8 (seq % 2 ^ 60 + code * 2 ^ 60)⟩] }

/-- Check 1 of R387: reserved fields, dependence numbers. -/
def checkReserved (c : List Byte) (seq : Nat) : Bool :=
  zeroAt c 5 1 && decide (cmdNdep c ≤ 4) && decide (cmdEvdep c ≤ 1)
    && zeroAt c (0x10 + 8 * cmdNdep c) (8 * (4 - cmdNdep c)) && (cmdDeps c).all (fun d => decide (d < seq))
    && (match cmdKind c with
      | 1 => zeroAt c 0x6C 4 && zeroAt c 0xA0 32 && decide (dFlags c < 64)
      | 2 => zeroAt c 0x50 0x30
      | 3 => zeroAt c 0x48 0x38 && decide (cmdNdep c = 0 ∧ cmdEvdep c = 0)
      | 4 => zeroAt c 0x46 2 && zeroAt c 0x50 0x30 && (decide (numAt c 0x42 2 ≠ 0) || (zeroAt c 0x44 2 && zeroAt c 0x48 8))
      | _ => true)

/-- Cores of a partition, in increasing order. -/
def Part.cores (p : Part) : List Nat := p.own.map (·.1)

/-- c of R32: the cores owned in the smallest cluster in which any is owned. -/
def Part.minCluster (p : Part) : Nat :=
  ((p.cores.map clusterOf).eraseDups.map (fun k => (p.cores.filter (fun c => decide (clusterOf c = k))).length)).foldl
    (fun m n => if m = 0 then n else Nat.min m n) 0

/-- R11 and R32. -/
def launchShapeOk (p : Part) (c : List Byte) : Bool :=
  decide (dLevel c = 1 ∨ dLevel c = 2) && decide (dN0 c ≠ 0 ∧ dN1 c ≠ 0 ∧ dN2 c ≠ 0) && decide (dN c ≤ 2 ^ 40)
    && decide (dS c ≠ 0) && decide (dZ c ≠ 0 ∧ dZ c % dS c = 0)
    && (if dLevel c = 1 then decide (dS c ≤ p.g) else decide (dS c ≤ 16 * p.g) && decide (dS c ≤ p.g * p.minCluster))

/-- Check 3 of R387: the cause, or 0. -/
def checkKind (v : VF) (p : Part) (c : List Byte) : Nat :=
  if cmdEvdep c = 1 ∧ numAt c 0x30 8 % 8 ≠ 0 then 0x01
  else
    match cmdKind c with
    | 1 =>
      if flagDone c ∧ numAt c 0x90 8 % 8 ≠ 0 then 0x01
      else if p.own = [] ∨ launchShapeOk p c = false then 0x01
      else if (flagDet c ∧ v.leaf0.testBit 14 = false) ∨ (flagDigv c ∧ flagDet c = false) then 0x02
      else if flagSerial c ∧ flagIdemp c = false then 0x03
      else if numAt c 0x40 8 % 8 ≠ 0 ∨ dG c ≠ p.g ∨ dFr c % 4096 ≠ 0 ∨ 2 ^ 32 ≤ dFr c ∨ dSr c % 64 ≠ 0 then 0x01
      else 0
    | 2 => if numAt c 0x40 8 % 8 ≠ 0 then 0x01 else 0
    | 4 =>
      if 511 < numAt c 0x40 2 ∨ 256 < numAt c 0x42 2 ∨ (numAt c 0x42 2 ≠ 0 ∧ numAt c 0x42 2 ≤ numAt c 0x44 2) then 0x01 else 0
    | _ => 0

/-- Check 4 of R387: the addresses of the command translate, with R, and W where the device writes. -/
def checkAddrs (s : State) (pid : Nat) (c : List Byte) : Bool :=
  let ok (va : Word) (n : Nat) (k : Kind) : Bool := (s.hostPieces pid (cmdCtx c) va n k).isSome
  (decide (cmdEvdep c = 0) || ok (cmdEvaddr c) 8 .read)
    && (match cmdKind c with
      | 1 => ok (dEntry c) 8 .read && ok (dEntry c) 8 .fetch && (!flagDone c || ok (dDone c) 8 .atomic)
      | 2 => ok (BitVec.ofNat 64 (numAt c 0x40 8)) 8 .atomic
      | 4 => decide (numAt c 0x42 2 = 0) || ok (BitVec.ofNat 64 (numAt c 0x48 8)) (numAt c 0x42 2) .read
      | _ => true)

/-- The cause with which acceptance fails a command, or 0 (R387). -/
def acceptCause (s : State) (vfn seq : Nat) (c : List Byte) : Nat :=
  let v := s.vf vfn
  let p := s.part v.pid
  if checkReserved c seq = false then 0x01
  else if 64 ≤ cmdCtx c ∨ (Map.getD p.ctxs (cmdCtx c) Ctx.reset).valid = false
      ∨ (Map.getD p.ctxs (cmdCtx c) Ctx.reset).xvalid = false then 0x06
  else
    let k := checkKind v p c
    if k ≠ 0 then k else if checkAddrs s v.pid c then 0 else 0x04

/-- Why a command write is refused: CODE 1, then 3, then 2 (R383, R384, R390); a function that is not enabled refuses as a queue
that is not. -/
def refuseCode (s : State) (vfn q : Nat) (c : List Byte) : Nat :=
  let v := s.vf vfn
  if writeOk c = false then 1
  else if v.en = false ∨ (v.queue q).en = false then 3
  else
    match Map.get? v.journal (v.seqNext % 4096) with
    | some e => if e.state.final then 0 else 2
    | none => 0

/-- A sequence dependence is met as the command with number seq is accepted. -/
def VF.depMet (v : VF) (seq d : Nat) : Bool :=
  decide (d + 4096 ≤ seq) || (match v.entry d with | some e => decide (e.state = .retired) | none => false)

/-- The entries of a queue with lower numbers. -/
def VF.earlier (v : VF) (e : JEntry) : List JEntry :=
  (v.journal.map (·.2)).filter (fun f => decide (f.queue = e.queue ∧ f.seq < e.seq))

/-- The newest of them. -/
def newest : List JEntry → Option JEntry
  | [] => none
  | e :: es => match newest es with | some f => some (if e.seq < f.seq then f else e) | none => some e

/-- It must wait for every earlier command of its queue to be final. -/
def VF.waitsAll (v : VF) (e : JEntry) : Bool :=
  flagOrdered e.cmd || (match newest (v.earlier e) with | some f => flagOrdered f.cmd | none => false)

/-- The tasks of a command start with an acquire of package scope (R394): it depends on a launch, or ORDERED makes it wait for one. DEDUCED (log 55):
looked at as it is accepted, when every command that it may wait for has its entry; one that has none any longer may have been a launch. -/
def VF.syncsTasks (v : VF) (e : JEntry) : Bool :=
  (cmdDeps e.cmd).any (fun d => match v.entry d with | some f => decide (f.kind = 1) | none => true)
    || (v.waitsAll e && (v.earlier e).any (fun f => decide (f.kind = 1)))

/-- The command receives its number and its entry, ACCEPTED; the launch that the entry belonged to is forgotten. -/
def State.journalCmd (s : State) (vfn q : Nat) (c : List Byte) : State :=
  let v := s.vf vfn
  let seq := v.seqNext
  let e : JEntry :=
    ⟨seq, numAt c 8 8, leNat ((sha512 c).take 8), 0, .accepted, 0, q, cmdKind c, s.now, 0, 0, c, (v.queue q).prio, (v.queue q).coal,
      (v.queue q).naddr, (cmdDeps c).filter (fun d => !v.depMet seq d), none, none, false⟩
  let v1 := { v.putEntry { e with syncs := v.syncsTasks e } with seqNext := seq + 1 }
  let v2 := v1.putQueue q { v1.queue q with lastSeq := seq }
  ({ s with launches := Map.erase s.launches (lkey vfn (seq - 4096)) }.setVf vfn v2).replyCmd vfn 0 seq

/-- A command write of one KIND to the port of queue q: refused, or accepted, or accepted and FAILED; after is what acceptance does
besides. Where no port is, a write is ignored (R383). A command that depends on one that has ended badly is ABORTED (R391). -/
def State.commandWrite (s : State) (kind vfn q : Nat) (c : List Byte) (after : Nat → State → State) : State :=
  if 16 ≤ q then s
  else
    let code := if cmdKind c ≠ kind then 1 else refuseCode s vfn q c
    if code ≠ 0 then s.replyCmd vfn code 0
    else
      let seq := (s.vf vfn).seqNext
      let cause := acceptCause s vfn seq c
      let s1 := s.journalCmd vfn q c
      if cause ≠ 0 then s1.finalise vfn seq .failed cause else after seq (s1.abortDependents vfn)

/-- NOP_COMMAND: journaled; it is RETIRED when it starts. -/
def execNopCommand (vfn queue : Nat) (body : List Byte) (s : State) : HostOut := .next (s.commandWrite 0 vfn queue body (fun _ s => s))
/-- LAUNCH: the descriptor is checked and journaled (R395). -/
def execLaunch (vfn queue : Nat) (body : List Byte) (s : State) : HostOut := .next (s.commandWrite 1 vfn queue body (fun _ s => s))
/-- SIGNAL: it acts when it starts (R397). -/
def execSignal (vfn queue : Nat) (body : List Byte) (s : State) : HostOut := .next (s.commandWrite 2 vfn queue body (fun _ s => s))
/-- GROUP: it acts when it starts (R400). -/
def execGroup (vfn queue : Nat) (body : List Byte) (s : State) : HostOut := .next (s.commandWrite 4 vfn queue body (fun _ s => s))

/-- An entry is DISPATCHED. -/
def State.dispatch (s : State) (vfn seq : Nat) : State :=
  let v := s.vf vfn
  match v.entry seq with
  | none => s
  | some e => s.setVf vfn (v.putEntry { e with state := .dispatched, tdis := s.now })

/-- A DISPATCHED launch is to be stopped, with this cause (R399). -/
def State.stopLaunch (s : State) (vfn seq cause : Nat) : State :=
  match s.launchOf vfn seq, (s.vf vfn).entry seq with
  | some l, some e =>
    if e.state = .dispatched ∧ l.stopped = false then
      { s with
        launches := Map.set s.launches (lkey vfn seq) { l with stopped := true, stopCause := cause }
        agenda := s.agenda ++ [.launchStop vfn seq] }
    else s
  | _, _ => s

/-- ABORT, carried out at acceptance (R398). -/
def State.abortCmd (s : State) (vfn target seq : Nat) : State :=
  match (s.vf vfn).entry target with
  | none => s.finalise vfn seq .failed 0x0D
  | some e =>
    if e.state.final then (s.dispatch vfn seq).finalise vfn seq .retired 0x0C
    else if e.state = .accepted ∨ (s.launchOf vfn target).isNone then
      ((s.dispatch vfn seq).finalise vfn target .aborted 0x09).finalise vfn seq .retired 0
    else (s.dispatch vfn seq).stopLaunch vfn target 0x09

def execAbort (vfn queue : Nat) (body : List Byte) (s : State) : HostOut :=
  .next (s.commandWrite 3 vfn queue body (fun seq s => s.abortCmd vfn (numAt body 0x40 8) seq))

/-- COMMAND_WRITE_REFUSED: the reply of a write that is refused; any other write changes nothing here. -/
def execCommandWriteRefused (vfn queue : Nat) (body : List Byte) (s : State) : HostOut :=
  let code := refuseCode s vfn queue body
  .next (if queue < 16 ∧ code ≠ 0 then s.replyCmd vfn code 0 else s)

/-- The words of Table 19.2. -/
def Queue.word (q : Queue) (word : Nat) : Nat :=
  match word with
  | 0 => 2 ^ 63 * b2n q.en + q.naddr
  | 1 => 2 ^ 16 * q.coal + q.prio
  | 2 => q.lastSeq
  | _ => 0

/-- The window of a virtual function, at v × 0x2_0000 + off (R383): a word read at off, and what a word write there is: a write to word
`word` of the configuration of queue q. Every other offset reads as 0 and ignores such writes; a command port takes commands. -/
def windowConfig (off : Nat) : Option (Nat × Nat) :=
  if 0x10000 ≤ off ∧ off < 0x10400 ∧ off % 8 = 0 ∧ off % 64 / 8 < 3 then some ((off - 0x10000) / 64, off % 64 / 8) else none
def VF.windowRead (v : VF) (off : Nat) : Nat :=
  match windowConfig off with
  | some (q, word) => (v.queue q).word word
  | none => 0
/-- The queue whose command port lies at an offset of the window. -/
def windowPort (off : Nat) : Option Nat := if off < 0x10000 ∧ off % 0x1000 = 0 then some (off / 0x1000) else none

/-- QUEUE_CONFIG_WRITE: word 0 holds EN and NADDR, word 1 COAL and PRIO, word 2 is read-only (Table 19.2). -/
def execQueueConfigWrite (vfn queue word : Nat) (w : Word) (s : State) : HostOut :=
  let v := s.vf vfn
  let q := v.queue queue
  let n := w.toNat
  let q1 : Queue :=
    if word = 0 then { q with en := n.testBit 63, naddr := bits n 56 0 }
    else if word = 1 then { q with coal := bits n 31 16, prio := bits n 1 0 }
    else q
  .next (if queue < 16 then s.setVf vfn (v.putQueue queue q1) else s)

/-! ## Dependences (R391, R394) -/

/-- What an acquire of domain scope by the command closes: every region that an agent of its partition has released toward the package
(R117). Log 55. -/
def State.domainAcquire (s : State) (pid : Nat) : Map Nat :=
  (s.agents.filter (fun c => decide (c.2.pid = pid) && !c.2.isTransfer)).map (fun c => (c.1, relAt c.2 3))

/-- The event word is at least EVVAL: the regions that the acquire closes. Log 55. -/
def State.eventMet (s : State) (pid : Nat) (c : List Byte) : Option (Map Nat) × State :=
  if cmdEvdep c = 0 then (some [], s)
  else
    match s.hostRead pid (cmdCtx c) (cmdEvaddr c) 8 with
    | none => (none, s)
    | some (bs, s1) => (if cmdEvval c ≤ leNat bs then some (s1.domainAcquire pid) else none, s1)

/-- DEPENDENCE_MET: the command's dependences are looked at again. -/
def execDependenceMet (vfn seq : Nat) (s : State) : HostOut :=
  let v := s.vf vfn
  match v.entry seq with
  | none => .next s
  | some e =>
    if e.state ≠ .accepted then .next s
    else if v.depBad e then .next (s.finalise vfn seq .aborted 0x05)
    else if e.met.isSome ∨ e.deps ≠ [] then .next s
    else
      let r := s.eventMet v.pid e.cmd
      match r.1 with
      | none => .next r.2
      | some m => .next (r.2.setVf vfn (v.putEntry { e with met := some m }))

/-! ## Starts (R38, R392, R394, R397, R400) -/

/-- DISPATCHED launches of a context. -/
def State.dispatchedOf (s : State) (pid slot : Nat) : Nat :=
  (s.launches.filter (fun c => decide (c.2.pid = pid ∧ c.2.slot = slot)
    && (match (s.vf (c.1 % 1024)).entry (c.1 / 1024) with | some e => decide (e.state = .dispatched) | none => false))).length

/-- The conditions of R392. -/
def State.mayStart (s : State) (v : VF) (e : JEntry) : Bool :=
  decide (e.state = .accepted) && e.met.isSome && (v.earlier e).all (fun f => decide (f.state ≠ .accepted))
    && (!v.waitsAll e || (v.earlier e).all (fun f => f.state.final))
    && (decide (e.kind ≠ 1) || decide (s.dispatchedOf v.pid (cmdCtx e.cmd) < 16))

/-- The agent of a task that starts (R394): what its launch has acquired is closed toward it. -/
def State.taskAgent (s : State) (l : Launch) (core k uid : Nat) : Agent :=
  let a : Agent := { newStrandAgent core k l.pid with seen := l.acquires }
  if l.syncs then acquireAgent 3 s.agents uid a else a

/-- The live dies on which a partition owns cores, in increasing number. A fenced die is marked in the telemetry (Table 22.4). -/
def State.liveDies (s : State) (p : Part) : List Nat :=
  (List.range 4).filter (fun d => !s.tele.fenced.testBit d && p.cores.any (fun c => decide (dieOf c = d)))

/-- Ranges lo, …, hi − 1 of a list. -/
def sliceOfList (l : List Nat) (lo hi : Nat) : List Nat := (l.drop lo).take (hi - lo)

/-- The split of R38 of some ranges over dies. -/
def splitRanges (rs : List Nat) (dies : List Nat) : List Dist :=
  let M := rs.length
  let D := dies.length
  (List.range D).map (fun k => ⟨dies.getD k 0, sliceOfList rs (k * M / D) ((k + 1) * M / D), 0, 0⟩)

/-- The launch of an entry that starts: its distributors hold its ranges. A SERIAL launch has the master's alone (R376). -/
def State.newLaunch (s : State) (v : VF) (e : JEntry) : Launch :=
  let c := e.cmd
  let dies := s.liveDies (s.part v.pid)
  { pid := v.pid, slot := cmdCtx c, queue := e.queue, entry := dEntry c, n0 := dN0 c, n1 := dN1 c, n2 := dN2 c, size := dS c,
    z := dZ c, level := dLevel c, flags := dFlags c, stealk := dSteal c, digest := BitVec.ofNat 64 (numAt c 0x70 8),
    prick := numAt c 0x78 8, fr := dFr c, sr := dSr c, doneAddr := dDone c, doneVal := BitVec.ofNat 64 (numAt c 0x98 8),
    dists := splitRanges (List.range ((dN c + dZ c - 1) / dZ c)) (if flagSerial c then dies.take 1 else dies), units := [],
    retired := [], barReleased := [], syncs := e.syncs, acquires := e.met.getD [], started := [], stopped := false, fenceFail := false, stopCause := 0 }

/-- A collective of the partition that names a group is incomplete. -/
def State.groupBusy (s : State) (pid grp : Nat) : Bool :=
  s.colls.any (fun c => decide (c.2.pid = pid ∧ c.2.grp = grp) && c.2.done.isNone)

/-- A member list is refused (R400). -/
def badMembers (ms : List Nat) (rank : Nat) : Bool :=
  decide (ms.eraseDups.length ≠ ms.length) || decide (ms.getD rank 256 ≠ Config.packageId)
    || ms.any (fun m => decide (m ≠ Config.packageId) && !Config.inDomain m)

/-- A GROUP that has started and read its list writes its entry, once no collective of the group is incomplete. Log 56. -/
def State.runGroup (s : State) (vfn seq : Nat) (v : VF) (e : JEntry) : State :=
  let grp := numAt e.cmd 0x40 2
  let p := s.part v.pid
  if s.groupBusy v.pid grp then s
  else
    match e.members with
    | none => s
    | some ms =>
      let gs := if ms = [] then Map.erase p.groups grp else Map.set p.groups grp ⟨numAt e.cmd 0x44 2, ms⟩
      (s.setPart v.pid { p with groups := gs }).finalise vfn seq .retired 0

/-- A GROUP starts: it reads the member list, which is not read again. -/
def State.startGroup (s : State) (vfn seq : Nat) (v : VF) (c : List Byte) : State :=
  let pm := numAt c 0x42 2
  let keep (ms : List Nat) (s : State) : State :=
    match (s.vf vfn).entry seq with
    | some e =>
      let e1 := { e with members := some ms }
      (s.setVf vfn ((s.vf vfn).putEntry e1)).runGroup vfn seq v e1
    | none => s
  if pm = 0 then keep [] s
  else
    match s.hostRead v.pid (cmdCtx c) (BitVec.ofNat 64 (numAt c 0x48 8)) pm with
    | none => s.finalise vfn seq .failed 0x04
    | some (bs, s1) =>
      let ms := bs.map (·.toNat)
      if badMembers ms (numAt c 0x44 2) then s.finalise vfn seq .failed 0x01 else keep ms s1

/-- The counters of Table 15.5 start again. -/
def Advice.clear (a : Advice) : Advice :=
  { a with cMatch := 0, cStale := 0, cSkip := 0, cResync := 0, cIdle := 0, cDiscard := 0, cLag := 0, cAfault := 0, cDrop := 0,
           cTrim := 0, cPfbytes := 0 }

/-- A launch of a partition starts: its advice contexts count from 0 (R366). -/
def State.clearAdvice (s : State) (pid : Nat) : State :=
  (s.part pid).cores.foldl (fun s k => s.setPCore pid k { s.pcore pid k with adv := (s.pcore pid k).adv.clear }) s

/-- A command that is DISPATCHED does what its KIND says. -/
def State.runCmd (s : State) (vfn seq : Nat) (v : VF) (e : JEntry) : State :=
  match e.kind with
  | 1 => ({ s with launches := Map.set s.launches (lkey vfn seq) (s.newLaunch v e) }).clearAdvice v.pid
  | 2 =>
    match s.hostWrite v.pid (cmdCtx e.cmd) (BitVec.ofNat 64 (numAt e.cmd 0x40 8)) (leBytes 8 (numAt e.cmd 0x48 8)) with
    | none => s.finalise vfn seq .failed 0x04
    | some s1 => s1.finalise vfn seq .retired 0
  | 4 => s.startGroup vfn seq v e.cmd
  | _ => s.finalise vfn seq .retired 0

/-- COMMAND_START; a GROUP that waits is looked at again. -/
def execCommandStart (vfn seq : Nat) (s : State) : HostOut :=
  let v := s.vf vfn
  match v.entry seq with
  | none => .next s
  | some e =>
    if s.mayStart v e then .next ((s.dispatch vfn seq).runCmd vfn seq v e)
    else if e.kind = 4 ∧ e.state = .dispatched then .next (s.runGroup vfn seq v e)
    else .next s

/-! ## Notifications (R401) -/

/-- The lowest-numbered FAILED or ABORTED command among some: cause and number. -/
def firstBad (fs : List Final) : Nat × Nat :=
  (fs.filterMap (fun f => f.bad.map (fun c => (c, f.seq)))).foldl (fun m c => if m.2 = 0 ∨ c.2 < m.2 then c else m) (0, 0)

/-- The 32 bytes of a notification that covers some commands; SEQ never falls below that of an earlier one (log 47). -/
def Queue.notification (x : Queue) (q now : Nat) (fs : List Final) : List Byte :=
  let b := firstBad fs
  leBytes 8 ((fs.map (·.seq)).foldl Nat.max x.notified) ++ leBytes 4 fs.length ++ leBytes 1 q ++ leBytes 1 b.1 ++ leBytes 2 0 ++ leBytes 8 b.2
    ++ leBytes 8 now

/-- Writes bytes to a domain address: this package's memory as plaintext, else a fabric write. Log 47. -/
def State.fabricWrite (s : State) (da : Nat) (bs : List Byte) : State :=
  if isLocal da then s.writeBytes da none bs else { s with out := s.out ++ [⟨2, da, bs⟩] }

/-- What one notification covers: the counted commands that are notified at the place of the first that is, and those that have no
place; with COAL = 0 that one alone, unless one of them ended badly. Log 47. -/
def Queue.batch (q : Queue) : List Final :=
  match q.finals.find? (fun f => decide (f.naddr ≠ 0)) with
  | none => []
  | some n =>
    let fs := q.finals.filter (fun f => decide (f.naddr = n.naddr ∨ f.naddr = 0))
    if n.coal = 0 ∧ (firstBad fs).2 = 0 then fs.filter (fun f => decide (f = n ∨ f.naddr = 0)) else fs

/-- NOTIFICATION_SEND: the queue's window closes. With NADDR = 0 nothing is sent, and the commands stay counted. The write is a release of
domain scope (R401); the tasks' own releases have closed their regions, as log 55 says. -/
def execNotificationSend (vfn queue : Nat) (s : State) : HostOut :=
  let v := s.vf vfn
  let q := v.queue queue
  match q.window with
  | none => .next s
  | some w =>
    if s.now < w then .next s
    else
      let fs := q.batch
      if fs = [] then .next (s.setVf vfn (v.putQueue queue { q with window := none }))
      else
        let rest := q.finals.filter (fun f => !fs.contains f)
        let s1 := s.setVf vfn (v.putQueue queue { q with
          finals := rest, window := if rest = [] then none else some s.now, notified := (fs.map (·.seq)).foldl Nat.max q.notified })
        .next (s1.fabricWrite ((fs.map (·.naddr)).foldl Nat.max 0) (q.notification queue s.now fs))

end Sys2Proof.Machine
end

