-- ==== Sys2Proof/Machine/Matrix.lean ====
section
/-!
DEFINITION. The matrix unit (R86–R90, R245–R269): matrix mode, tile shapes, outer products, tile loads, drains and fills, and
ALGLD. A partition works on rows 8·k0 … 8·k0 + 8g − 1 of both tiles of its core (R65, R250); a cell is a number of 72 bits.
-/
namespace Sys2Proof.Machine

/-! ## Tiles and status -/

/-- What the acting partition keeps on the acting core. -/
def State.pc (s : State) : PCore := s.pcore s.cur.pid s.cur.core
def State.setPc (s : State) (c : PCore) : State := s.setPCore s.cur.pid s.cur.core c

/-- The strand holds matrix mode (R246). -/
def State.holds (s : State) : Bool := decide (s.pc.holder = some s.cur.strand)

/-- ACCSTAT bits (Table 2.6). -/
def accOVF : Nat := 1
def accINV : Nat := 2
def accINX : Nat := 4
def accEXM : Nat := 8

def State.accStat (s : State) (t : Acc) : Nat := s.pc.accst.get t
def State.exm (s : State) (t : Acc) : Bool := (s.accStat t).testBit 3
def State.setAcc (s : State) (t : Acc) (v : Nat) : State := s.setPc { s.pc with accst := s.pc.accst.set t.val v t.isLt }
def State.raiseAcc (s : State) (t : Acc) (fl : Nat) : State := s.setAcc t (s.accStat t ||| fl)

def cellKey (t : Acc) (row col : Nat) : Nat := t.val * 4096 + row * 64 + col
/-- Physical row of the partition's row i (R250). -/
def State.physRow (s : State) (i : Nat) : Nat := 8 * s.myPart.k0 s.cur.core + i
/-- Zero cells are not listed. -/
def putCell (m : Map Nat) (k v : Nat) : Map Nat := if v = 0 then Map.erase m k else Map.set m k v
def State.cells (s : State) : Map Nat := (s.coreOf s.cur.core).cells
def State.setCells (s : State) (m : Map Nat) : State := s.setCore s.cur.core { s.coreOf s.cur.core with cells := m }

/-- Is this cell of tile t in the partition's rows? -/
def State.ownCell (s : State) (t : Acc) (k : Nat) : Bool :=
  decide (cellKey t (s.physRow 0) 0 ≤ k ∧ k < cellKey t (s.physRow (8 * s.g)) 0)
/-- MZERO (R263). -/
def State.zeroTile (s : State) (t : Acc) : State :=
  let c := s.coreOf s.cur.core
  s.setCore s.cur.core { c with cells := c.cells.filter (fun x => !s.ownCell t x.1), badCells := c.badCells.filter (fun x => !s.ownCell t x) }

/-- Does an instruction that reads cells for which sel holds meet one that cannot be read: UNCORR, structure code 1 (R452; log 29)? -/
def State.tileBad (s : State) (sel : Nat → Bool) : Bool := (s.coreOf s.cur.core).badCells.any sel
def State.uncorrReg (s : State) : Res := .stop (.trap cUNCORR 0 1) s
/-- Cell k holds a component of one of nr element rows of arity c, and of nc columns, from (row, 0) on of tile t: the cells that MOP, MDRAIN
and MFILL read or write there (R250). -/
def inRows (t : Acc) (row c nr nc k : Nat) : Bool :=
  decide (cellKey t row 0 ≤ k ∧ k < cellKey t (row + c * nr) 0 ∧ k % 64 < nc) && decide ((k / 64 - cellKey t row 0 / 64) % c = 0)

/-- Fields of TSHP (Table 2.6). -/
def tshpM (w : Word) : Nat := bits w.toNat 7 0
def tshpN (w : Word) : Nat := bits w.toNat 15 8
def tshpK (w : Word) : Nat := bits w.toNat 47 16

/-- ILLEGAL unless the strand holds matrix mode (R246). -/
def State.inMatrix (s : State) (k : State → Res) : Res := if s.holds then k s else s.illegal

/-! ## Matrix mode (R246–R248) -/

/-- Initialises tile t: EXM, then zero cells; the sticky flags stay. -/
def State.initTile (s : State) (tmask xm : Nat) (t : Acc) : State :=
  if tmask.testBit t.val then
    (s.setAcc t (s.accStat t % 8 + (if xm.testBit t.val then accEXM else 0))).zeroTile t
  else s

/-- MMODE.enter waits while another strand holds matrix mode or waited before. -/
def execMmodeEnter (tmask xm : Fin 4) (s : State) : Out :=
  let c := s.pc
  finish (
    if xm.val ≠ 0 ∧ s.feature 9 = false then s.illegal
    else if s.holds ∨ (c.holder = none ∧ c.mmWait = []) then
      let s1 := s.setPc { c with holder := some s.cur.strand }
      .ok (((s1.initTile tmask.val xm.val 0).initTile tmask.val xm.val 1).advance 8)
    else .wait .mmode (if c.mmWait.contains s.cur.strand then s else s.setPc { c with mmWait := c.mmWait ++ [s.cur.strand] }))

/-- The strand gives matrix mode up, if it holds it. -/
def State.leaveMatrix (s : State) : State := if s.holds then s.setPc { s.pc with holder := none } else s

def execMmodeLeave (s : State) : Out := .next (s.leaveMatrix.advance 8)

/-- Matrix mode passes to the strand that has waited longest, which resumes. -/
def execMatrixModeGrant (core pid : Nat) (s : State) : Out :=
  let c := s.pcore pid core
  match c.holder, c.mmWait with
  | none, k :: ks => .next ((s.setPCore pid core { c with holder := some k, mmWait := ks }).wake core k)
  | _, _ => .next s

/-! ## TSHAPE (R251) -/

/-- Elements of c × w bits in one group. -/
def State.groupCap (s : State) (fmt ar : Nat) : Nat := s.vgroup * s.lanes * 256 / s.size fmt ar

def execTshape (d a b : SReg) (fmt : Fin 64) (ar : Fin 4) (s : State) : Out :=
  let c := 2 ^ ar.val
  let m := Nat.min (bits (s.rS a).toNat 7 0) (8 * s.g / c)
  let n := Nat.min (bits (s.rS a).toNat 15 8) (64 / c)
  let k := Nat.min (s.rS b).toNat (s.groupCap fmt.val ar.val / Nat.max m n)
  let t : Word := if m = 0 ∨ n = 0 then 0 else BitVec.ofNat 64 (k % 2 ^ 32 * 2 ^ 16 + n * 2 ^ 8 + m)
  .next (((s.setMe { s.me with tshp := t }).wS d t).advance 8)

def execMzero (acc : Acc) (s : State) : Out := finish (s.inMatrix (fun s => .ok ((s.zeroTile acc).advance 8)))

/-! ## Exact cells (R87–R89) -/

/-- The exponent of the smallest step of a format (R79, Table 3.1). -/
def Fmt.stepExp : Fmt → Int
  | .flt eb mb => 1 - ((2 ^ (eb - 1) - 1 : Nat) : Int) - mb
  | .int _ _ => 0
  | .nar v => if narE v = 0 then -(narBias v) else 1 - narBias v - (narM v : Int)

/-- An exact value in units of 2^k. -/
def XV.units (x : XV) (k : Int) : Int :=
  match x with
  | .fin s n d _ => let m := (splitStep n d k).1; if s then -(m : Int) else m
  | _ => 0

/-- MaxFinite(F) in smallest steps (R87). -/
def Fmt.maxUnits (f : Fmt) : Nat :=
  if f.fixed then Nat.max f.range.1.natAbs f.range.2.natAbs else ((f.decode f.params.maxCode).units f.stepExp).natAbs

/-- R87. -/
def exactEligible (fa fb : Fmt) : Bool := decide (fa.maxUnits * fb.maxUnits < 2 ^ 48)

def cellClass (c : Nat) : Nat := bits c 71 70
def cellVal (c : Nat) : Int := sintOf 70 c
def mkCell (cls : Nat) (v : Int) : Nat := cls * 2 ^ 70 + patOf 70 v

/-- Saturation of VAL, with OVF. -/
def satVal (v : Int) : Int × Nat :=
  if (2 ^ 69 - 1 : Nat) < v then ((2 ^ 69 - 1 : Nat), accOVF) else if v < -(2 ^ 69 : Nat) then (-(2 ^ 69 : Nat), accOVF) else (v, 0)

/-- CellAdd of a product p whose anchor is 2^k; a NaN p set INV where it was formed. -/
def cellAdd (k : Int) (c : Nat) (p : XV) : Nat × Nat :=
  match cellClass c, p with
  | 3, _ => (c, if p.isNan then accINV else 0)
  | _, .nan _ => (mkCell 3 (cellVal c), accINV)
  | 0, .inf n => (mkCell (if n then 2 else 1) (cellVal c), 0)
  | cls, .inf n => if cls = (if n then 2 else 1) then (c, 0) else (mkCell 3 (cellVal c), accINV)
  | 0, p => let r := satVal (cellVal c + p.units k); (mkCell 0 r.1, r.2)
  | _, _ => (c, 0)

/-- One update in FP32 mode (R86). -/
def cellFma (c : Nat) (p : XV) : Nat × Nat :=
  let f : Fmt := .flt 8 23
  let r := addX false (f.decode c) p
  let q := (roundTo f .rne 0 r.1).1
  (q, if r.1.isNan then accINV else if !r.1.isInf && (f.decode q).isInf then accOVF else 0)

/-! ## MOP and MOPS (R252–R256) -/

/-- AlgTerm of component q (R252). -/
def algTerm (t : Alg) (fa fb : Fmt) (c w x y q : Nat) : XV :=
  let ps := (t.terms c q).map (fun e =>
    let m := mulX (fa.decode (comp w e.1 x)) (fb.decode (comp w e.2.1 y))
    if e.2.2 then m.1.negate else m.1)
  match ps with
  | [] => XV.zero false
  | p :: ps => ps.foldl (fun acc p => (addX false acc p).1) p

/-- What a MOP adds: tile, formats, table, shape, and the elements of A and B. -/
structure MopEnv where
  acc : Acc
  exact : Bool
  fa : Fmt
  fb : Fmt
  c : Nat
  w : Nat
  table : Alg
  m : Nat
  n : Nat
  row0 : Nat
  ea : Nat → Nat
  eb : Nat → Nat

/-- The product that step k adds to component q of element (i, j). DESIGN CHOICE (log 75): a product of integers or fixed-point values that is 0
has the exclusive-or of their signs, as mulX gives it, so that a −0 of an FP32 cell stays under 0 × −5; the spec gives integers no −0. -/
def MopEnv.prod (E : MopEnv) (pa pb i j q : Nat) : XV :=
  let x := E.ea (pa * E.m + i)
  let y := E.eb (pb * E.n + j)
  if E.c = 1 then (mulX (E.fa.decode x) (E.fb.decode y)).1 else algTerm E.table E.fa E.fb E.c E.w x y q

/-- One k step: column pa of A, row pb of B; every cell once. -/
def MopEnv.step (E : MopEnv) (pa pb : Nat) (st : Map Nat × Nat) : Map Nat × Nat :=
  (List.range E.m).foldl (fun st i => (List.range E.n).foldl (fun st j => (List.range E.c).foldl (fun st q =>
    let key := cellKey E.acc (E.row0 + E.c * i) (E.c * j + q)
    let old := Map.getD st.1 key 0
    let p := E.prod pa pb i j q
    let r := if E.exact then cellAdd (E.fa.stepExp + E.fb.stepExp) old p else cellFma old p
    (putCell st.1 key r.1, st.2 ||| r.2)) st) st) st

/-- Steps k, k + 1, …, n of them; pos tells the column of A of step k, none where the mask clears it. -/
def MopEnv.run (E : MopEnv) (pos : Nat → Option Nat) : Nat → Nat → Map Nat × Nat → Map Nat × Nat
  | 0, _, st => st
  | n + 1, k, st => E.run pos n (k + 1) (match pos k with | some p => E.step p k st | none => st)

/-- One of these steps runs, and reads the cells of its tile. -/
def MopEnv.anyStep (E : MopEnv) (pos : Nat → Option Nat) (n k : Nat) : Bool :=
  decide (0 < E.m ∧ 0 < E.n) && (List.range n).any (fun i => (pos (k + i)).isSome)

/-- One of these elements of a group lies in a register that cannot be read (R452). -/
def State.groupBad (s : State) (o : Opd) (es : List Nat) : Bool := es.any (fun e => s.me.regErr.contains (96 + o.base + e / o.per))

/-- One of the steps k, k + 1, …, n of them, reads a register that cannot be read. -/
def MopEnv.regsBad (E : MopEnv) (s : State) (oa ob : Opd) (pos : Nat → Option Nat) (n k : Nat) : Bool :=
  let line (m i : Nat) : List Nat := (List.range m).map (· + i * m)
  decide (0 < E.m ∧ 0 < E.n) && (List.range n).any (fun i =>
    match pos (k + i) with
    | some p => s.groupBad oa (line E.m p) || s.groupBad ob (line E.n (k + i))
    | none => false)

/-- Set bits of a mask below k. -/
def setBelow (m k : Nat) : Nat := popLoop k m

/-- MOP (mk none) and MOPS, in the order of R253. A pre-emption stops it between two k steps (R254). -/
def mopRes (o : MopOp) (mk : Option MReg) (x : Strand) (s : State) : Res :=
  let c := 2 ^ o.ar.val
  let w := s.width o.fmta.val
  let sz := c * w
  let fa := s.fmtC o.fmta.val
  let fb := s.fmtC o.fmtb.val
  let M := tshpM x.tshp
  let N := tshpN x.tshp
  let K := tshpK x.tshp
  let cap := s.groupCap o.fmta.val o.ar.val
  let mask := match mk with | some r => x.m.get r | none => 2 ^ K - 1
  let cols := match mk with | some _ => setBelow mask K | none => K
  if w ≠ s.width o.fmtb.val then s.illegal
  else s.inMatrix (fun s =>
    match s.opd o.a.val sz sz, s.opd o.b.val sz sz with
    | some oa, some ob =>
      if 8 * s.g / c < M ∨ 64 / c < N ∨ cap < cols * M ∨ cap < K * N then s.illegal
      else
        match s.prep x x.vl [oa, ob] none [oa.want o.fmta.val o.ar.val, ob.want o.fmtb.val o.ar.val] false .step with
        | .error t => .stop t s
        | .ok p =>
          match if c = 1 then some ⟨0, 0, []⟩ else tableFor s (vget p.v oa.base).alg o.ar.val with
          | none => .stop (.trap cARITY 0 s.cur.word) s
          | some t =>
            if s.exm o.acc && !exactEligible fa fb then .stop (.trap cFMTTAG 0 s.cur.word) s
            else
              match p.stop with
              | some (_, st) => .stop st p.s
              | none =>
                let E : MopEnv := ⟨o.acc, s.exm o.acc, fa, fb, c, w, t, M, N, s.physRow 0, oa.get p.v, ob.get p.v⟩
                let pos (k : Nat) : Option Nat :=
                  match mk with
                  | none => some k
                  | some _ => if mask.testBit k then some (setBelow mask k) else none
                let upto (n : Nat) : State :=
                  let r := E.run pos (n - x.vsx) x.vsx (p.s.cells, 0)
                  (p.s.setCells r.1).raiseAcc o.acc r.2
                let last := match s.cur.limit with | some n => Nat.min n K | none => K
                if E.regsBad s oa ob pos (last - x.vsx) x.vsx
                  || E.anyStep pos (last - x.vsx) x.vsx && s.tileBad (inRows o.acc (s.physRow 0) c M (c * N)) then s.uncorrReg
                else if last < K then stopAt (upto last) (Nat.max last x.vsx) .preempt
                else .ok ((p.load none (upto K)).passSlots p.slots)
    | _, _ => s.illegal)

def execMop (o : MopOp) (s : State) : Out := vexec (mopRes o none) s
def execMops (o : MopOp) (mk : MReg) (s : State) : Out := vexec (mopRes o (some mk)) s

/-! ## MLD and MLDP (R258–R261) -/

/-- (row, column) of element e (R259). -/
def mldPlace (dir : Bool) (l0 p0 n e : Nat) : Nat × Nat :=
  if dir then (p0 + e % n, l0 + e / n) else (l0 + e / n, p0 + e % n)

def mldRes (o : MldOp) (gang : Bool) (x : Strand) (s : State) : Res :=
  let c := 2 ^ o.ar.val
  let w := s.width o.fmt.val
  let sz := c * w
  let K := tshpK x.tshp
  let n := if o.dir then tshpM x.tshp else tshpN x.tshp
  let base := x.rS o.a
  let l0 := bits (x.rS o.b).toNat 5 0
  let p0 := bits (x.rS o.b).toNat 11 6
  let addr := effLocal s.cur.core 1 o.loc base
  let last := mldPlace o.dir l0 p0 n (K * n - 1)
  match s.opd o.d.val sz sz with
  | none => s.illegal
  | some od =>
    if 0 < K * n ∧ (64 ≤ last.1 ∨ 64 / c ≤ last.2) then s.illegal
    else if s.groupCap o.fmt.val o.ar.val < K * n then s.illegal
    else
      match s.prep x x.vl [] (some od) [] false .step with
      | .error t => .stop t s
      | .ok p =>
        if base.toNat % 256 ≠ 0 then .stop (.trap cALIGN addr (memInfo 1 .read)) s
        else if gang && decide ((namedCore s.cur.core o.loc (bits base.toNat 31 22)).map clusterOf ≠ some (clusterOf s.cur.core)) then
          .stop (.trap cSPACE addr (memInfo 1 .read)) s
        else
          -- a slot stays in the core that the base names: past its lane memory it is outside the address space (R98, R258)
          let f (e : Nat) (s : State) : Except Stop ElemRes :=
            let rc := mldPlace o.dir l0 p0 n e
            let off := (64 * rc.1 + c * rc.2) * w / 4
            if 2 ^ 22 ≤ bits base.toNat 21 0 + off / 2 then
              .error (.trap cSPACE (effLocal s.cur.core 1 o.loc (base + BitVec.ofNat 64 (off / 2))) (memInfo 1 .read))
            else
              match s.elemLoad true 1 o.loc (2 * (base.toNat : Int) + (off : Nat)) sz with
              | .error t => .error t
              | .ok (v, ps, s1) => .ok ⟨some v, false, ps, s1⟩
          let hi := match s.cur.limit with | some m => Nat.max x.vsx (Nat.min m (K * n)) | none => K * n
          let q : Prep := { p with hi := hi, stop := if hi < K * n then some (hi, .preempt) else none }
          commitLoad o.slk q od o.fmt.val o.ar.val o.alg.val (K * n) x (fun q => memLoop x 0 f (q.hi - x.vsx) x.vsx [] [] [] q.s)

def execMld (o : MldOp) (s : State) : Out := vmexec o.slk (mldRes o false) s
/-- MLDP: sharing a fetch with its gang changes traffic and time alone (R260). -/
def execMldp (o : MldOp) (s : State) : Out := vmexec o.slk (mldRes o true) s

/-! ## MDRAIN and MFILL (R90, R262) -/

/-- Nine free bytes: the content of a cell that the tile does not have (log 22). -/
def State.freeCell (s : State) : Nat × State :=
  (leNat ((List.range 9).map (fun i => Config.freeByte (s.freeCtr + i))), { s with freeCtr := s.freeCtr + 9 })

/-- Cell (row i, column j) of the partition's rows. -/
def State.readCell (s : State) (t : Acc) (i j : Nat) : Nat × State :=
  if j < 64 then (Map.getD s.cells (cellKey t (s.physRow i) j) 0, s) else s.freeCell

/-- The value of a cell: k is the exponent of the anchor. -/
def cellValue (exact : Bool) (k : Int) (c : Nat) : XV :=
  if exact then
    match cellClass c with
    | 0 => let v := cellVal c; scaleBy (decide (v < 0)) v.natAbs k
    | 1 => .inf false
    | 2 => .inf true
    | _ => .nan false
  else (Fmt.flt 8 23).decode c

/-- Drain of one cell: the pattern, and whether INX is set. Log 39. -/
def drainCell (exact : Bool) (fa fb ft : Fmt) (mode : RMode) (draw c : Nat) : Nat × Nat :=
  let x := ((cellValue exact (fa.stepExp + fb.stepExp) c).scaleUp fa.scale).scaleUp fb.scale
  let r := roundTo ft mode draw x
  (r.1, if !x.isNan && !x.isInf && decide (r.2 ≠ 0) then accINX else 0)

/-- Drains component q, q + 1, … of one element. -/
def drainComps (acc : Acc) (f : Nat → Nat × Nat) (row col : Nat) : Nat → State → List Nat × Nat × State
  | 0, s => ([], 0, s)
  | n + 1, s =>
    let r := drainComps acc f row col n s
    let c := r.2.2.readCell acc row (col + n)
    let d := f c.1
    (r.1 ++ [d.1], r.2.1 ||| d.2, c.2)

/-- Drains elements e, e + 1, …, n of them; rows hold N elements. -/
def drainElems (acc : Acc) (draw : Nat → Nat) (f : Nat → Nat → Nat × Nat) (w c i0 N : Nat) :
    Nat → Nat → State → List (Option Nat) × Nat × State
  | 0, _, s => ([], 0, s)
  | n + 1, e, s =>
    let r := drainComps acc (f (draw e)) (c * (i0 + e / N)) (c * (e % N)) c s
    let t := drainElems acc draw f w c i0 N n (e + 1) r.2.2
    (some (packBits w r.1) :: t.1, r.2.1 ||| t.2.1, t.2.2)

def drainRes (o : DrainOp) (x : Strand) (s : State) : Res :=
  let c := 2 ^ o.ar.val
  let w := s.width o.t.val
  let sz := c * w
  let N := tshpN x.tshp
  let i0 := bits (x.rS o.b).toNat 7 0
  let R := bits (x.rS o.b).toNat 15 8
  if s.rndAllowed o.rnd.val = false then s.illegal
  else s.inMatrix (fun s =>
    match s.opd o.d.val sz sz with
    | none => s.illegal
    | some od =>
      if 8 * s.g < c * (i0 + R) ∨ s.groupCap o.t.val o.ar.val < R * N then s.illegal
      else
        match s.prep x x.vl [] (some od) [] false .step with
        | .error t => .stop t s
        | .ok p =>
          if s.tileBad (inRows o.acc (s.physRow (c * i0)) c R (c * N)) then s.uncorrReg else
          let f (draw cell : Nat) : Nat × Nat :=
            drainCell (s.exm o.acc) (s.fmtC o.fa.val) (s.fmtC o.fb.val) (s.fmtC o.t.val) (s.rmode o.rnd.val) draw cell
          let r := drainElems o.acc (srDraw x.seed x.sbase) f w c i0 N (R * N) 0 p.s
          commitAll s x { p with s := r.2.2.raiseAcc o.acc r.2.1 } od
            (fun s => s.writeGroup od o.t.val o.ar.val o.alg.val 0 (R * N) r.1 (fun _ => .gen)) 0)

def execMdrain (o : DrainOp) (s : State) : Out := vexec (drainRes o) s

/-- Fill: the cell of a value (R262). -/
def fillCell (exact : Bool) (v : Nat) : Nat := if exact then mkCell 0 (sintOf 64 v) else v % 2 ^ 32

/-- Fills component q of element e from a pattern; a column the tile does not have takes nothing. -/
def fillOne (acc : Acc) (exact : Bool) (row0 c w N e pat : Nat) (m : Map Nat) (q : Nat) : Map Nat :=
  let col := c * (e % N) + q
  if col < 64 then putCell m (cellKey acc (row0 + c * (e / N)) col) (fillCell exact (comp w q pat)) else m

def fillRes (o : FillOp) (x : Strand) (s : State) : Res :=
  let c := 2 ^ o.ar.val
  let w := s.width o.src.val
  let sz := c * w
  let N := tshpN x.tshp
  let i0 := bits (x.rS o.b).toNat 7 0
  let R := bits (x.rS o.b).toNat 15 8
  s.inMatrix (fun s =>
    match s.opd o.a.val sz sz with
    | none => s.illegal
    | some oa =>
      if 8 * s.g < c * (i0 + R) ∨ s.groupCap o.src.val o.ar.val < R * N then s.illegal
      else
        match s.prep x x.vl [oa] none [{ oa.want o.src.val o.ar.val with anyAlg := decide (c = 1) }] (decide (o.src.val ≠ (if s.exm o.acc then 8 else 1))) .step with
        | .error t => .stop t s
        | .ok p =>
          if c ≠ 1 ∧ (vget x.v oa.base).alg ≠ 0 then .stop (.trap cARITY 0 s.cur.word) s
          else
            match p.stop with
            | some (_, st) => squash s st
            | none =>
              if s.groupBad oa (List.range (R * N)) then s.uncorrReg else
              let m := (List.range (R * N)).foldl (fun m e => (List.range c).foldl
                (fillOne o.acc (s.exm o.acc) (s.physRow (c * i0)) c w N e (oa.get p.v e)) m) p.s.cells
              let t := p.s.setCells m
              let k := t.coreOf t.cur.core
              let t1 := t.setCore t.cur.core { k with badCells := k.badCells.filter (fun b => !inRows o.acc (s.physRow (c * i0)) c R (c * N) b) }
              .ok ((p.load none t1).passSlots p.slots))

def execMfill (o : FillOp) (s : State) : Out := vexec (fillRes o) s

/-! ## MSTAT and MSCL (R264, R265) -/

def execMstat (d : SReg) (acc : Acc) (clr : Bool) (s : State) : Out :=
  finish (s.inMatrix (fun s =>
    let v := s.accStat acc
    let s1 := if clr then s.setAcc acc (v / 8 * 8) else s
    .ok ((s1.wS d (BitVec.ofNat 64 v)).advance 8)))

/-- A cell times 2^n, with the flags of ACCSTAT. -/
def scaleCell (exact : Bool) (n : Int) (c : Nat) : Nat × Nat :=
  if exact then let r := satVal (cellVal c * (2 ^ n.toNat : Nat)); (mkCell (cellClass c) r.1, r.2)
  else
    let f : Fmt := .flt 8 23
    match f.decode c with
    | .fin sg a b k =>
      let x : XV := if 0 ≤ n then .fin sg (a * 2 ^ n.toNat) b k else .fin sg a (b * 2 ^ (-n).toNat) k
      let q := (roundTo f .rne 0 x).1
      (q, if (f.decode q).isInf then accOVF else 0)
    | _ => (c, 0)

def execMscl (acc : Acc) (a : SReg) (s : State) : Out :=
  let n := sintOf 8 (s.rS a).toNat
  finish (s.inMatrix (fun s =>
    if s.exm acc ∧ n < 0 then s.illegal
    else if s.tileBad (s.ownCell acc) then s.uncorrReg
    else
      let r := s.cells.foldl (fun (st : Map Nat × Nat) c =>
        if s.ownCell acc c.1 then
          let q := scaleCell (s.exm acc) n c.2
          (putCell st.1 c.1 q.1, st.2 ||| q.2)
        else st) (s.cells, 0)
      .ok (((s.setCells r.1).raiseAcc acc r.2).advance 8)))

/-! ## ALGLD (R92, R266) -/

/-- The table of an image; none: the image fails R92. Bits that R92 ignores are dropped. -/
def algOf (bs : List Byte) : Option Alg :=
  let b (i : Nat) : Nat := ((bs.drop i).head?.getD 0).toNat
  let ar := b 64 % 4
  let c := 2 ^ ar
  let used (i : Nat) : Bool := decide (i / 8 < c ∧ i % 8 < c)
  let bad (i : Nat) : Bool :=
    used i && (decide (b i / 8 % 4 = 2) || (decide (b i / 8 % 4 ≠ 0) && decide (c ≤ b i % 8)))
  if ar = 0 ∨ (List.range 64).any bad = true then none
  else some ⟨ar, b 65 % 2 ^ c, (List.range 64).map (fun i => if used i then b i % 32 else 0)⟩

def execAlgld (o : AlgldOp) (s : State) : Out :=
  let ea := s.rS o.a + sx o.disp
  finish (
    if s.feature 11 = false then s.illegal
    else if ea.toNat % 128 ≠ 0 then .stop (.trap cALIGN (effLocal s.cur.core o.sp.val o.loc ea) (memInfo o.sp.val .read)) s
    else
      match s.load true o.slk o.sp.val o.loc ea 128 with
      | .error t => .stop t s
      | .ok (bs, s1) =>
        match algOf bs with
        | none => s.illegal
        | some t =>
          let p := s1.myPart
          .ok ((s1.setPart s1.cur.pid { p with alg := p.alg.set o.n.val (some t) o.n.isLt }).advance (slackBytes o.slk)))

end Sys2Proof.Machine
end

