-- ==== Sys2Proof/Machine/System.lean ====
section
/-!
DEFINITION. Control registers, traps, events, feature words and translation invalidation (R66–R71, R191–R196, R334, R335, R409, R410,
R429), with the events EVENT_TAKEN, HALT_WAKE and TLBI_PERFORMED.
-/
namespace Sys2Proof.Machine

/-! ## Reading control registers (Tables 2.5, 2.6) -/

/-- STRM: BOUND, END, DIR and REG of each slot. -/
def strmWord (x : Strand) : Nat :=
  ((List.range 4).map (fun k =>
    match streamAt x.streams k with
    | none => 0
    | some t => (t.reg.val + 32 * b2n t.dir + 64 * b2n t.ended + 128) * 2 ^ (8 * k))).foldl (· + ·) 0

def thaWord (c : Cluster) : Nat := c.allow + 256 * c.ref + 65536 * c.temp

/-- THA of the strand's own cluster. -/
def State.tha (s : State) : Nat := thaWord (s.cluster (clusterOf s.cur.core))

/-- The value of a control register. VCP is the pc: instructions commit in order (log 4). -/
def State.readCreg (s : State) (n : Nat) : Word :=
  let x := s.me
  match n with
  | 0x00 => BitVec.ofNat 64 x.vl
  | 0x01 => BitVec.ofNat 64 x.vg
  | 0x02 => x.pc
  | 0x03 => BitVec.ofNat 64 x.vsx
  | 0x04 => BitVec.ofNat 64 x.rmode
  | 0x05 => BitVec.ofNat 64 x.fpflags
  | 0x06 => BitVec.ofNat 64 x.fpctl
  | 0x07 => BitVec.ofNat 64 x.nbr
  | 0x08 => BitVec.ofNat 64 (strmWord x)
  | 0x09 => x.seed
  | 0x0A => x.sbase
  | 0x0B => BitVec.ofNat 64 (x.mcntId * 2 ^ 48 + x.mcntOcc % 2 ^ 48)
  | 0x0C => BitVec.ofNat 64 x.slkctl
  | 0x0D => BitVec.ofNat 64 x.exs
  | 0x0E => x.ctb
  | 0x0F => x.tshp
  | 0x80 => BitVec.ofNat 64 ((s.pcore s.cur.pid s.cur.core).accst.get 0)
  | 0x81 => BitVec.ofNat 64 ((s.pcore s.cur.pid s.cur.core).accst.get 1)
  | 0x90 => BitVec.ofNat 64 s.tha
  | n =>
    if n < 0x18 then BitVec.ofNat 64 (x.slkt.toList.getD (n - 0x10) 0)
    else if n < 0x40 then s.myPart.fmt.toList.getD (n - 0x20) 0
    else x.cts.toList.getD (n - 0x40) 0

/-- MFS: every older instruction has committed (R71). -/
def execMfs (d : SReg) (creg : BitVec 12) (s : State) : Out := writeNext d (s.readCreg creg.toNat) 8 s

/-! ## Writing control registers (R67, R68, R70, R78) -/

/-- R78: values of FMTn that an MTS refuses. -/
def fmtValueOk (v : Word) : Bool :=
  let sc := narScale v
  decide (2 ≤ narW v ∧ narW v ≤ 8) && decide (narE v + narS v ≤ narW v) && decide (narSpec v ≠ 3)
    && (decide (narE v ≠ 0) || decide (narSpec v = 2))
    && (decide (narSpec v ≠ 0) || (decide (2 ≤ narE v) && decide (1 ≤ narM v)))
    && decide (sc / 2 ^ 31 = 0) && decide (0 < sc / 2 ^ 23 ∧ sc / 2 ^ 23 < 255)

/-- The fields of FMTn that hold a value: reserved bits read as 0 (R13). -/
def fmtMask : Word := 0xFFFFFFFFFF0FF00F

/-- Writing 1 to STRM.END of a slot clears it. -/
def clearEnds (x : Strand) (v : Nat) : Strand :=
  (List.range 4).foldl (fun x k =>
    match streamAt x.streams k with
    | none => x
    | some t => if v.testBit (8 * k + 6) then { x with streams := x.streams.setIfInBounds k (some { t with ended := false }) } else x) x

/-- The strand after an MTS of v to register n that is allowed; read-only registers keep their value. -/
def writeCreg (x : Strand) (n : Nat) (v : Nat) : Strand :=
  match n with
  | 0x03 => { x with vsx := v % 2 ^ 16 }
  | 0x04 => { x with rmode := v % 8 }
  | 0x05 => { x with fpflags := v % 32 }
  | 0x06 => { x with fpctl := v % 4 }
  | 0x07 => { x with nbr := v % 2 ^ 14 }
  | 0x08 => clearEnds x v
  | 0x09 => { x with seed := BitVec.ofNat 64 v }
  | 0x0A => { x with sbase := BitVec.ofNat 64 v }
  | 0x0C => { x with slkctl := v % 4 }
  | 0x0D => { x with exs := v % 2 ^ 32 }
  | n => if 0x10 ≤ n ∧ n < 0x18 then { x with slkt := x.slkt.setIfInBounds (n - 0x10) (v % 4096) } else x

/-- MTS. The instruction commits first, so that a value written to VSX is the start index of the next instruction. -/
def execMts (a : SReg) (creg : BitVec 12) (s : State) : Out :=
  let n := creg.toNat
  let v := s.rS a
  finish (
    if (n = 2 ∨ n = 3) ∧ s.me.mode = .user then .stop (.trap cPRIV 0 s.cur.word) s
    else if n = 4 ∧ 6 ≤ v.toNat % 8 then s.illegal
    else if 0x20 ≤ n ∧ n < 0x30 then
      if s.feature 8 = false ∨ fmtValueOk v = false then s.illegal
      else
        let p := s.myPart
        .ok ((s.setPart s.cur.pid { p with fmt := p.fmt.setIfInBounds (n - 0x20) (v &&& fmtMask) }).advance 8)
    else
      let s1 := s.advance 8
      .ok (s1.setMe (writeCreg s1.me n v.toNat)))

/-! ## SVC, BRK, ERET (R192, R407, R409) -/

def execSvc (code : BitVec 16) (s : State) : Out := finish (.stop (.trap cSVC 0 (zx code)) s)
def execBrk (code : BitVec 16) (s : State) : Out := finish (.stop (.trap cBRK 0 (zx code)) s)

/-- The 8-byte word at an offset of a record read as bytes. -/
def wordAt (bs : List Byte) (off : Nat) : Word := BitVec.ofNat 64 (leNat ((bs.drop off).take 8))

/-- The strand after ERET from the record's bytes. -/
def restoreRecord (x : Strand) (bs : List Byte) : Strand :=
  let y := (((x.wS 1 (wordAt bs 0x30)).wS 2 (wordAt bs 0x38)).wS 3 (wordAt bs 0x40)).wS 4 (wordAt bs 0x48)
  { y with
    vsx := (wordAt bs 0x20).toNat % 2 ^ 16
    mode := if (wordAt bs 0).getLsbD 8 then .supervisor else .user
    pc := alignTarget (wordAt bs 0x08) }

/-- ERET: the record is read as loads of the strand; then the return address is checked (R149, R157). -/
def eretRes (s : State) : Res :=
  match permit s s.who s.me.uid true 0 false s.recordVa 0x50 .read with
  | .error t => .stop t s
  | .ok (ps, s1) =>
    let r := loadPieces s1 ps
    match s.checkTarget (alignTarget (wordAt r.1 0x08)) with
    | some t => .stop t s
    | none => .ok ((r.2.setMe (restoreRecord r.2.me r.1)).request (.cls 0) ps false)

def execEret (s : State) : Out := finish (s.priv eretRes)

/-! ## FEATQ (R193, R334, R335, R438) -/

/-- Leaf 9: Fr and STOP of the running launch, or 0 where its sizes are not resolved. DESIGN CHOICE (log 75): a launch whose descriptor holds
FR = 0 is taken as one without resolved sizes, since no field says so (R334). -/
def State.leaf9 (s : State) : Nat :=
  match s.myLaunch with
  | some l => if l.fr = 0 then 0 else l.fr % 2 ^ 32 + 2 ^ 32 * (s.myCtx.stop % 2 ^ 32)
  | none => 0

def State.leaf (s : State) (n : Nat) : Word :=
  let v := s.vf s.myCtx.vfn
  match n with
  | 0 => BitVec.ofNat 64 v.leaf0
  | 1 => Config.leaf1 s.fw.image &&& v.mask1
  | 8 => BitVec.ofNat 64 (s.cur.core + 2 ^ 10 * s.cur.strand + 2 ^ 16 * s.g)
  | 9 => BitVec.ofNat 64 s.leaf9
  | _ => 0

def execFeatq (d : SReg) (leaf : Fin 64) (s : State) : Out := writeNext d (s.leaf leaf.val) 8 s

/-! ## TLBI (R194, R429) -/

/-- Does a TLBI of partition pid, issued in function vfn, remove this entry? -/
def tlbiHits (pid vfn kind page slot : Nat) (e : TlbEntry) : Bool :=
  if e.pid ≠ pid then false
  else
    match kind with
    | 0 => true
    | 1 =>
      decide (slot < 64) && (decide (e.page = page) || (e.big && decide (e.page / 8192 = page / 8192)))
        && (if e.glob then decide (e.vfn = vfn) else decide (e.slot = slot))
    | _ => !e.glob && decide (e.slot = slot)

/-- Removes the entries that hit from every TLB of the package. -/
def State.purgeTlb (s : State) (hit : TlbEntry → Bool) : State :=
  { s with
    cores := s.cores.map (fun c => (c.1, { c.2 with tlb := c.2.tlb.filter (fun e => !hit e) }))
    clusters := s.clusters.map (fun c => (c.1, { c.2 with tlb := c.2.tlb.filter (fun e => !hit e) })) }

/-- No strand of the partition holds a store that it translated before, and no transfer part of a block (R272). -/
def State.storesDone (s : State) (pid : Nat) : Bool :=
  s.strands.all (fun c => decide (c.2.stores = []) || decide (ownerOf s.parts (c.1 / 8) (c.1 % 8) ≠ some pid))
    && s.xfers.all (fun c => decide (c.2.held = [] ∨ c.2.pid ≠ pid))

/-- TLBI removes the entries and drains the strand's stores; it is performed once no store translated before is left, and until
then the strand waits. -/
def execTlbi (a b : SReg) (kind scope : Fin 8) (s : State) : Out :=
  let _ := scope
  finish (s.priv (fun s =>
    let hit := tlbiHits s.cur.pid s.myCtx.vfn kind.val ((s.rS a).toNat / 65536) (s.rS b).toNat
    let s1 := s.drain.purgeTlb hit
    if s1.storesDone s1.cur.pid then .ok (s1.advance 8) else .wait .tlbi s1))

def execTlbiPerformed (core strand : Nat) (s : State) : Out :=
  let x := s.strand core strand
  if x.run = .waiting .tlbi ∧ s.storesDone ((ownerOf s.parts core strand).getD 0) = true then
    .next (s.setStrand core strand { x with pc := x.pc + 8, vsx := 0, run := .ready, readyAt := s.now })
  else .next s

/-! ## Events (R196, R410) -/

/-- Pending and enabled (R196). -/
def Strand.slackexDue (x : Strand) : Bool := x.pendSlackex && x.slkctl.testBit 0
def Strand.thermalDue (x : Strand) : Bool := x.pendThermal && x.slkctl.testBit 1
def Strand.eventDue (x : Strand) : Bool := x.slackexDue || x.thermalDue

def execEvack (cause : BitVec 8) (s : State) : Out :=
  let x := s.me
  let y := if cause.toNat = cSLACKEX then { x with pendSlackex := false } else { x with pendThermal := false }
  .next ((s.setMe y).advance 8)

/-- HALT: the strand stops at pc + 8, unless an enabled event is pending already. -/
def execHalt (s : State) : Out :=
  finish (s.priv (fun s =>
    let s1 := s.drain.advance 8
    .ok (if s1.me.eventDue then s1 else s1.setMe { s1.me with run := .halted })))

/-- A halted strand resumes: an enabled event has become pending, or the hypervisor restarts it. A strand halted because its
launch was stopped does not. Log 48. -/
def execHaltWake (core strand : Nat) (s : State) : Out :=
  let x := s.strand core strand
  let dead := match x.task with
    | some t => (match s.launchOf t.vfn t.seq with | some l => l.stopped | none => false)
    | none => false
  .next (if x.run = .halted ∧ dead = false then s.wake core strand else s)

/-- A strand at a trap point that goes on from there: it issues, or waits for anything but its pre-emption. -/
def Run.live : Run → Bool
  | .ready => true
  | .waiting w => decide (w ≠ .s2stop)
  | .idle => false
  | .halted => false
  | .exited => false

/-- The first word at pc, 0 where it cannot be fetched. -/
def State.peekWord (s : State) : Nat :=
  match s.fetchWord s.me.pc with
  | .ok (w, _) => w
  | .error _ => 0

/-- The strand no longer waits for matrix mode (its MMODE.enter is executed again). -/
def State.leaveQueue (s : State) : State :=
  let c := s.pcore s.cur.pid s.cur.core
  if c.mmWait.contains s.cur.strand then
    s.setPCore s.cur.pid s.cur.core { c with mmWait := c.mmWait.filter (· ≠ s.cur.strand) }
  else s

/-- A pending enabled event is taken in user mode, SLACKEX first; EPC is the oldest uncommitted instruction: a load whose data have not
arrived is squashed (R411, R412). -/
def execEventTaken (core strand : Nat) (s : State) : Out :=
  let s := s.squash core strand
  let x := s.strand core strand
  if x.mode = .user ∧ x.run.live = true ∧ x.eventDue = true then
    let s0 := match x.run with
      | .waiting (.yield _ _) => s
      | _ => s.wake core strand
    let s1 := s0.actAs core strand
    let s2 := { s1 with cur := { s1.cur with word := BitVec.ofNat 64 s1.peekWord } }
    let s3 := s2.leaveQueue
    .next (if x.slackexDue then s3.takeTrap cSLACKEX x.pc 0 (BitVec.ofNat 64 x.exs) true
      else s3.takeTrap cTHERMAL x.pc 0 (BitVec.ofNat 64 s3.tha) true)
  else .next s

end Sys2Proof.Machine
end

