-- ==== Sys2Proof/Machine/Launch.lean ====
section
/-!
DEFINITION. Launches (R31–R41, R367–R376, R393–R399): distributors, admission of groups, task start, EXIT, retirement and stop.
-/
namespace Sys2Proof.Machine

/-! ## Units and ranges (R32, R33, R38) -/

/-- The unit of a launch that a core lies in: the core, or its cluster. -/
def Launch.unitOf (l : Launch) (core : Nat) : Nat := if l.level = 1 then core else clusterOf core
/-- The die of a unit. -/
def Launch.dieOfUnit (l : Launch) (unit : Nat) : Nat :=
  if l.level = 1 then dieOf unit else unit % 8 / 4 + 2 * (unit / 8 / 3)
/-- The partition's cores in a unit, in increasing order. -/
def Launch.coresOf (l : Launch) (p : Part) (unit : Nat) : List Nat := p.cores.filter (fun c => decide (l.unitOf c = unit))
/-- The unit that works on a SERIAL launch (R376): the lowest one; with S = 1 that of the partition's lowest core. -/
def Launch.lowest (l : Launch) (p : Part) : Nat :=
  if l.size = 1 then l.unitOf (p.cores.headD 0)
  else (p.cores.map l.unitOf).foldl (fun m u => match m with | none => some u | some v => some (Nat.min v u)) none |>.getD 0

def Launch.total (l : Launch) : Nat := l.n0 * l.n1 * l.n2
/-- The indices of a range, and of a group: first and one past the last. -/
def Launch.rangeEnd (l : Launch) (r : Nat) : Nat := Nat.min ((r + 1) * l.z) l.total
def Launch.groupEnd (l : Launch) (j : Nat) : Nat := Nat.min (j * l.size + l.size) l.total

def State.setLaunch (s : State) (vfn seq : Nat) (l : Launch) : State := { s with launches := Map.set s.launches (lkey vfn seq) l }

/-- A launch that is DISPATCHED, whose context runs, and that nothing stops. -/
def State.liveLaunch (s : State) (vfn seq : Nat) : Option Launch :=
  match s.launchOf vfn seq, (s.vf vfn).entry seq with
  | some l, some e =>
    let p := s.part l.pid
    if e.state = .dispatched ∧ l.stopped = false ∧ l.fenceFail = false ∧ p.running = some l.slot ∧ p.preempting = false then some l
    else none
  | _, _ => none

/-- The upper half of a list, rounded up, and what is left. -/
def upperHalf (rs : List Nat) : List Nat × List Nat :=
  let keep := rs.length - (rs.length + 1) / 2
  (rs.drop keep, rs.take keep)

def distAt (ds : List Dist) (t : Nat) : Dist := ds.getD t ⟨0, [], 0, 0⟩

/-- The victim of R39: the most unassigned ranges, ties to the lower die. -/
def busiest (ds : List Dist) : Option Nat :=
  let best := (List.range ds.length).foldl (fun m k =>
    match m with
    | none => if (distAt ds k).ranges = [] then none else some k
    | some j => if (distAt ds j).ranges.length < (distAt ds k).ranges.length then some k else some j) none
  best

/-- The victim of R368 for distributor t, at STEALK. -/
def detVictim (ds : List Dist) (t stealk : Nat) : Option Nat :=
  let D := ds.length
  let d := distAt ds t
  if stealk = 0 ∨ d.retiredRanges < stealk then none
  else
    ((List.range (D - 1)).map (fun m => (t + 1 + (d.steals + m) % (D - 1)) % D)).find? (fun v => decide ((distAt ds v).ranges ≠ []))

/-- Distributor t after it has stolen from v. -/
def steal (ds : List Dist) (t v : Nat) : List Dist :=
  let h := upperHalf (distAt ds v).ranges
  let ds1 := ds.set v { distAt ds v with ranges := h.2 }
  ds1.set t { distAt ds t with ranges := h.1, steals := (distAt ds t).steals + 1 }

/-- The distributor that serves a unit; a SERIAL launch has one (R376). Log 52. -/
def Launch.distFor (l : Launch) (unit : Nat) : Nat :=
  if l.serial then 0 else (l.dists.findIdx (fun d => decide (d.die = l.dieOfUnit unit)))

/-- The distributors after a steal, if one is needed and allowed. -/
def Launch.refill (l : Launch) (t : Nat) : List Dist :=
  if (distAt l.dists t).ranges ≠ [] ∨ l.serial = true then l.dists
  else
    match (if l.det then detVictim l.dists t l.stealk else busiest l.dists) with
    | none => l.dists
    | some v => if v = t then l.dists else steal l.dists t v

/-- RANGE_REQUEST: a unit that works on no range requests one; without one it waits. -/
def execRangeRequest (vfn seq unit : Nat) (s : State) : HostOut :=
  match s.liveLaunch vfn seq with
  | none => .next s
  | some l =>
    let p := s.part l.pid
    let u := Map.getD l.units unit ⟨none, 0, false⟩
    let t := l.distFor unit
    if l.coresOf p unit = [] ∨ u.range.isSome ∨ (l.serial = true ∧ unit ≠ l.lowest p) ∨ l.dists.length ≤ t then .next s
    else
      let ds := l.refill t
      match (distAt ds t).ranges with
      | [] => .next (s.setLaunch vfn seq { l with dists := ds, units := Map.set l.units unit ⟨none, 0, true⟩ })
      | r :: rs =>
        .next (s.setLaunch vfn seq { l with
          dists := ds.set t { distAt ds t with ranges := rs }
          units := Map.set l.units unit ⟨some r, r * l.z / l.size, false⟩ })

/-! ## Admission and task start (R33, R34, R393, R394) -/

/-- A strand that can take a task. -/
def Strand.free (x : Strand) : Bool := decide (x.run = .idle) && x.task.isNone

/-- The free strands of a unit, by core and strand number; a SERIAL launch of S = 1 uses one strand (R376). -/
def State.freeStrands (s : State) (l : Launch) (unit : Nat) : List (Nat × Nat) :=
  let p := s.part l.pid
  let all := (l.coresOf p unit).flatMap (fun c => (List.range p.g).map (fun k => (c, p.k0 c + k)))
  let all := if l.serial && decide (l.size = 1) then (match p.cores with | [] => [] | c :: _ => [(c, p.k0 c)]) else all
  all.filter (fun c => (s.strand c.1 c.2).free)

/-- Keys of the strands that hold a task of a launch. -/
def State.residents (s : State) (vfn seq : Nat) : List Nat :=
  (s.strands.filter (fun c => match c.2.task with
    | some t => decide (t.vfn = vfn ∧ t.seq = seq)
    | none => false)).map (·.1)

/-- The tasks of a launch that are saved with a context (R303, R396). -/
def State.savedTasks (s : State) (vfn seq : Nat) : List Held :=
  s.parts.flatMap (fun p => p.2.ctxs.flatMap (fun c => c.2.held.filter (fun h => decide (h.task.vfn = vfn ∧ h.task.seq = seq))))

/-- The launch has groups for a unit of the partition: those of its range, or of one that it would be handed. -/
def Launch.hasGroups (l : Launch) (p : Part) (unit : Nat) : Bool :=
  ((Map.get? l.units unit).bind (·.range)).isSome
    || ((!l.serial || decide (unit = l.lowest p)) && decide ((distAt (l.refill (l.distFor unit)) (l.distFor unit)).ranges ≠ []))

/-- PRIO with which a launch was accepted (R384). -/
def State.prioOf (s : State) (vfn seq : Nat) : Nat := (((s.vf vfn).entry seq).map (·.prio)).getD 0

/-- Another launch of the partition's context with a group to place on these cores goes first: by PRIO, then by number (R393). Log 51. -/
def State.outranked (s : State) (vfn seq : Nat) (l : Launch) (cores : List Nat) : Bool :=
  s.launches.any (fun c =>
    let vfn2 := c.1 % 1024
    let seq2 := c.1 / 1024
    decide (c.1 ≠ lkey vfn seq) && decide (c.2.pid = l.pid) && (s.liveLaunch vfn2 seq2).isSome
      && ((cores.map c.2.unitOf).eraseDups).any (c.2.hasGroups (s.part l.pid))
      && (let a := s.prioOf vfn2 seq2
          let b := s.prioOf vfn seq
          decide (b < a) || (decide (a = b) && decide (seq2 < seq))))

/-- The scalar registers at task start (Table 1.3). -/
def taskRegs (l : Launch) (idx grp rank : Nat) : Vector Word 64 :=
  let w (n : Nat) : Word := BitVec.ofNat 64 n
  let r0 := Vector.replicate 64 0
  let r1 := ((((r0.set 3 (w idx)).set 4 (w (idx % l.n0))).set 5 (w (idx / l.n0 % l.n1))).set 6 (w (idx / l.n0 / l.n1))).set 7 (w grp)
  ((((r1.set 8 (w rank)).set 9 (w l.n0)).set 10 (w l.n1)).set 11 (w l.n2)).set 12 (w l.size)

/-- A strand that starts a task: Table 1.3, and creation values elsewhere. The mark queue stays (R346), and so do a bias and a priority
performed since the end of the task before (R358). Log 54. -/
def taskStrand (old : Strand) (vfn seq : Nat) (l : Launch) (g uid idx grp rank : Nat) : Strand :=
  { Strand.reset with
    s := taskRegs l idx grp rank
    pc := l.entry
    vl := 64 * g
    marks := old.marks
    bias := old.bias
    prio := old.prio
    run := .ready
    task := some ⟨vfn, seq, idx, idx % l.n0, idx / l.n0 % l.n1, idx / l.n0 / l.n1, grp, rank⟩
    uid := uid }

/-- An advice context as it is bound to a pricking: idle, its registers zero (R348); its counters stay (R366). -/
def Advice.rebind (a : Advice) (bound : Nat) : Advice :=
  { a with bound := bound, h := Vector.replicate 16 0, apc := 0, cur := ⟨0, 0, 0, 0, 0, 0⟩, stale := false, run := .idle, pfInFlight := [], pins := [] }

/-- The pins of an advice context end; a line that another context of the cluster has pinned stays so. -/
def State.dropPins (s : State) (pid core : Nat) : State :=
  let n := clusterOf core
  let cl := s.cluster n
  let others (k : Nat) : Bool := s.pcores.any (fun c =>
    decide (c.1 ≠ pid * 1024 + core ∧ clusterOf (c.1 % 1024) = n) && c.2.adv.pins.contains k)
  let pins := (s.pcore pid core).adv.pins
  if pins.isEmpty then s
  else s.setCluster n { cl with lines := (pins.filter (fun k => !others k)).foldl (fun m k => setClass m k 0) cl.lines }

/-- The advice context of a partition on a core, reset and bound to a pricking; every bias and priority there is 0 (R348). -/
def State.resetAdvice (s : State) (pid core prick : Nat) : State :=
  let s0 := s.dropPins pid core
  let c := s0.pcore pid core
  let s1 := s0.setPCore pid core { c with adv := c.adv.rebind (if (Map.get? s.pricks prick).isSome then prick else 0) }
  let p := s.part pid
  (List.range p.g).foldl (fun s k =>
    let j := p.k0 core + k
    s.setStrand core j { s.strand core j with bias := 0, prio := 0 }) s1

/-- The advice context of a partition on a core ends: its pins, its per-strand state and its registers are discarded (R348, R363). -/
def State.endAdvice (s : State) (pid core : Nat) : State :=
  let s1 := s.resetAdvice pid core 0
  let c := s1.pcore pid core
  s1.setPCore pid core { c with adv := { c.adv with run := .ended } }

/-- A task starts on a strand. An entry point that is a continuation raises BTARGET there (R157). -/
def State.startTask (s : State) (vfn seq : Nat) (l : Launch) (core k idx grp rank : Nat) : State :=
  let uid := s.fresh
  let x := { taskStrand (s.strand core k) vfn seq l (s.part l.pid).g uid idx grp rank with readyAt := s.now }
  let s1 := { s.setStrand core k x with
    fresh := uid + 1
    agents := Map.set s.agents uid (s.taskAgent l core k uid) }
  let s2 := s1.actAs core k
  match s2.fetchWord l.entry with
  | .ok (w, _) =>
    if bits w 63 62 = 3 then { s2 with cur := { s2.cur with word := BitVec.ofNat 64 w } }.takeStop (.trap cBTARGET l.entry (BitVec.ofNat 64 w))
    else s1
  | .error _ => s1

/-- The tasks of a group start together, rank r on the r-th of the places. -/
def State.startTasks (s : State) (vfn seq : Nat) (l : Launch) (grp base : Nat) : Nat → List (Nat × Nat) → State
  | _, [] => s
  | rank, (c, k) :: ps => (s.startTask vfn seq l c k (base + rank) grp rank).startTasks vfn seq l grp base (rank + 1) ps

/-- The first task of a launch on a core resets the advice context there. -/
def State.touchCores (s : State) (vfn seq : Nat) (l : Launch) (cs : List Nat) : State :=
  let news := (cs.eraseDups).filter (fun c => !l.started.contains c)
  (news.foldl (fun s c => s.resetAdvice l.pid c l.prick) s).setLaunch vfn seq { l with started := l.started ++ news }

/-- GROUP_ADMIT: the next group of the unit's range, when S strands of the unit are free. -/
def execGroupAdmit (vfn seq unit : Nat) (s : State) : HostOut :=
  match s.liveLaunch vfn seq with
  | none => .next s
  | some l =>
    let p := s.part l.pid
    let u := Map.getD l.units unit ⟨none, 0, false⟩
    match u.range with
    | none => .next s
    | some r =>
      let places := s.freeStrands l unit
      if places.length < l.size ∨ s.outranked vfn seq l (l.coresOf p unit) = true ∨ (l.serial = true ∧ s.residents vfn seq ≠ []) then
        .next s
      else
        let j := u.nextGrp
        let last := decide (l.rangeEnd r ≤ l.groupEnd j)
        let u1 : LUnit := ⟨if last then none else some r, j + 1, false⟩
        let ps := places.take (l.groupEnd j - j * l.size)
        let s1 := s.touchCores vfn seq { l with units := Map.set l.units unit u1 } (ps.map (·.1))
        .next ({ s1.startTasks vfn seq l j (j * l.size) 0 ps with cur := s.cur })

/-! ## EXIT (R35, R373) -/

/-- All of a range has retired: its die counts it, and the units there that wait request again (R368). -/
def Launch.countRange (l : Launch) (core idx : Nat) : Launch :=
  let r := idx / l.z
  let lo := r * l.z
  if (List.range (l.rangeEnd r - lo)).all (fun i => (Map.get? l.retired (lo + i)).isSome) then
    { l with
      dists := l.dists.map (fun d => if d.die = dieOf core ∨ l.serial = true then { d with retiredRanges := d.retiredRanges + 1 } else d)
      units := l.units.map (fun u => if l.dieOfUnit u.1 = dieOf core then (u.1, { u.2 with waiting := false }) else u) }
  else l

/-- The strands of a task's group. -/
def State.groupKeys (s : State) (t : Task) : List Nat :=
  (s.strands.filter (fun c => match c.2.task with
    | some u => decide (u.vfn = t.vfn ∧ u.seq = t.seq ∧ u.grp = t.grp)
    | none => false)).map (·.1)

/-- Once every task of the group has executed EXIT, its strands are free. -/
def State.freeGroup (s : State) (t : Task) : State :=
  let ks := s.groupKeys t
  if ks.all (fun k => decide ((s.strand (k / 8) (k % 8)).run = .exited)) then
    ks.foldl (fun s k => s.setStrand (k / 8) (k % 8) { s.strand (k / 8) (k % 8) with run := .idle, task := none }) s
  else s

/-- The acting strand's task retires. -/
def State.retireTask (s : State) : State :=
  match s.me.task with
  | none => s.setMe { s.me with run := .idle }
  | some t =>
    let s1 :=
      match s.launchOf t.vfn t.seq with
      | none => s
      | some l =>
        let l1 := { l with retired := Map.set l.retired t.t s.me.digest }
        s.setLaunch t.vfn t.seq (l1.countRange s.cur.core t.t)
    (s1.setMe { s1.me with run := .exited, bias := 0, prio := 0 }).freeGroup t

/-- EXIT waits for the strand's transfers; its stores are performed first. -/
def execExit (s : State) : Out :=
  let s0 := s.drain
  finish (
    if s0.outstanding s0.me.uid ≠ 0 then .wait .exit s0
    else
      let s1 := (s0.leaveMatrix).sync 3
      let s2 := s1.setMe { s1.me with inbox := [], binds := Vector.replicate 16 none }
      .ok ((s2.advance 8).retireTask))

/-! ## Retirement (R374, R375, R396) -/

/-- D of R374 over the digests in index order. -/
def launchDigest (ds : Map Word) : Word := ds.foldl (fun d c => mix (d ^^^ c.2)) 0

/-- A transfer of the launch is not complete. -/
def State.launchMoves (s : State) (vfn seq : Nat) : Bool :=
  s.xfers.any (fun c => !c.2.complete && (match c.2.task with
    | some t => decide (t.vfn = vfn ∧ t.seq = seq)
    | none => false))

/-- RES of an entry. -/
def State.setRes (s : State) (vfn seq : Nat) (d : Word) : State :=
  match (s.vf vfn).entry seq with
  | none => s
  | some e => s.setVf vfn ((s.vf vfn).putEntry { e with res := d })

/-- The DONE write, by an STL of domain scope (R396); an address that does not translate is counted. -/
def State.doneWrite (s : State) (l : Launch) : State :=
  if l.doneFlag then
    match s.hostWrite l.pid l.slot l.doneAddr (leBytes 8 l.doneVal.toNat) with
    | some s1 => s1
    | none => { s with tele := { s.tele with doneFails := s.tele.doneFails + 1 } }
  else s

/-- A launch has ended: on its cores, where no other launch of its context has a task started, the advice context has ended (R348).
Log 54. -/
def State.closeAdvice (s : State) (vfn seq : Nat) (l : Launch) : State :=
  let others := s.launches.filter (fun c =>
    decide (c.1 ≠ lkey vfn seq ∧ c.2.pid = l.pid ∧ c.2.slot = l.slot) && (s.liveLaunch (c.1 % 1024) (c.1 / 1024)).isSome)
  if (s.part l.pid).running ≠ some l.slot then s
  else
    (l.started.filter (fun k => !others.any (fun c => c.2.started.contains k))).foldl (fun s k =>
      s.setPCore l.pid k { s.pcore l.pid k with adv := { (s.pcore l.pid k).adv with run := .ended } }) s

/-- LAUNCH_RETIRE. -/
def execLaunchRetire (vfn seq : Nat) (s : State) : HostOut :=
  match s.launchOf vfn seq, (s.vf vfn).entry seq with
  | some l, some e =>
    if e.state ≠ .dispatched ∨ l.stopped = true ∨ s.residents vfn seq ≠ [] ∨ s.savedTasks vfn seq ≠ []
        ∨ s.launchMoves vfn seq = true then .next s
    else if l.fenceFail then .next ((s.finalise vfn seq .failed 0x07).closeAdvice vfn seq l)
    else if l.retired.length < l.total then .next s
    else
      let D := if l.det then launchDigest l.retired else 0
      let s1 := s.setRes vfn seq D
      if l.det && l.digv && decide (D ≠ l.digest) then
        let p := s1.part l.pid
        .next (((s1.setPart l.pid { p with digestFails := p.digestFails + 1 }).finalise vfn seq .failed 0x08).closeAdvice vfn seq l)
      else .next (((s1.doneWrite l).finalise vfn seq .retired 0).closeAdvice vfn seq l)
  | _, _ => .next s

/-! ## Stop (R399) -/

/-- A resident task stops: committed stores are performed, matrix mode passes on, and its state is discarded. -/
def State.killStrand (s : State) (key : Nat) : State :=
  let s1 := s.actAs (key / 8) (key % 8)
  let s2 := (s1.drain.leaveMatrix).leaveQueue
  s2.setMe { Strand.reset with marks := s2.me.marks }

/-- The transfers of a launch. -/
def State.launchXfers (s : State) (vfn seq : Nat) : List (Nat × Xfer) :=
  s.xfers.filter (fun c => match c.2.task with
    | some t => decide (t.vfn = vfn ∧ t.seq = seq)
    | none => false)

/-- The innermost iterations in flight of run tid end, and the chunks in flight of a COPY (R303): those whose 32-byte blocks later
chunks complete. A chunk that stops at a stage-2 fault stays. -/
def State.finishRun (s : State) (tid : Nat) : Nat → State
  | 0 => s
  | n + 1 =>
    match Map.get? s.xfers tid with
    | none => s
    | some t =>
      if (t.slot.isSome ∨ t.held ≠ []) ∧ t.running = true ∧ t.next < t.emitted * copyChunks t.x then
        match execChunkWritten tid s with
        | .next s1 => if Map.get? s1.xfers tid = some t then s1 else s1.finishRun tid n
        | _ => s
      else s

/-- The same, for as long as it takes. -/
def State.endIteration (s : State) (tid : Nat) : State :=
  s.finishRun tid (((Map.get? s.xfers tid).map (fun x => 2 * copyChunks x.x)).getD 0)

/-- A transfer ends with CODE 0xF1 and its final arrival. -/
def State.killXfer (s : State) (tid : Nat) : State :=
  let s1 := s.stopXfer tid 0xF1 false
  match Map.get? s1.xfers tid with
  | none => s1
  | some t => if t.complete then s1 else s1.complete tid t

/-- A collective ends with CODE 0xF1. -/
def State.killColl (s : State) (cid : Nat) : State :=
  match Map.get? s.colls cid with
  | none => s
  | some c => if c.done.isSome then s else s.endColl cid c 0xF1 0

/-- The stopped tasks' agents and their regions are discarded with their state. Log 53. -/
def State.dropAgents (s : State) (ids : List Nat) : State :=
  { s with
    foot := s.foot.filter (fun f => !ids.contains f.uid)
    agents := s.agents.filter (fun c => !ids.contains c.1)
    xfers := s.xfers.filter (fun c => !ids.contains c.1)
    colls := s.colls.filter (fun c => !ids.contains c.1) }

/-- The engines of a launch's tasks stop, runs at iteration boundaries; its resident tasks are discarded. What is saved with a context
stopped before; its transfers end as the context is restored. Log 53. -/
def State.stopTasks (s : State) (vfn seq : Nat) : State :=
  let keys := s.residents vfn seq
  let uids := keys.map (fun k => (s.strand (k / 8) (k % 8)).uid)
  let saved := (s.savedTasks vfn seq).map (·.uid)
  let ts := ((s.launchXfers vfn seq).filter (fun c => s.present c.2)).map (·.1)
  let cs := (s.colls.filter (fun c => uids.contains c.2.uid || saved.contains c.2.uid)).map (·.1)
  let s0 := ts.foldl State.endIteration s
  let s1 := ts.foldl State.killXfer s0
  let s2 := cs.foldl State.killColl s1
  { (keys.foldl State.killStrand s2).dropAgents (uids ++ ts ++ cs) with cur := s.cur }

/-- LAUNCH_STOP: every engine has stopped. A task killed after an unhandled fault fails its launch, any other stop aborts it. -/
def execLaunchStop (vfn seq : Nat) (s : State) : HostOut :=
  match s.launchOf vfn seq, (s.vf vfn).entry seq with
  | some l, some e =>
    if l.stopped = true ∧ e.state = .dispatched then
      .next (((s.stopTasks vfn seq).finalise vfn seq (if l.stopCause = 0x0B then .failed else .aborted) l.stopCause).closeAdvice vfn seq l)
    else .next s
  | _, _ => .next s

end Sys2Proof.Machine
end

