-- ==== Sys2Proof/Machine/Image.lean ====
section
/-!
DEFINITION. The context image (R58, R415–R418): its bytes, and how they are read back. Where the manual names what a part
holds but not where each bit lies (stream, sequencer, collective and transfer records, strip headers), log 42 gives the places.
-/
namespace Sys2Proof.Machine

/-! ## Bytes -/

def w8 (n : Nat) : List Byte := leBytes 8 n
def roundUp64 (n : Nat) : Nat := (n + 63) / 64 * 64
/-- Zeros up to n bytes. -/
def padTo (n : Nat) (bs : List Byte) : List Byte := bs ++ List.replicate (n - bs.length) 0
def pad64 (bs : List Byte) : List Byte := padTo (roundUp64 bs.length) bs
/-- The 8-byte word number i of a list. -/
def word8 (bs : List Byte) (i : Nat) : Nat := numAt bs (8 * i) 8
/-- The same as a Word. -/
def wordOf (bs : List Byte) (i : Nat) : Word := BitVec.ofNat 64 (word8 bs i)

/-! ## Vector registers (R58) -/

/-- Bytes of the data that a tag describes. -/
def tagBytes (fmts : Vector Word 16) (tag : Nat) : Nat :=
  match bits tag 9 8 with
  | 0 => 0
  | 1 => 8
  | 2 => 16
  | _ => (bits tag 28 16 * 2 ^ bits tag 11 10 * codeWidth fmts (bits tag 5 0) + 7) / 8

def VReg.image (fmts : Vector Word 16) (r : VReg) : List Byte :=
  match r.shape with
  | .undef => []
  | .uniform => w8 r.base
  | .affine => w8 r.base ++ w8 r.stride
  | .general => leBytes (tagBytes fmts r.tag) r.bits

def codeShape : Nat → Shape
  | 0 => .undef
  | 1 => .uniform
  | 2 => .affine
  | _ => .general

/-- The register that a tag and its data give. -/
def readVReg (fmts : Vector Word 16) (tag : Nat) (bs : List Byte) : VReg :=
  let sh := codeShape (bits tag 9 8)
  ⟨bits tag 28 16, bits tag 13 12, bits tag 11 10, sh, bits tag 5 0,
    (if sh = .uniform ∨ sh = .affine then word8 bs 0 else 0), (if sh = .affine then word8 bs 1 else 0),
    (if sh = .general then leNat (bs.take (tagBytes fmts tag)) else 0)⟩

def readVRegs (fmts : Vector Word 16) : List Nat → List Byte → List VReg
  | [], _ => []
  | t :: ts, bs => readVReg fmts t bs :: readVRegs fmts ts (bs.drop (tagBytes fmts t))

/-! ## Streams, strips, collectives -/

def Stream.image (t : Option Stream) : List Byte :=
  padTo 64 (match t with
    | none => []
    | some t =>
      w8 (1 + 2 * b2n t.dir + 4 * b2n t.loc + 8 * b2n t.ended + 16 * t.sp + 64 * t.reg.val + 2 ^ 11 * t.ar + 2 ^ 13 * t.fmt
          + 2 ^ 19 * t.clen + 2 ^ 32 * t.slit)
        ++ w8 t.base.toNat ++ w8 t.stride.toNat ++ w8 t.count ++ w8 t.pos ++ w8 t.fetched)

def readStream (bs : List Byte) : Option Stream :=
  let w := word8 bs 0
  if w.testBit 0 then
    some ⟨Fin.ofNat 32 (bits w 10 6), w.testBit 1, bits w 5 4, w.testBit 2, wordOf bs 1, wordOf bs 2, bits w 31 19, word8 bs 3,
      bits w 18 13, bits w 12 11, bits w 43 32, word8 bs 4, w.testBit 3, word8 bs 5⟩
  else none

/-- Bytes of one vector register at g lane groups. -/
def vlBytes (g : Nat) : Nat := 256 * g

def Strip.image (g : Nat) (t : Strip) : List Byte :=
  padTo 64 (w8 (t.fmt + 0x300 + 1024 * t.ar) ++ w8 t.vg ++ w8 t.len) ++ t.regs.flatMap (fun r => leBytes (vlBytes g) r.bits)

/-- Bytes of the strip whose header stands first. -/
def stripBytes (g : Nat) (bs : List Byte) : Nat := 64 + 2 ^ bits (word8 bs 1) 1 0 * vlBytes g

def readStrip (fmts : Vector Word 16) (g : Nat) (bs : List Byte) : Strip :=
  let fmt := bits (word8 bs 0) 5 0
  let ar := bits (word8 bs 0) 11 10
  let vg := bits (word8 bs 1) 1 0
  let len := word8 bs 2
  let sz := 2 ^ ar * codeWidth fmts fmt
  let per := 2048 * g / sz
  ⟨vg, fmt, ar, len, (List.range (2 ^ vg)).map (fun k =>
    let n := Nat.min per (len - k * per)
    ⟨n, 0, ar, .general, fmt, 0, 0, leNat ((bs.drop (64 + k * vlBytes g)).take (vlBytes g)) % 2 ^ (sz * n)⟩)⟩

def readStrips (fmts : Vector Word 16) (g : Nat) : Nat → List Byte → List Strip
  | 0, _ => []
  | n + 1, bs => readStrip fmts g bs :: readStrips fmts g n (bs.drop (stripBytes g bs))

def stripsBytes (g : Nat) : Nat → List Byte → Nat
  | 0, _ => 0
  | n + 1, bs => stripBytes g bs + stripsBytes g n (bs.drop (stripBytes g bs))

def Coll.image (c : Option Coll) : List Byte :=
  padTo 64 (match c with
    | none => []
    | some c =>
      w8 (1 + 2 * b2n c.done.isSome + 4 * c.kind + 16 * c.rop + 128 * c.fmt + 2 ^ 13 * c.grp) ++ w8 c.n ++ w8 c.src.toNat
        ++ w8 c.dst.toNat ++ w8 (match c.done with | some d => d.1 + 256 * d.2 | none => 0) ++ w8 c.slack)

/-- The collective of a slot's 64 bytes, of the context in slot ctx. -/
def readColl (uid core k pid ctx slot : Nat) (bs : List Byte) : Option Coll :=
  let w := word8 bs 0
  if w.testBit 0 then
    some ⟨uid, core, k, pid, slot, bits w 3 2, bits w 6 4, bits w 12 7, bits w 21 13, word8 bs 1, wordOf bs 2, wordOf bs 3,
      if w.testBit 1 then some (bits (word8 bs 4) 7 0, bits (word8 bs 4) 15 8) else none, word8 bs 5 % 4096, false, ctx⟩
  else none

/-! ## Transfers and sequencer slots (R416, R417) -/

/-- The XOP fields of Table 10.2, in their places there. -/
def xferPack (x : XferOp) : Nat :=
  2 ^ 28 * x.rlenM1.toNat + 2 ^ 12 * x.nrowM1.toNat + 2 ^ 6 * x.tag.val + 2 ^ 5 * b2n x.te + 2 ^ 4 * b2n x.be + x.cm.val
/-- Spaces, LOC bits, SLIT, and the register and LOC bit of the barrier address. -/
def xferPackSpaces (x : XferOp) : Nat :=
  x.ssp.val + 4 * b2n x.sloc + 8 * x.dsp.val + 32 * b2n x.dloc + 64 * x.slit.toNat + 2 ^ 41 * x.breg.val + 2 ^ 47 * b2n x.bloc

def readXferOp (a b : Nat) : XferOp where
  ssp := Fin.ofNat 4 (bits b 1 0)
  sloc := b.testBit 2
  dsp := Fin.ofNat 4 (bits b 4 3)
  dloc := b.testBit 5
  slit := BitVec.ofNat 12 (bits b 17 6)
  rlenM1 := BitVec.ofNat 22 (bits a 49 28)
  nrowM1 := BitVec.ofNat 16 (bits a 27 12)
  tag := Fin.ofNat 64 (bits a 11 6)
  te := a.testBit 5
  be := a.testBit 4
  cm := Fin.ofNat 16 (bits a 3 0)
  breg := Fin.ofNat 64 (bits b 46 41)
  bloc := b.testBit 47

/-- The LM address of a barrier word. -/
def lmAddress (p : Part) (da : Nat) : Nat :=
  match daPlace da with
  | .lane core off => core * 2 ^ 22 + (off - 0x80000 * p.k0 core)
  | _ => 0

/-- The slack that a transfer record holds: of a COPY, and of a run's copy that has started, what its packets carry (R138); else what the
next copies of the run start with. -/
def Xfer.savedSlack (t : Xfer) : Nat := if t.slot.isSome ∧ t.next % copyChunks t.x = 0 then t.slack else t.copySlack

/-- A transfer record. -/
def Xfer.image (p : Part) (t : Xfer) : List Byte :=
  w8 t.sb.toNat ++ w8 t.ss.toNat ++ w8 t.db.toNat ++ w8 t.ds.toNat ++ w8 (xferPack t.x) ++ w8 (if t.x.be then lmAddress p t.bar else 0)
    ++ w8 t.next
    ++ w8 (xferPackSpaces t.x + 2 ^ 18 * t.stat.val + 2 ^ 24 * t.savedSlack + 2 ^ 36 * b2n t.ordered + 2 ^ 37 * b2n t.slot.isSome
      + 2 ^ 38 * t.slot.getD 0)

def Template.image (t : Option Template) : List Byte :=
  padTo 64 (match t with
    | none => []
    | some t =>
      w8 t.ss.toNat ++ w8 t.ds.toNat ++ w8 t.bar ++ w8 (xferPack t.x) ++ w8 (xferPackSpaces t.x + 2 ^ 36 * b2n t.ordered + 2 ^ 63))

def readTemplate (bs : List Byte) : Option Template :=
  let f := word8 bs 4
  if f.testBit 63 then some ⟨readXferOp (word8 bs 3) f, wordOf bs 0, wordOf bs 1, f.testBit 36, word8 bs 2⟩ else none

def SeqLevel.image (l : SeqLevel) : List Byte := w8 (l.count - 1) ++ w8 l.ss.toNat ++ w8 l.ds.toNat
def readLevel (bs : List Byte) : SeqLevel := ⟨(word8 bs 0) % 2 ^ 32 + 1, wordOf bs 1, wordOf bs 2⟩

/-- Iteration counters of emission e, innermost first. -/
def iterCounters : List Nat → Nat → List Nat
  | [], _ => []
  | c :: cs, e => e % c :: iterCounters cs (e / c)

/-- The 48 bytes of run state: counters, next chunk, and the status register, strand and record of an active run. -/
def runImage (run : Option (Xfer × Nat)) : List Byte :=
  padTo 48 (match run with
    | none => []
    | some (t, rec_) =>
      ((iterCounters t.counts (t.next / copyChunks t.x)).flatMap (leBytes 4)) ++ w8 t.next
        ++ w8 (t.stat.val + 2 ^ 8 * t.strand + 2 ^ 16 * rec_ + 2 ^ 63))

/-- A sequencer slot; recs are the transfer records of each strand of the core. -/
def SeqSlot.image (q : SeqSlot) (run : Option (Xfer × Nat)) : List Byte :=
  q.levels.toList.flatMap SeqLevel.image ++ Template.image q.tmpl ++ runImage run

def readLevels (bs : List Byte) : Vector SeqLevel 6 := Vector.ofFn (fun i => readLevel (bs.drop (24 * i.val)))

/-! ## Strand records (Table 20.5) -/

/-- The transfers of a strand that are not complete, in the order of their records. -/
def State.records (s : State) (uid : Nat) : List (Nat × Xfer) := s.xfers.filter (fun c => decide (c.2.uid = uid) && !c.2.complete)

/-- The trap point: a HALT has advanced the pc and is executed again. -/
def Strand.trapPc (x : Strand) : Nat := if x.run = .halted then (x.pc - 8).toNat else x.pc.toNat

/-- Byte n of the chunk-mask bindings. -/
def bindByte (recs : List (Nat × Xfer)) : Option Nat → Nat
  | none => 0xFF
  | some tid =>
    match recs.findIdx? (fun c => c.1 == tid) with
    | some i => i
    | none => 0xFE

def Strand.fixedImage (s : State) (x : Strand) (recs : List (Nat × Xfer)) : List Byte :=
  let flags := modeBit x.mode + 2 * b2n x.task.isSome + 4 * b2n (decide (x.run = .waiting .mmode)) + 8 * b2n (decide (x.run = .exited))
    + 16 * b2n x.pendSlackex + 32 * b2n x.pendThermal
  padTo 3072 (w8 x.trapPc ++ w8 flags ++ w8 (x.vsx + 2 ^ 16 * x.vl + 2 ^ 32 * x.vg)
    ++ (x.s.toList.drop 1).flatMap (fun v => w8 v.toNat)
    ++ ([x.rmode, x.fpflags, x.fpctl, x.nbr, strmWord x, x.seed.toNat, x.sbase.toNat, x.mcntId * 2 ^ 48 + x.mcntOcc % 2 ^ 48,
        x.slkctl, x.exs, x.ctb.toNat, x.tshp.toNat] ++ x.slkt.toList).flatMap w8
    ++ x.cts.toList.flatMap (fun v => w8 v.toNat) ++ x.pend.toList.flatMap (leBytes 1) ++ w8 x.pendStat.toNat ++ w8 0
    ++ [(match x.task with | some t => t.t | none => 0), (match x.task with | some t => t.grp | none => 0), x.digest.toNat, x.nstores,
        x.barCore, x.barCluster, recs.length, x.inbox.length].flatMap w8
    ++ padTo 512 (x.occ.flatMap (fun c => w8 (c.1 + 2 ^ 16 * (c.2 % 2 ^ 48))))
    ++ x.streams.toList.flatMap Stream.image
    ++ x.v.toList.flatMap (fun r => leBytes 4 r.tag)
    ++ x.collSlots.toList.flatMap (fun c => Coll.image (c.bind (Map.get? s.colls)))
    ++ (255 : Byte) :: (x.binds.toList.drop 1).flatMap (fun b => leBytes 1 (bindByte recs b)))

/-- The variable part; it is empty for a strand without a task. -/
def Strand.varImage (p : Part) (x : Strand) (recs : List (Nat × Xfer)) : List Byte :=
  if x.task.isNone then []
  else
    (x.m.toList ++ [x.msm]).flatMap (leBytes (512 * p.g)) ++ pad64 (x.v.toList.flatMap (VReg.image p.fmt))
      ++ recs.flatMap (fun c => c.2.image p) ++ x.inbox.flatMap (Strip.image p.g)

def Strand.image (s : State) (p : Part) (x : Strand) : List Byte :=
  let recs := s.records x.uid
  x.fixedImage s recs ++ x.varImage p recs

/-- What a strand record says; tags and records are left as bytes. -/
structure StrandImage where
  x : Strand
  hasTask : Bool
  idx : Nat
  grp : Nat
  recs : List (List Byte)
  colls : List (List Byte)
  binds : List Nat
  size : Nat

/-- Sizes of the parts of a strand record: vector data rounded up, transfer records, strips. Reserved bits read as 0 (R13), [54:48] of CTSn
among them (Table 10.3), and a PC is a multiple of 8: DESIGN CHOICE (log 28). -/
def readStrand (fmts : Vector Word 16) (g : Nat) (bs : List Byte) : StrandImage :=
  let flags := word8 bs 1
  let hasTask := flags.testBit 1
  let reg (off i : Nat) : Nat := numAt bs (off + 8 * i) 8
  let creg (i : Nat) : Nat := reg 0x210 i
  let tags := (List.range 32).map (fun i => numAt bs (0x840 + 4 * i) 4)
  let vdata := (tags.map (tagBytes fmts)).foldl (· + ·) 0
  let nx := reg 0x500 6
  let masks := bs.drop 3072
  let vd := masks.drop (17 * 512 * g)
  let xd := vd.drop (roundUp64 vdata)
  let nin := reg 0x500 7
  let ib := xd.drop (64 * nx)
  let regs := readVRegs fmts tags vd
  let x : Strand :=
    { Strand.reset with
      s := Vector.ofFn (fun i => if i.val = 0 then 0 else BitVec.ofNat 64 (reg 0x018 (i.val - 1)))
      pc := alignTarget (wordOf bs 0)
      mode := if flags.testBit 0 then .supervisor else .user
      pendSlackex := flags.testBit 4
      pendThermal := flags.testBit 5
      vsx := bits (word8 bs 2) 15 0
      vl := bits (word8 bs 2) 31 16
      vg := bits (word8 bs 2) 33 32
      rmode := creg 0 % 8
      fpflags := creg 1 % 32
      fpctl := creg 2 % 4
      nbr := creg 3 % 2 ^ 14
      seed := BitVec.ofNat 64 (creg 5)
      sbase := BitVec.ofNat 64 (creg 6)
      mcntId := creg 7 / 2 ^ 48
      mcntOcc := creg 7 % 2 ^ 48
      slkctl := creg 8 % 4
      exs := creg 9 % 2 ^ 32
      ctb := BitVec.ofNat 64 (creg 10)
      tshp := BitVec.ofNat 64 (creg 11 % 2 ^ 48)
      slkt := Vector.ofFn (fun i => creg (12 + i.val) % 4096)
      cts := Vector.ofFn (fun i => BitVec.ofNat 64 (putBits (reg 0x2B0 i.val) 54 48 0))
      pend := Vector.ofFn (fun i => numAt bs (0x4B0 + i.val) 1)
      pendStat := BitVec.ofNat 64 (reg 0x4F0 0)
      digest := BitVec.ofNat 64 (reg 0x500 2)
      nstores := reg 0x500 3
      barCore := reg 0x500 4
      barCluster := reg 0x500 5
      occ := ((List.range 64).map (fun i => (reg 0x540 i % 2 ^ 16, reg 0x540 i / 2 ^ 16))).filter (fun c => decide (c.2 ≠ 0))
      streams := Vector.ofFn (fun i => readStream (bs.drop (0x740 + 64 * i.val)))
      m := if hasTask then Vector.ofFn (fun i => numAt masks (512 * g * i.val) (512 * g)) else Strand.reset.m
      msm := if hasTask then numAt masks (512 * g * 16) (512 * g) else 0
      v := if hasTask then Vector.ofFn (fun i => regs.getD i.val VReg.reset) else Strand.reset.v
      inbox := if hasTask then readStrips fmts g nin ib else [] }
  { x := { x with run := if hasTask then (if flags.testBit 3 then .exited else .ready) else .idle }
    hasTask := hasTask
    idx := reg 0x500 0
    grp := reg 0x500 1
    recs := if hasTask then (List.range nx).map (fun i => (xd.drop (64 * i)).take 64) else []
    colls := (List.range 4).map (fun i => (bs.drop (0x8C0 + 64 * i)).take 64)
    binds := (List.range 16).map (fun i => numAt bs (0x9C0 + i) 1)
    size := if hasTask then 3072 + 17 * 512 * g + roundUp64 vdata + 64 * nx + stripsBytes g nin ib else 3072 }

/-! ## Core records (R416) -/

/-- The partition's cells of tile t on a core, row by row. -/
def State.tileCells (s : State) (p : Part) (core : Nat) (t : Acc) : List Nat :=
  (List.range (8 * p.g * 64)).map (fun i => Map.getD (s.coreOf core).cells (cellKey t (8 * p.k0 core) 0 + i) 0)

/-- A run of a slot and the number of its record. -/
def State.runOf (s : State) (q : SeqSlot) : Option (Xfer × Nat) :=
  q.run.bind (fun tid => (Map.get? s.xfers tid).bind (fun t =>
    ((s.records t.uid).findIdx? (fun c => c.1 == tid)).map (fun i => (t, i))))

/-- The strand number that each lane group of a partition gives on a core. -/
def Part.groups_ (p : Part) (core : Nat) : List Nat := (List.range p.g).map (· + p.k0 core)

def State.coreImage (s : State) (pid core : Nat) : List Byte :=
  let p := s.part pid
  let c := s.pcore pid core
  let cells (t : Acc) : List Nat := s.tileCells p core t
  let present (t : Acc) : Bool := (cells t).any (· ≠ 0)
  let tile (t : Acc) : List Byte := if present t then (cells t).flatMap (leBytes 9) else []
  let a0 := c.accst.get 0
  let a1 := c.accst.get 1
  let body := tile 0 ++ tile 1
    ++ (p.groups_ core).flatMap (fun k => let q := s.seqSlot core k; q.image (s.runOf q))
    ++ (p.groups_ core).flatMap (fun k => (s.strand core k).image s p)
    ++ Memory.readN s.mem (laneBase core + 0x80000 * p.k0 core) (0x80000 * p.g)
  let w2 := p.k0 core + 16 * c.holder.getD 0 + 128 * b2n c.holder.isSome + 256 * b2n (a0.testBit 3) + 512 * b2n (a1.testBit 3)
    + 2 ^ 10 * (a0 % 8) + 2 ^ 14 * (a1 % 8) + 2 ^ 18 * b2n (present 0) + 2 ^ 19 * b2n (present 1)
  padTo 256 (w8 core ++ w8 (256 + body.length) ++ w8 w2) ++ body

/-- Bytes of the tiles of a core record. -/
def tilesBytes (g w2 : Nat) : Nat := (b2n (w2.testBit 18) + b2n (w2.testBit 19)) * (8 * g * 64 * 9)

/-- The strand records of a core, n of them. -/
def readStrands (fmts : Vector Word 16) (g : Nat) : Nat → List Byte → List StrandImage
  | 0, _ => []
  | n + 1, bs => let t := readStrand fmts g bs; t :: readStrands fmts g n (bs.drop t.size)

structure CoreImage where
  core : Nat
  recordSize : Nat
  w2 : Nat
  tiles : List Byte
  slots : List (List Byte)
  strands : List StrandImage
  lm : List Byte
  size : Nat

def readCore (fmts : Vector Word 16) (g : Nat) (bs : List Byte) : CoreImage :=
  let w2 := word8 bs 2
  let nt := tilesBytes g w2
  let sl := bs.drop (256 + nt)
  let sd := sl.drop (256 * g)
  let strands := readStrands fmts g g sd
  let ns := (strands.map (·.size)).foldl (· + ·) 0
  ⟨word8 bs 0, word8 bs 1, w2, (bs.drop 256).take nt, (List.range g).map (fun k => (sl.drop (256 * k)).take 256), strands,
    (sd.drop ns).take (0x80000 * g), 256 + nt + 256 * g + ns + 0x80000 * g⟩

def readCores (fmts : Vector Word 16) (g : Nat) : Nat → List Byte → List CoreImage
  | 0, _ => []
  | n + 1, bs => let c := readCore fmts g bs; c :: readCores fmts g n (bs.drop c.size)

/-! ## Partition section and header (R415, R418) -/

def Alg.image (a : Option Alg) : List Byte :=
  padTo 128 (match a with
    | none => []
    | some a => padTo 64 (a.ent.flatMap (leBytes 1)) ++ leBytes 1 a.ar ++ leBytes 1 a.conj)

def Part.section_ (p : Part) : List Byte :=
  padTo 1024 (p.fmt.toList.flatMap (fun w => w8 w.toNat) ++ p.alg.toList.flatMap Alg.image)

/-- FMTn without its reserved bits, which read as 0 (R13, R77). -/
def readFmts (bs : List Byte) : Vector Word 16 :=
  Vector.ofFn (fun i => BitVec.ofNat 64 (putBits (putBits (numAt bs (8 * i.val) 8) 23 20 0) 11 4 0))
def readAlgs (bs : List Byte) : Vector (Option Alg) 4 := Vector.ofFn (fun i => algOf ((bs.drop (0x80 + 128 * i.val)).take 128))

/-- The rounding field of a half resolves to SR. -/
def halfSr (c : HalfCode) : Bool :=
  if 0x18 ≤ c.hop ∧ c.hop ≤ 0x1D then decide (bits c.imm 8 6 = 5)
  else if 0x40 ≤ c.hop ∧ c.hop ≤ 0x45 then decide (bits c.imm 2 0 = 5)
  else false

/-- An instruction's rounding field names SR; VCVTS always rounds so (R226). -/
def instrSr (i : Instr) : Bool :=
  let v {D : Type} (o : VOpG D) : Bool := decide (o.rnd.val = 5)
  match i with
  | .fadd _ _ _ r _ | .fsub _ _ _ r _ | .fmul _ _ _ r _ | .ffma _ _ _ r _ | .fdiv _ _ _ r _ | .fsqrt _ _ r _
  | .fcvt _ _ r _ _ => decide (r.val = 5)
  | .vadd o | .vsub o | .vmul o | .vfma o | .vfms o | .vdiv o | .vsqrt o | .vrsq o | .vrcp o | .vexp2 o | .vlog2 o | .vmwide o
  | .vdot o | .vscan o | .vrecur o | .vcvt o | .vamul o | .vnorm o | .vmin o | .vmax o | .vabs o | .vneg o => v o
  | .vcvts _ => true
  | .vred o => v o
  | .mdrain o => decide (o.rnd.val = 5)
  | _ => false

def decodedSr : Except Reject Decoded → Bool
  | .ok (.one i _) => instrSr i
  | .ok (.pair a b) => halfSr a || halfSr b
  | .error _ => false

/-- Strand k of a core: RMODE is SR, or the instruction at its task's trap point resolves to SR. -/
def State.strandSr (s : State) (core k : Nat) : Bool :=
  let s1 := s.actAs core k
  let word (va : Word) : Nat := match s1.fetchWord va with | .ok (w, _) => w | .error _ => 0
  let pc := BitVec.ofNat 64 s1.me.trapPc
  decide (s1.me.rmode = 5) || (s1.me.task.isSome && decodedSr (decode (word pc) (word (pc + 8))))

/-- DISPATCHED launches of a context. -/
def State.launchesOf (s : State) (pid slot : Nat) : List (Nat × Launch) :=
  s.launches.filter (fun c => decide (c.2.pid = pid ∧ c.2.slot = slot)
    && (match (s.vf (c.1 % 1024)).entry (c.1 / 1024) with | some e => decide (e.state = .dispatched) | none => false))

/-- LIVE of the partition's running context. -/
def State.liveMask (s : State) (pid : Nat) : Nat :=
  let p := s.part pid
  let each (f : Nat → Nat → Bool) : Bool := p.cores.any (fun c => (p.groups_ c).any (f c))
  256 * b2n (p.fmt.toList.any (· ≠ fmtReset))
    + 512 * b2n (p.cores.any (fun c => ((s.pcore pid c).accst.get 0).testBit 3 || ((s.pcore pid c).accst.get 1).testBit 3))
    + 1024 * b2n (each s.strandSr)
    + 2048 * b2n (p.alg.toList.any (·.isSome))
    + 8192 * b2n (each (fun c k => (s.strand c k).collSlots.toList.any (·.isSome)))
    + 16384 * b2n ((s.launchesOf pid p.slot).any (fun c => c.2.det))

/-- The image of the partition's running context. -/
def State.image (s : State) (pid : Nat) : List Byte :=
  let p := s.part pid
  let c := p.ctx
  let recs := p.cores.flatMap (s.coreImage pid)
  let size := 4096 + 1024 + recs.length
  padTo 4096 ([0x48, 0x47, 0x58, 0x00] ++ leBytes 2 1 ++ leBytes 2 0 ++ w8 size ++ leBytes 2 (s.liveMask pid)
      ++ leBytes 2 (b2n (decide (s.launchesOf pid p.slot ≠ []))) ++ leBytes 2 p.cores.length ++ leBytes 2 p.g
      ++ w8 c.tvec.toNat ++ w8 c.trec.toNat ++ w8 c.vwbase ++ w8 c.vwlim ++ w8 c.vwkey)
    ++ p.section_ ++ recs

/-! ## Checks (R419, R440) -/

def imgEmpty (bs : List Byte) : Bool := (numAt bs 6 2).testBit 0
def imgSize (bs : List Byte) : Nat := numAt bs 8 8
def imgCores (bs : List Byte) : Nat := numAt bs 0x14 2

/-- The largest image of a partition: 64 transfers and four strips on every strand. -/
def maxImage (p : Part) : Nat :=
  5120 + p.cores.length * (256 + 2 * 36864 * p.g + 256 * p.g
    + p.g * (3072 + 17 * 512 * p.g + 32 * vlBytes p.g + 64 * 64 + 4 * (64 + 8 * vlBytes p.g)) + 0x80000 * p.g)

/-- The header's own fields. Log 74. -/
def headOk (p : Part) (v : VF) (bs : List Byte) : Bool :=
  let g := numAt bs 0x16 1
  let vwbase := numAt bs 0x28 8
  let vwlim := numAt bs 0x30 8
  let vwkey := numAt bs 0x38 8
  decide (numAt bs 0 4 = 0x00584748) && decide (numAt bs 4 2 = 1) && decide (numAt bs 6 2 ≤ 1)
    && zeroAt bs 0x13 1 && zeroAt bs 0x17 1 && zeroAt bs 0x40 (4096 - 0x40)
    && decide (g = p.g) && decide (imgCores bs = (if imgEmpty bs then 0 else p.cores.length))
    && decide (5120 ≤ imgSize bs ∧ imgSize bs ≤ maxImage p) && decide (numAt bs 0x20 8 % 1024 = 0)
    && decide (vwbase % 65536 = 0 ∧ vwlim % 65536 = 0 ∧ vwbase + vwlim ≤ 0x1400000 * p.g)
    && decide (v.kbase ≤ vwkey ∧ vwkey < v.kbase + v.kcnt)

/-- The records: their core ids are the partition's, and their sizes make up SIZE. -/
def recordsOk (p : Part) (bs : List Byte) : Bool :=
  let cs := readCores (readFmts (bs.drop 4096)) p.g (imgCores bs) (bs.drop 5120)
  decide (cs.map (·.core) = (if imgEmpty bs then [] else p.cores)) && cs.all (fun c => decide (c.recordSize = c.size))
    && decide (5120 + (cs.map (·.size)).foldl (· + ·) 0 = imgSize bs)

/-- INFO of CTXFEAT: what the function lacks; 0 if nothing (Table 20.1). Log 68. -/
def featMissing (v : VF) (bs : List Byte) : Nat :=
  let live := numAt bs 0x10 2
  let nbv := numAt bs 0x12 1
  (List.range 8).foldl (fun m i => m + 2 ^ (8 + i) * b2n (live.testBit (8 + i) && !v.leaf0.testBit (8 + i))) 0
    + (if v.leaf0 % 256 < nbv then nbv else 0)

end Sys2Proof.Machine
end

