-- ==== Sys2Proof/Machine/Context.lean ====
section
/-!
DEFINITION. Contexts (R195, R402–R404, R413–R420, R440): CTXSAVE and CTXLOAD, writes of context entries, and the events
TIME_SLICE_EXPIRY, PREEMPTION_COMPLETE and RESTORE. Save areas hold their bytes under the firmware key (log 43).
-/
namespace Sys2Proof.Machine

/-! ## Save areas -/

/-- A package physical address as a domain address. -/
def pkgAddr (pa : Nat) : Nat := Config.packageId * 2 ^ 48 + pa
def State.fwKey (s : State) : Option Nat := Map.get? s.keys 2047

def Part.ctxAt (p : Part) (slot : Nat) : Ctx := Map.getD p.ctxs slot Ctx.reset
def Part.putCtx (p : Part) (slot : Nat) (c : Ctx) : Part := { p with ctxs := Map.set p.ctxs slot c }

def State.readSave (s : State) (c : Ctx) (n : Nat) : List Byte × State := s.readBytes (pkgAddr c.save) s.fwKey n
def State.writeSave (s : State) (c : Ctx) (bs : List Byte) : State := s.writeBytes (pkgAddr c.save) s.fwKey bs

/-! ## CTXSAVE, CTXLOAD (R195, R419) -/

/-- Blocks of 4 KiB that n bytes at a 4 KiB boundary fall into. -/
def imageBlocks (ea : Word) (n : Nat) : List (Word × Nat) :=
  (List.range ((n + 4095) / 4096)).map (fun i => (ea + BitVec.ofNat 64 (4096 * i), Nat.min 4096 (n - 4096 * i)))

/-- The checks of a run of blocks as plain accesses of the acting strand. -/
def admitBlocks (s : State) (k : Kind) : List (Word × Nat) → Except Stop (List Piece × State)
  | [] => .ok ([], s)
  | (a, n) :: r =>
    match permit s s.who s.me.uid true 0 false a n k with
    | .error t => .error t
    | .ok (ps, s1) =>
      match admitBlocks s1 k r with
      | .error t => .error t
      | .ok (qs, s2) => .ok (ps ++ qs, s2)

/-- What both instructions check first: alignment, the slot number, and that its context is not running. body does the rest. Log 58. -/
def State.ctxOp (s : State) (d a b : SReg) (k : Kind) (body : Nat → State → Res) : Res :=
  let ea := s.rS a
  let slot := (s.rS b).toNat
  let answer (v : Nat) : Res := .ok ((s.wS d (BitVec.ofNat 64 v)).advance 8)
  if ea.toNat % 4096 ≠ 0 then .stop (.trap cALIGN ea (memInfo 0 k)) s
  else if 64 ≤ slot then answer 3
  else if s.myPart.running = some slot then answer 1
  else body slot s

/-- CTXSAVE: the slot's image is copied to s_a. -/
def execCtxsave (d a b : SReg) (sl : Fin 8) (s : State) : Out :=
  finish (s.priv (fun s => s.ctxOp d a b .write (fun slot s =>
    let c := s.myPart.ctxAt slot
    let size := imgSize (s.readSave c 16).1
    let s0 := s.drain
    match admitBlocks s0 .write (imageBlocks (s.rS a) size) with
    | .error t => .stop t s
    | .ok (ps, s1) =>
      let r := s1.readSave c size
      .ok ((((r.2.performFrom s.cur.core ps r.1).request (.cls sl) ps true).wS d (BitVec.ofNat 64 size)).advance 8))))

/-- CTXLOAD: the header, the records, the features; then the image is copied into the save area. -/
def execCtxload (d a b : SReg) (sl : Fin 8) (s : State) : Out :=
  finish (s.priv (fun s => s.ctxOp d a b .read (fun slot s =>
    let p := s.myPart
    let c := p.ctxAt slot
    let v := s.vf c.vfn
    let bad : Res := .ok ((s.wS d 2).advance 8)
    let s0 := s.drain
    match admitBlocks s0 .read (imageBlocks (s.rS a) 4096) with
    | .error t => .stop t s
    | .ok (hp, s1) =>
      let head := (readPieces s1 hp).1
      if headOk p v head = false then bad
      else
        match admitBlocks s1 .read (imageBlocks (s.rS a) (imgSize head)) with
        | .error t => .stop t s
        | .ok (ps, s2) =>
          let r := readPieces s2 ps
          if recordsOk p r.1 = false then bad
          else if featMissing v r.1 ≠ 0 then .stop (.trap cCTXFEAT (s.rS a) (BitVec.ofNat 64 (featMissing v r.1))) s
          else .ok ((((r.2.writeSave c r.1).request (.cls sl) ps false).wS d 0).advance 8))))

/-! ## The scheduler (R402, R403) -/

/-- RUN of Table 19.7: a DISPATCHED launch with unadmitted groups or resident tasks. -/
def State.ctxRun (s : State) (pid slot : Nat) : Bool :=
  (s.launchesOf pid slot).any (fun c =>
    c.2.dists.any (fun d => decide (d.ranges ≠ [])) || c.2.units.any (fun u => u.2.range.isSome)
      || decide (s.residents (c.1 % 1024) (c.1 / 1024) ≠ [])
      || ((s.part pid).ctxAt slot).held.any (fun h => decide (lkey h.task.vfn h.task.seq = c.1)))

/-- VALID and RUN set and PARK clear. -/
def State.qualifies (s : State) (pid slot : Nat) : Bool :=
  let c := (s.part pid).ctxAt slot
  c.valid && !c.park && c.xvalid && s.ctxRun pid slot

/-- The next entry after a slot that qualifies; the slot itself comes last. -/
def State.nextSlot (s : State) (pid after : Nat) : Option Nat :=
  ((List.range 64).map (fun i => (after + 1 + i) % 64)).find? (s.qualifies pid)

/-- Network cycles of n microseconds (R388). -/
def usCycles (n : Nat) : Nat := 2000 * n

/-- TIME_SLICE_EXPIRY: the running context's slice is over, or it has nothing to run. Log 23. -/
def execTimeSliceExpiry (pid : Nat) (s : State) : HostOut :=
  let p := s.part pid
  match p.running with
  | none => .next s
  | some cur =>
    if p.preempting = true ∨ (s.now < p.sliceDue ∧ s.ctxRun pid cur = true) then .next s
    else
      match s.nextSlot pid cur with
      | none => .next (s.setPart pid { p with sliceDue := s.now + usCycles (p.ctxAt cur).slice })
      | some n => .next (if n = cur then s.setPart pid { p with sliceDue := s.now + usCycles (p.ctxAt cur).slice } else s.preempt pid)

/-! ## Pre-emption (R303, R413, R414) -/

/-- A transfer that has nothing left to do completes during the stop (R414). -/
def State.settle (s : State) (tid : Nat) : State :=
  match Map.get? s.xfers tid with
  | none => s
  | some t => if !t.complete && (decide (t.next = t.total) || t.stop.isSome) then s.complete tid t else s

/-- The partition's transfers that are on their strands. -/
def State.partXfers (s : State) (pid : Nat) : List Nat :=
  (s.xfers.filter (fun c => decide (c.2.pid = pid) && s.present c.2)).map (·.1)

/-- Keys of the partition's strands. -/
def Part.strandKeys (p : Part) : List Nat := p.cores.flatMap (fun c => (p.groups_ c).map (skey c))

/-- A reply reaches its strand or its engine at once. -/
def State.bringReply (s : State) (p : Packet) : State :=
  match execReplyDelivery p.core p.strand (decide (p.slack = 0)) (decide (p.kind = .data)) s with
  | .next s1 => s1
  | _ => s

/-- A packet under way at a switch reaches its end at once; of a request that is not served yet, its replies do (R139, R412). -/
def State.bring (s : State) (key : Nat) (p : Packet) : State :=
  match p.kind with
  | .msg => s.messageAt p
  | _ => (if key % 64 < 24 ∨ key % 64 = 40 then replies p else [p]).foldl State.bringReply s

/-- Every engine stops at its point: a load under way is squashed, a chunk in flight finishes. What else is under way in the network arrives,
committed stores drain, and then a transfer that is done completes, its late replies counted (Table 20.3, R139, R412). -/
def State.stopEngines (s : State) (pid : Nat) : State :=
  let ks := (s.part pid).strandKeys
  let ts := s.partXfers pid
  let s := ks.foldl (fun s k => s.squash (k / 8) (k % 8)) s
  let s1 := ts.foldl State.flushHeld (ts.foldl State.endIteration s)
  let mine (q : Packet) : Bool :=
    (decide (q.strand < 8) && ks.contains (skey q.core q.strand)) || (decide (16 ≤ q.strand) && ts.contains (q.strand - 16))
  let due := s1.arbs.flatMap (fun c => (c.2.packets.filter mine).map (fun p => (c.1, p)))
  let s2 := due.foldl (fun s q => s.bring q.1 q.2)
    { s1 with arbs := s1.arbs.map (fun c => (c.1, c.2.mapQueues (fun q => q.filter (fun p => !mine p)))) }
  let s3 := ks.foldl (fun s k =>
    (s.performAll (s.strand (k / 8) (k % 8)).stores).setStrand (k / 8) (k % 8) { s.strand (k / 8) (k % 8) with stores := [] }) s2
  ts.foldl State.settle s3

/-- What is kept of a strand beside its record. -/
def State.heldOf (s : State) (k : Nat) : Option Held :=
  let x := s.strand (k / 8) (k % 8)
  x.task.map (fun t => ⟨k, x.uid, t, x.binds, x.collSlots, x.barIn⟩)

/-- A core of the partition after its context has left. -/
def State.clearCore (s : State) (pid core : Nat) : State :=
  let p := s.part pid
  let c := s.coreOf core
  let rows (t : Acc) (k : Nat) : Bool := decide (cellKey t (8 * p.k0 core) 0 ≤ k ∧ k < cellKey t (8 * p.k0 core + 8 * p.g) 0)
  let s1 := s.setCore core { c with
    cells := c.cells.filter (fun x => !rows 0 x.1 && !rows 1 x.1)
    badCells := c.badCells.filter (fun x => !rows 0 x && !rows 1 x)
    seqs := c.seqs.filter (fun q => !(p.groups_ core).contains q.1) }
  let s2 := s1.setPCore pid core { s1.pcore pid core with accst := PCore.reset.accst, holder := none, mmWait := [] }
  let s3 := s2.endAdvice pid core
  (p.groups_ core).foldl (fun s k => s.setStrand core k Strand.reset) s3

/-- PREEMPTION_COMPLETE: the engines have stopped; the image is in the save area, and the advice state is discarded. Log 19. -/
def execPreemptionComplete (pid : Nat) (s : State) : HostOut :=
  let p0 := s.part pid
  match p0.running with
  | none => .next s
  | some slot =>
    if p0.preempting = false then .next s
    else
      let s1 := s.stopEngines pid
      let p := s1.part pid
      let c := p.ctxAt slot
      let held := p.strandKeys.filterMap s1.heldOf
      let bound := p.cores.map (fun k => (k, (s1.pcore pid k).adv.bound))
      let s2 := s1.writeSave c (s1.image pid)
      let s3 := p.cores.foldl (fun s k => s.clearCore pid k) s2
      let since := Nat.min p.sliceDue p.preemptStart
      let late := decide (c.plim ≠ 0 ∧ usCycles c.plim < s.now - since)
      let p1 := { s3.part pid with running := none, preempting := false, faulted := false, last := slot, plimOver := p.plimOver + b2n late }
      .next (s3.setPart pid (p1.putCtx slot { c with held := held, bound := bound }))

/-! ## Restore (R419, R420) -/

/-- The partition section and the header of an image. -/
def Part.restoreHead (p : Part) (slot : Nat) (bs : List Byte) : Part :=
  let sec := bs.drop 4096
  let c := p.ctxAt slot
  let c1 := { c with
    tvec := BitVec.ofNat 64 (numAt bs 0x18 8)
    trec := BitVec.ofNat 64 (numAt bs 0x20 8)
    vwbase := numAt bs 0x28 8
    vwlim := numAt bs 0x30 8
    vwkey := numAt bs 0x38 8
    held := [] }
  { p with fmt := readFmts sec, alg := readAlgs sec }.putCtx slot c1

/-- One transfer record of strand k of a core: an existing transfer takes what the record says. -/
def State.restoreXfer (s : State) (pid core k : Nat) (x : Strand) (slots : List (List Byte)) (r : List Byte) (old : Option Nat) :
    Nat × State :=
  let p := s.part pid
  let tid := old.getD s.fresh
  let w7 := word8 r 7
  let isRun := w7.testBit 37
  let key := bits w7 40 38
  let ls := (readLevels (slots.getD (key - p.k0 core) [])).toList
  let xo := readXferOp (word8 r 4) w7
  let next := word8 r 6
  let base : Xfer := (old.bind (Map.get? s.xfers)).getD
    ⟨x.uid, core, k, pid, x.task, xo, 0, 0, 0, 0, false, none, [], [], [], 0, 0, 0, 0, 0, none, 0, false, [], none, [], false, [], []⟩
  let emitted := if isRun then (next + copyChunks xo - 1) / copyChunks xo else 1
  let t : Xfer := { base with
    x := xo
    sb := wordOf r 0
    ss := wordOf r 1
    db := wordOf r 2
    ds := wordOf r 3
    ordered := w7.testBit 36
    slot := if isRun then some key else none
    counts := if isRun then ls.map (·.count) else []
    lss := if isRun then ls.map (·.ss) else []
    lds := if isRun then ls.map (·.ds) else []
    bar := if xo.be then (lmPlace p core false (wordOf r 5) 8).getD 0 else 0
    stat := Fin.ofNat 64 (bits w7 23 18)
    slack := if isRun ∧ old.isSome then base.slack else bits w7 35 24
    next := next
    emitted := emitted
    waits := List.replicate (emitted - next / copyChunks xo) (bits w7 35 24)
    stalled := false }
  let kind : AgentKind := if isRun then .seqRun else .transfer
  let ag : Agent := ⟨kind, core, k, pid, 0, Vector.replicate 4 0, [], x.uid, s.accSeq, none⟩
  (tid, { s with
    fresh := Nat.max s.fresh (tid + 1)
    xfers := Map.set s.xfers tid t
    agents := if old.isSome then s.agents else Map.set s.agents tid ag })

def State.restoreXfers (s : State) (pid core k : Nat) (x : Strand) (slots : List (List Byte)) :
    List (List Byte) → List Nat → List Nat × State
  | [], _ => ([], s)
  | r :: rs, olds =>
    let a := s.restoreXfer pid core k x slots r olds.head?
    let b := a.2.restoreXfers pid core k x slots rs olds.tail
    (a.1 :: b.1, b.2)

/-- The collectives of a strand's slots. -/
def State.restoreColls (s : State) (pid ctx core k uid : Nat) (olds : Vector (Option Nat) 4) : List (Nat × List Byte) → State × List (Option Nat)
  | [] => (s, [])
  | (j, bs) :: r =>
    match readColl uid core k pid ctx j bs with
    | none => let q := s.restoreColls pid ctx core k uid olds r; (q.1, none :: q.2)
    | some c =>
      let old := olds.toList.getD j none
      let cid := old.getD s.fresh
      let ag : Agent := ⟨.collective, core, k, pid, 0, Vector.replicate 4 0, [], uid, s.accSeq, none⟩
      let s1 := { s with
        fresh := Nat.max s.fresh (cid + 1)
        colls := Map.set s.colls cid c
        agents := if old.isSome then s.agents else Map.set s.agents cid ag }
      let q := s1.restoreColls pid ctx core k uid olds r
      (q.1, some cid :: q.2)

/-- The launch of a saved task: the one that is kept, else the first DISPATCHED one of the context (log 41). -/
def State.savedLaunch (s : State) (pid slot : Nat) (h : Option Held) : Option (Nat × Nat × Launch) :=
  let ls := s.launchesOf pid slot
  let pick : Option (Nat × Launch) := match h with
    | some h => ls.find? (fun c => c.1 == lkey h.task.vfn h.task.seq)
    | none => ls.head?
  pick.map (fun c => (c.1 % 1024, c.1 / 1024, c.2))

/-- Strand k of a core is rebuilt. A task whose launch is no longer DISPATCHED is discarded, and its transfers end. The identities
of its transfers stand in the order of the records. -/
def State.restoreStrand (s : State) (pid slot core k : Nat) (helds : List Held) (slots : List (List Byte)) (im : StrandImage) :
    List Nat × State :=
  let h := helds.find? (fun h => h.key == skey core k)
  let put (x : Strand) (s : State) : State := s.setStrand core k x
  match im.hasTask, s.savedLaunch pid slot h with
  | true, some (vfn, seq, l) =>
    let uid := (h.map (·.uid)).getD s.fresh
    let t : Task := ⟨vfn, seq, im.idx, im.idx % l.n0, im.idx / l.n0 % l.n1, im.idx / l.n0 / l.n1, im.grp, im.idx - im.grp * l.size⟩
    let ag := s.taskAgent l core k uid
    let s1 := { s with
      fresh := Nat.max s.fresh (uid + 1)
      agents := if h.isSome then s.agents else Map.set s.agents uid ag }
    let x := { im.x with task := some t, uid := uid, barIn := (h.map (·.barIn)).getD 0, readyAt := s.now }
    let olds := (s1.records uid).map (·.1)
    let a := s1.restoreXfers pid core k x slots im.recs olds
    let b := a.2.restoreColls pid slot core k uid ((h.map (·.colls)).getD (Vector.replicate 4 none)) ((List.range 4).zip im.colls)
    let bound (i : Nat) : Option Nat :=
      let n := im.binds.getD i 255
      if n = 0xFF then none
      else if n = 0xFE then some ((h.bind (fun h => h.binds.toList.getD i none)).getD 0)
      else some (a.1.getD n 0)
    (a.1, put { x with
      collSlots := Vector.ofFn (fun j => b.2.getD j.val none)
      binds := Vector.ofFn (fun i => bound i.val) } b.1)
  | true, none =>
    let ts : List Nat := match h with | some h => (s.records h.uid).map Prod.fst | none => []
    let us : List Nat := match h with | some h => [h.uid] | none => []
    ([], (put Strand.reset (ts.foldl State.killXfer s)).dropAgents (us ++ ts))
  | false, _ => ([], put im.x s)

/-- The strands of a core: the identities of the transfers of each. -/
def State.restoreStrands (s : State) (pid slot core : Nat) (helds : List Held) (slots : List (List Byte)) :
    Nat → List StrandImage → List (Nat × List Nat) × State
  | _, [] => ([], s)
  | k, im :: ims =>
    let a := s.restoreStrand pid slot core k helds slots im
    let b := a.2.restoreStrands pid slot core helds slots (k + 1) ims
    ((k, a.1) :: b.1, b.2)

/-- A sequencer slot; its run is the transfer that its run state names. -/
def readSlot (tids : List (Nat × List Nat)) (bs : List Byte) : SeqSlot :=
  let w := word8 (bs.drop (144 + 64)) 4
  let run : Option Nat :=
    if w.testBit 63 then
      (tids.find? (fun (c : Nat × List Nat) => c.1 == bits w 10 8)).bind (fun (c : Nat × List Nat) => c.2[bits w 23 16]?)
    else none
  ⟨readLevels bs, readTemplate (bs.drop 144), run⟩

/-- Cells of a tile, from row k0·8 on. -/
def putCells (m : Map Nat) (key : Nat) : List Byte → Nat → Map Nat
  | _, 0 => m
  | bs, n + 1 => putCells (putCell m key (leNat (bs.take 9))) (key + 1) (bs.drop 9) n

/-- A core is rebuilt from its record. -/
def State.restoreCore (s : State) (pid slot : Nat) (helds : List Held) (bound : Map Nat) (im : CoreImage) : State :=
  let core := im.core
  let s0 := s.clearCore pid core
  let p := s0.part pid
  let n := 8 * p.g * 64
  let has0 := im.w2.testBit 18
  let has1 := im.w2.testBit 19
  let c := s0.coreOf core
  let cells0 := if has0 then putCells c.cells (cellKey 0 (8 * p.k0 core) 0) im.tiles n else c.cells
  let cells1 := if has1 then putCells cells0 (cellKey 1 (8 * p.k0 core) 0) (if has0 then im.tiles.drop (9 * n) else im.tiles) n else cells0
  let s1 := s0.setCore core { c with cells := cells1 }
  let st (t : Nat) : Nat := bits im.w2 (12 + 4 * t) (10 + 4 * t) + 8 * bits im.w2 (8 + t) (8 + t)
  let s2 := s1.setPCore pid core { s1.pcore pid core with
    accst := #v[st 0, st 1], holder := if im.w2.testBit 7 then some (bits im.w2 6 4) else none }
  let s3 := s2.writeBytes (laneBase core + 0x80000 * p.k0 core) none im.lm
  let r := s3.restoreStrands pid slot core helds im.slots (p.k0 core) im.strands
  let s4 := ((List.range p.g).zip im.slots).foldl (fun s q => s.setSeqSlot core (p.k0 core + q.1) (readSlot r.1 q.2)) r.2
  s4.resetAdvice pid core (Map.getD bound core 0)

/-- EMPTY: every engine has creation values, lane memory is zero, and the advice context is idle (R348). -/
def State.createCore (s : State) (pid : Nat) (bound : Map Nat) (core : Nat) : State :=
  let p := s.part pid
  let s1 := s.clearCore pid core
  (s1.writeBytes (laneBase core + 0x80000 * p.k0 core) none (List.replicate (0x80000 * p.g) 0)).resetAdvice pid core (Map.getD bound core 0)

/-- A save area holds an image that passes the checks. -/
def State.imageIn (s : State) (p : Part) (slot : Nat) : Option (List Byte × State) :=
  let c := p.ctxAt slot
  let v := s.vf c.vfn
  let a := pkgAddr c.save
  if (s.poisoned a 4096).isSome then none
  else
    let h := s.readSave c 4096
    if headOk p v h.1 = false ∨ (s.poisoned a (imgSize h.1)).isSome then none
    else
      let r := s.readSave c (imgSize h.1)
      if recordsOk p r.1 = false ∨ featMissing v r.1 ≠ 0 then none else some r

/-- RESTORE of the next context that qualifies; an image that fails a check parks its entry and is counted. -/
def execRestore (pid : Nat) (s : State) : HostOut :=
  let p := s.part pid
  if p.running.isSome then .next s
  else
    match s.nextSlot pid p.last with
    | none => .next s
    | some slot =>
      let c := p.ctxAt slot
      match s.imageIn p slot with
      | none =>
        .next { s.setPart pid (p.putCtx slot { c with park := true }) with
          tele := { s.tele with restoreFails := s.tele.restoreFails + 1 } }
      | some (bs, s1) =>
        let s2 := s1.setPart pid (p.restoreHead slot bs)
        let s3 :=
          if imgEmpty bs then p.cores.foldl (fun s k => s.createCore pid c.bound k) s2
          else (readCores (readFmts (bs.drop 4096)) p.g (imgCores bs) (bs.drop 5120)).foldl
            (fun s im => s.restoreCore pid slot c.held c.bound im) s2
        .next (s3.setPart pid { s3.part pid with running := some slot, last := slot, sliceDue := s3.now + usCycles c.slice })

/-! ## Entry writes (R402, R404) -/

/-- An entry write that is refused; an entry whose translation record is not VALID cannot be made VALID (R439). -/
def badEntry (c : Ctx) (bs : List Byte) : Bool :=
  let plim := numAt bs 0x0A 2
  (numAt bs 0x0C 1).testBit 0
    && (!c.xvalid || decide (numAt bs 8 2 = 0) || decide (1 ≤ plim ∧ plim ≤ 7) || decide (numAt bs 0 8 % 4096 ≠ 0))

/-- Clearing VALID aborts the context's launches that are not final. -/
def State.abortContext (s : State) (pid slot : Nat) : State :=
  s.vfs.foldl (fun (s : State) (c : Nat × VF) =>
    if c.2.pid = pid then
      c.2.journal.foldl (fun (s : State) (e : Nat × JEntry) =>
        if e.2.kind = 1 ∧ cmdCtx e.2.cmd = slot then
          (if e.2.state = .accepted then s.finalise c.1 e.2.seq .aborted 0x0A
          else if e.2.state = .dispatched then s.stopLaunch c.1 e.2.seq 0x0A else s)
        else s) s
    else s) s

/-- CONTEXT_ENTRY_WRITE. -/
def execContextEntryWrite (pid slot : Nat) (body : List Byte) (s : State) : HostOut :=
  if 64 ≤ slot ∨ badEntry ((s.part pid).ctxAt slot) body = true then .next s
  else
    let p := s.part pid
    let c := p.ctxAt slot
    let f := numAt body 0x0C 1
    let c1 := { c with
      save := numAt body 0 8
      slice := numAt body 8 2
      plim := numAt body 0x0A 2
      valid := f.testBit 0
      park := f.testBit 2 }
    let s1 := s.setPart pid (p.putCtx slot c1)
    let s2 := if p.running = some slot ∧ (c1.valid = false ∨ c1.park = true) then s1.preempt pid else s1
    .next (if c.valid && !c1.valid then s2.abortContext pid slot else s2)

end Sys2Proof.Machine
end

