-- ==== Sys2Proof/Machine/Control.lean ====
section
/-!
DEFINITION. Branches, calls, NOP and YIELD (R177, R178). Offsets count words; the link value is pc + 8; operands are read before
the link is written. A target is checked at the branch, which then has no effect (R149, R157).
-/
namespace Sys2Proof.Machine

/-- Wrap64(pc + 8 × SX(imm, n)). -/
def State.offTarget {n : Nat} (s : State) (off : BitVec n) : Word := s.me.pc + (sx off <<< 3)

/-- pc := t. -/
def jumpTo (t : Word) (s : State) : Out := finish (s.branch s t)
/-- s_d := pc + 8; pc := t. -/
def callTo (d : SReg) (t : Word) (s : State) : Out := finish ((s.wS d (s.me.pc + 8)).branch s t)
/-- A compare and branch. -/
def branchIf (c : Word → Word → Bool) (d a : SReg) (off : BitVec 29) (s : State) : Out :=
  if c (s.rS d) (s.rS a) then jumpTo (s.offTarget off) s else .next (s.advance 8)

def execJ (off : BitVec 29) (s : State) : Out := jumpTo (s.offTarget off) s
def execCall (d : SReg) (off : BitVec 29) (s : State) : Out := callTo d (s.offTarget off) s
def execJr (a : SReg) (s : State) : Out := jumpTo (alignTarget (s.rS a)) s
def execCallr (d a : SReg) (s : State) : Out := callTo d (alignTarget (s.rS a)) s
/-- RET differs from JR only as a hint (Table 7.5). -/
def execRet (a : SReg) (s : State) : Out := jumpTo (alignTarget (s.rS a)) s

def cEq (x y : Word) : Bool := x == y
def cNe (x y : Word) : Bool := x != y
def cLt (x y : Word) : Bool := decide (x.toInt < y.toInt)
def cGe (x y : Word) : Bool := decide (y.toInt ≤ x.toInt)
def cLtn (x y : Word) : Bool := decide (x.toNat < y.toNat)
def cGen (x y : Word) : Bool := decide (y.toNat ≤ x.toNat)

def execBeq (d a : SReg) (off : BitVec 29) (s : State) : Out := branchIf cEq d a off s
def execBne (d a : SReg) (off : BitVec 29) (s : State) : Out := branchIf cNe d a off s
def execBlt (d a : SReg) (off : BitVec 29) (s : State) : Out := branchIf cLt d a off s
def execBge (d a : SReg) (off : BitVec 29) (s : State) : Out := branchIf cGe d a off s
def execBltn (d a : SReg) (off : BitVec 29) (s : State) : Out := branchIf cLtn d a off s
def execBgen (d a : SReg) (off : BitVec 29) (s : State) : Out := branchIf cGen d a off s

def execNop (s : State) : Out := .next (s.advance 8)

/-- The other strands of the partition on the core that are ready. -/
def State.readySiblings (s : State) : List Nat :=
  ((List.range s.g).map (· + s.myPart.k0 s.cur.core)).filter (fun k =>
    decide (k ≠ s.cur.strand) && decide ((s.strand s.cur.core k).run = .ready))

/-- YIELD is performed, then the strand issues nothing for 16 cycles, or until every sibling that was ready has issued (R178). Log 61. -/
def execYield (s : State) : Out := finish (.wait (.yield (19 * s.now + 320) s.readySiblings) (s.advance 8))

end Sys2Proof.Machine
end

