-- ==== Sys2Proof/Machine/Management.lean ====
section
/-!
DEFINITION. The management function (R430–R447): the window and its doorbell, the requests of Table 21.3, and the events
S2INVAL_COMPLETE and DOORBELL_WHILE_BUSY. A request is its 64-byte header followed by its body; the places of the fields of a body
that the manual only names are those of log 44.
-/
namespace Sys2Proof.Machine

/-! ## Requests (R432) -/

/-- The body of a request. -/
def reqBody (r : List Byte) : List Byte := r.drop 64
/-- KIND, LEN and the zeros of the header; the request is as long as LEN says. -/
def reqOk (kind len : Nat) (r : List Byte) : Bool :=
  decide (numAt r 0 2 = kind) && decide (numAt r 2 1 = len) && zeroAt r 3 61 && decide (r.length = 64 * len)
/-- Bytes n and above of the body are 0. -/
def restZero (r : List Byte) (n : Nat) : Bool := ((reqBody r).drop n).all (· == 0)

/-- The request is finished: reply, then STATUS. -/
def State.finishReq (s : State) (code : Nat) (reply : List Byte) : State :=
  { s with mgmt := { s.mgmt with busy := false, code := code, seq := (s.mgmt.seq + 1) % 2 ^ 48, reply := reply } }

/-- A request that is refused changes nothing else. -/
def refuse (s : State) (code : Nat) : HostOut := .next (s.finishReq code [])

/-- DOORBELL: it starts the request in the request area, or is counted while another runs. -/
def State.doorbell (s : State) : State :=
  if s.mgmt.busy then { s with tele := { s.tele with doorbells := s.tele.doorbells + 1 } }
  else { s with mgmt := { s.mgmt with busy := true } }

/-- Its well-formed requests go on; the others are malformed. While an S2INVAL is under way the DOORBELL of another request is counted
alone. -/
def request (kind len : Nat) (r : List Byte) (s : State) (k : List Byte → HostOut) : HostOut :=
  if s.mgmt.s2pending.isSome then .next s.doorbell else if reqOk kind len r then k (reqBody r) else refuse s 1

/-! ## Partition records (R433–R436) -/

/-- GC of g. -/
def gcOf (g : Nat) : Nat := if g = 1 then 0 else if g = 2 then 1 else if g = 4 then 2 else 3

/-- The 1,024 bytes of a partition record. -/
def Part.record (pid : Nat) (p : Part) : List Byte :=
  padTo 1024 (padTo 0x40 (leBytes 1 pid ++ leBytes 1 (gcOf p.g) ++ leBytes 2 p.tclass ++ leBytes 4 p.spans ++ leBytes 2 p.floor
      ++ leBytes 2 p.kbase ++ leBytes 4 p.kcnt ++ leBytes 4 p.pfb ++ leBytes 4 p.pinb ++ leBytes 2 p.biasMax)
    ++ (List.range 768).flatMap (fun c => leBytes 1 (match Map.get? p.own c with | some k => 128 + k | none => Map.getD p.unowned c 0)))

/-- K0 of the cores whose OWN is as given: of those that are not owned, only where it is not 0. -/
def readOwn (own : Bool) (b : List Byte) : Map Nat :=
  (List.range 768).filterMap (fun c =>
    let o := numAt b (0x40 + c) 1
    if o.testBit 7 = own ∧ (own = true ∨ bits o 2 0 ≠ 0) then some (c, bits o 2 0) else none)

/-- OWN of the cores of some dies is cleared; their K0 stays (R455, log 62). -/
def Part.disown (p : Part) (dies : Nat) : Part :=
  let gone := p.own.filter (fun c => dies.testBit (dieOf c.1) && decide (c.2 ≠ 0))
  { p with
    own := p.own.filter (fun c => !dies.testBit (dieOf c.1))
    unowned := gone.foldl (fun m c => Map.set m c.1 c.2) p.unowned }

/-- The partition that a record describes, over what base held. -/
def readPart (base : Part) (b : List Byte) : Part :=
  { base with
    g := 2 ^ bits (numAt b 1 1) 1 0
    tclass := bits (numAt b 2 2) 4 0
    spans := numAt b 4 4
    floor := bits (numAt b 8 2) 11 0
    kbase := bits (numAt b 0x0A 2) 10 0
    kcnt := bits (numAt b 0x0C 4) 11 0
    pfb := bits (numAt b 0x10 4) 16 0
    pinb := bits (numAt b 0x14 4) 18 0
    biasMax := bits (numAt b 0x18 2) 8 0
    own := readOwn true b
    unowned := readOwn false b }

/-- Every byte and bit that Table 21.4 does not name is 0: the record is rebuilt from its fields. -/
def recordClean (b : List Byte) : Bool := decide ((readPart Part.reset b).record (bits (numAt b 0 1) 4 0) = b)

/-- Status 1 of R434. -/
def Part.badRecord (p : Part) : Bool :=
  decide (p.own = []) || p.own.any (fun c => decide (c.2 % p.g ≠ 0 ∨ 8 < c.2 + p.g)) || decide (p.floor = 0)
    || decide (65536 < p.pfb ∨ 262144 < p.pinb ∨ 256 < p.biasMax) || decide (2047 < p.kbase + p.kcnt)

/-- Two half-open ranges of numbers meet. -/
def meet (a n b m : Nat) : Bool := decide (a < b + m ∧ b < a + n ∧ n ≠ 0 ∧ m ≠ 0)

/-- Status 2 of R434. -/
def Part.clashes (p q : Part) : Bool :=
  p.own.any (fun c => match Map.get? q.own c.1 with | some k => meet c.2 p.g k q.g | none => false)
    || meet p.kbase p.kcnt q.kbase q.kcnt || decide (p.tclass = q.tclass) || decide (p.spans &&& q.spans ≠ 0)

/-- A context entry of the partition is VALID. -/
def Part.hasValid (p : Part) : Bool := p.ctxs.any (fun c => c.2.valid)

/-- The status of a PARTWRITE of q over the record of pid, if any (R434). -/
def partwriteCode (s : State) (pid : Nat) (q : Part) : Nat :=
  if q.badRecord then 1
  else if s.parts.any (fun c => decide (c.1 ≠ pid) && q.clashes c.2) then 2
  else
    match Map.get? s.parts pid with
    | none => 0
    | some p =>
      if p.hasValid && decide (p.g ≠ q.g ∨ p.tclass ≠ q.tclass ∨ p.kbase ≠ q.kbase ∨ p.kcnt ≠ q.kcnt ∨ p.own ≠ q.own ∨ p.unowned ≠ q.unowned) then 3 else 0

/-- A lane group that passes to a new owner: lane memory, tile rows, sequencer slot and strand (R110, R435). -/
def State.scrubGroup (s : State) (core k : Nat) : State :=
  let a := laneBase core + 0x80000 * k
  let c := s.coreOf core
  let mine (key : Nat) : Bool := decide (key / 64 % 64 / 8 = k)
  let s1 := s.setCore core { c with
    cells := c.cells.filter (fun x => !mine x.1), badCells := c.badCells.filter (fun x => !mine x), seqs := Map.erase c.seqs k }
  let s2 := s1.setStrand core k Strand.reset
  { s2 with
    mem := Memory.clear s2.mem a 0x80000
    poison := s2.poison.filter (fun x => decide (8 * x.1 < a ∨ a + 0x80000 ≤ 8 * x.1)) }

/-- The groups that q owns and p does not. -/
def Part.gained (p q : Part) : List (Nat × Nat) :=
  q.own.flatMap (fun c => ((List.range q.g).map (fun i => (c.1, c.2 + i))).filter (fun g => !p.ownsGroup g.1 g.2))

/-- The span table that the records make (R436). -/
def spanTableOf (ps : Map Part) : Vector Span 32 :=
  Vector.ofFn (fun k => match ps.find? (fun c => c.2.spans.testBit k.val) with | some c => ⟨false, c.2.tclass⟩ | none => ⟨true, 0⟩)

/-- What a partition keeps on a core as its groups there are prepared; the counters of its advice context stay (R456). -/
def PCore.scrub (c : PCore) : PCore := { PCore.reset with adv := { c.adv.rebind 0 with run := .ended } }

/-- The span table follows the records from the frame that the fabric manager announces (R144, R436). -/
def State.announce (s : State) : State :=
  { s with nextTab := some (s.now / 8192 + 1 + Config.announced s.freeCtr, spanTableOf s.parts), freeCtr := s.freeCtr + 1 }

/-- The record of pid becomes q: groups gained are scrubbed, and no translation of a partition that gives up groups survives, before
another can own them (R435). -/
def State.installPart (s : State) (pid : Nat) (q : Part) : State :=
  let old := s.part pid
  let was : Part := if (Map.get? s.parts pid).isSome then old else { old with own := [] }
  let gs := was.gained q
  let s1 := gs.foldl (fun s g => s.scrubGroup g.1 g.2) s
  let s2 := (gs.map (·.1)).eraseDups.foldl (fun s c => s.setPCore pid c (s.pcore pid c).scrub) s1
  let s3 := if q.gained was = [] then s2 else s2.purgeTlb (fun e => decide (e.pid = pid))
  (s3.setPart pid q).announce

/-- The counters of a partition (Table 22.4). -/
def Part.counts (p : Part) : List Nat := [p.expansions, p.splits, p.late, p.plimOver, p.s2faults, p.races, p.digestFails]
def Part.withCounts (p : Part) (cs : List Nat) : Part :=
  let n (i : Nat) : Nat := cs.getD i 0
  { p with expansions := n 0, splits := n 1, late := n 2, plimOver := n 3, s2faults := n 4, races := n 5, digestFails := n 6 }

/-- What a PARTWRITE of pid starts from: the partition, or one at its reset values with the counters that its number has. -/
def State.partBase (s : State) (pid : Nat) : Part :=
  match Map.get? s.parts pid with
  | some p => p
  | none => Part.reset.withCounts (Map.getD s.tele.gone pid [])

/-- PARTWRITE. -/
def execPartwrite (body : List Byte) (s : State) : HostOut :=
  request 1 17 body s (fun b =>
    let pid := bits (numAt b 0 1) 4 0
    let r := readPart (s.partBase pid) b
    let q := r.disown s.tele.fenced
    let code := if recordClean b && !r.badRecord then partwriteCode s pid q else 1
    if code ≠ 0 then refuse s code else .next ((s.installPart pid q).finishReq 0 []))

/-- PARTREMOVE. -/
def execPartremove (body : List Byte) (s : State) : HostOut :=
  request 2 2 body s (fun b =>
    let pid := numAt b 0 8
    match Map.get? s.parts pid with
    | none => refuse s 1
    | some p =>
      if restZero body 8 = false then refuse s 1
      else if p.hasValid ∨ s.vfs.any (fun c => decide (c.2.pid = pid)) then refuse s 3
      else
        let s1 := p.cores.foldl (fun s c => (p.groups_ c).foldl (fun s k => s.setStrand c k Strand.reset) s) s
        let s2 := { s1.purgeTlb (fun e => decide (e.pid = pid)) with
          parts := Map.erase s1.parts pid
          pcores := s1.pcores.map (fun (c : Nat × PCore) => (c.1, if c.1 / 1024 = pid then c.2.scrub else c.2))
          tele := { s1.tele with gone := Map.set s1.tele.gone pid p.counts } }
        .next (s2.announce.finishReq 0 []))

/-! ## Virtual-function records (R437) -/

/-- The 64 bytes of a virtual-function record. -/
def VF.record (vfn : Nat) (v : VF) : List Byte :=
  padTo 64 (leBytes 2 vfn ++ leBytes 1 v.pid ++ leBytes 1 (b2n v.en) ++ leBytes 2 v.kbase ++ leBytes 2 v.kcnt ++ w8 v.s2root
    ++ w8 v.s2key ++ w8 v.mask0.toNat ++ w8 v.mask1.toNat)

/-- The function that a record describes; the measurement log empties (R446). -/
def readVf (base : VF) (b : List Byte) : VF :=
  { base with
    pid := bits (numAt b 2 1) 4 0
    en := (numAt b 3 1).testBit 0
    kbase := bits (numAt b 4 2) 10 0
    kcnt := bits (numAt b 6 2) 11 0
    s2root := bits (numAt b 8 8) 56 0
    s2key := bits (numAt b 0x10 8) 10 0
    mask0 := BitVec.ofNat 64 (numAt b 0x18 8)
    mask1 := BitVec.ofNat 64 (numAt b 0x20 8)
    mlog := [] }

/-- A context of the function is VALID. -/
def State.vfValid (s : State) (vfn : Nat) : Bool := s.parts.any (fun c => c.2.ctxs.any (fun e => e.2.valid && decide (e.2.vfn = vfn)))

/-- The status of a VFWRITE of w, if any. -/
def vfwriteCode (s : State) (vfn : Nat) (w : VF) : Nat :=
  match Map.get? s.parts w.pid with
  | none => 1
  | some p =>
    if w.s2root % 65536 ≠ 0 ∨ ¬(w.kbase ≤ w.s2key ∧ w.s2key < w.kbase + w.kcnt) then 1
    else if w.kbase < p.kbase ∨ p.kbase + p.kcnt < w.kbase + w.kcnt
        ∨ s.vfs.any (fun c => decide (c.1 ≠ vfn) && meet w.kbase w.kcnt c.2.kbase c.2.kcnt) then 2
    else
      match Map.get? s.vfs vfn with
      | none => 0
      | some v => if s.vfValid vfn && decide (v.pid ≠ w.pid ∨ v.kbase ≠ w.kbase ∨ v.kcnt ≠ w.kcnt) then 3 else 0

/-- VFWRITE. -/
def execVfwrite (body : List Byte) (s : State) : HostOut :=
  request 3 2 body s (fun b =>
    let vfn := bits (numAt b 0 2) 9 0
    let w := readVf (s.vf vfn) b
    let code := if w.record vfn = b then vfwriteCode s vfn w else 1
    if code ≠ 0 then refuse s code else .next ((s.setVf vfn w).finishReq 0 []))

/-- A slot lies in some partition's key range. Log 13. -/
def State.keyOwned (s : State) (id : Nat) : Bool := s.parts.any (fun c => decide (c.2.kbase ≤ id ∧ id < c.2.kbase + c.2.kcnt))

/-! ## Context translation records (R439) -/

/-- CTXXLATE: PID, SLOT, VFN, ROOT, TKEY and VALID, one word each. -/
def execCtxxlate (body : List Byte) (s : State) : HostOut :=
  request 4 2 body s (fun b =>
    let pid := numAt b 0 8
    let slot := numAt b 8 8
    let vfn := numAt b 0x10 8
    let root := numAt b 0x18 8
    let tkey := numAt b 0x20 8
    let valid := numAt b 0x28 8
    match Map.get? s.parts pid with
    | none => refuse s 1
    | some p =>
      if 64 ≤ slot ∨ (s.vf vfn).pid ≠ pid ∨ (Map.get? s.vfs vfn).isNone ∨ root % 65536 ≠ 0 ∨ 2 ^ 55 ≤ root ∨ 2048 ≤ tkey ∨ 1 < valid
          ∨ restZero body 0x30 = false then refuse s 1
      else if s.keyOwned tkey = false then refuse s 2
      else
        let c := p.ctxAt slot
        let s1 := s.setPart pid (p.putCtx slot { c with vfn := vfn, root := root, tkey := tkey, xvalid := decide (valid = 1) })
        let stop := decide (p.running = some slot) && c.xvalid && decide (valid = 0)
        .next ((if stop then (s1.preempt pid).abortContext pid slot else s1).finishReq 0 []))

/-! ## S2INVAL (R430) -/

/-- S2INVAL: the function's translations of the IPA page, of 64 KiB or 512 MiB, or all of them, are removed; the request stays under way until the accesses that used one are
performed: those of one IPA page, or all. Log 18. -/
def execS2inval (body : List Byte) (s : State) : HostOut :=
  request 5 2 body s (fun b =>
    let vfn := numAt b 0 8
    let page := numAt b 8 8
    if (Map.get? s.vfs vfn).isNone ∨ restZero body 0x10 = false ∨ (page ≠ 2 ^ 64 - 1 ∧ (page % 65536 ≠ 0 ∨ 2 ^ 55 ≤ page)) then refuse s 1
    else
      let s1 := s.purgeTlb (fun e => decide (e.vfn = vfn) && (decide (page = 2 ^ 64 - 1) || decide (e.ipa = page)
        || (e.ipaBig && decide (e.ipa / 2 ^ 29 = page / 2 ^ 29))))
      .next { s1 with mgmt := { s1.mgmt with busy := true, s2pending := some vfn } })

/-- S2INVAL_COMPLETE. -/
def execS2invalComplete (s : State) : HostOut :=
  match s.mgmt.s2pending with
  | none => .next s
  | some vfn =>
    .next (if s.storesDone (s.vf vfn).pid then ({ s with mgmt := { s.mgmt with s2pending := none } }).finishReq 0 [] else s)

/-! ## Keys (R441) -/

/-- A key request on a slot: its number, range and state. -/
def keyRequest (kind : Nat) (body : List Byte) (loaded : Bool) (s : State) (k : Nat → HostOut) : HostOut :=
  let id := numAt (reqBody body) 0 8
  if s.mgmt.s2pending.isSome then .next s.doorbell
  else if decide (numAt body 0 2 = kind) = false ∨ body.length < 128 ∨ body.length ≠ 64 * numAt body 2 1 ∨ zeroAt body 3 61 = false
      ∨ 2048 ≤ id then refuse s 1
  else if s.keyOwned id = false then refuse s 2
  else if (Map.get? s.keys id).isSome ≠ loaded then refuse s 4
  else k id

/-- KEYGEN: new material. -/
def execKeygen (body : List Byte) (s : State) : HostOut :=
  keyRequest 6 body false s (fun id =>
    if restZero body 8 = false then refuse s 1
    else .next ({ s with keys := Map.set s.keys id s.fresh, fresh := s.fresh + 1 }.finishReq 0 []))

/-- KEYCLEAR: the slot empties; translations and cache lines that carry its id go, and with the lines their class and pins. -/
def execKeyclear (body : List Byte) (s : State) : HostOut :=
  keyRequest 7 body true s (fun id =>
    if restZero body 8 = false then refuse s 1
    else
      let s1 := s.purgeTlb (fun e => decide (e.key = id))
      let drop (l : Map Line) : Map Line := l.filter (fun x => decide (x.2.key ≠ some id))
      let cls : Map Cluster := s1.clusters.map (fun c => (c.1, { c.2 with lines := drop c.2.lines }))
      let gone := s1.clusters.flatMap (fun c => (c.2.lines.filter (fun x => decide (x.2.key = some id))).map (fun x => (c.1, x.1)))
      let s2 := gone.foldl (fun s l => s.unpin l.1 l.2) { s1 with keys := Map.erase s1.keys id, clusters := cls }
      .next (s2.finishReq 0 []))

/-- KEYWRAP: the reply is the wrapped blob for a peer identity. -/
def execKeywrap (body : List Byte) (s : State) : HostOut :=
  keyRequest 8 body true s (fun id =>
    .next (s.finishReq 0 (Config.wrapKey ((Map.get? s.keys id).getD 0) ((reqBody body).drop 8))))

/-- KEYLOAD of a blob wrapped to this package. -/
def execKeyload (body : List Byte) (s : State) : HostOut :=
  keyRequest 9 body false s (fun id =>
    match Config.unwrapKey ((reqBody body).drop 8) with
    | none => refuse s 1
    | some mat => .next ({ s with keys := Map.set s.keys id mat }.finishReq 0 []))

/-! ## Measurement and attestation (R330, R446, R447) -/

/-- n bytes at va, page by page, through context slot 0 of a partition. -/
def State.readRange (s : State) (pid : Nat) : List (Word × Nat) → Option (List Byte)
  | [] => some []
  | (a, n) :: r =>
    match s.hostRead pid 0 a n with
    | none => none
    | some (bs, _) => (s.readRange pid r).map (bs ++ ·)

/-- The contents of section code in an HGI file, if it has that section. -/
def hgiSection (f : List Byte) (code : Nat) : List Byte :=
  let off := numAt f 0x40 8
  match (List.range (numAt f 0x30 4)).find? (fun i => decide (numAt f (off + 32 * i) 4 = code)) with
  | none => []
  | some i => (f.drop (numAt f (off + 32 * i + 8) 8)).take (numAt f (off + 32 * i + 16) 8)

/-- The semantic image hash (R330). Log 60. -/
def hgiHash (f : List Byte) : List Byte :=
  sha512 (f.take 0x70 ++ [0, 1, 2, 3, 4, 6].flatMap (hgiSection f)
    ++ (f.drop (numAt f 0x58 8)).take (Config.relocBytes * numAt f 0x3C 4))

/-- The context of slot 0 is the function's, and its translation record is VALID. -/
def State.ownsSlot0 (s : State) (vfn : Nat) (v : VF) : Bool :=
  let c := (s.part v.pid).ctxAt 0
  c.xvalid && decide (c.vfn = vfn)

/-- MEASURE: function, VA and length, one word each. Log 59. -/
def execMeasure (body : List Byte) (s : State) : HostOut :=
  request 10 2 body s (fun b =>
    let vfn := numAt b 0 8
    let len := numAt b 0x10 8
    match Map.get? s.vfs vfn with
    | none => refuse s 1
    | some v =>
      match (if s.ownsSlot0 vfn v then s.readRange v.pid (rangePages (BitVec.ofNat 64 (numAt b 8 8)) len) else none) with
      | none => refuse s 1
      | some f =>
        if restZero body 0x18 = false ∨ len < 176 ∨ hgiHash f ≠ (f.drop 0x70).take 64 then refuse s 1
        else if 64 ≤ v.mlog.length then refuse s 5
        else .next ((s.setVf vfn { v with mlog := v.mlog ++ [hgiHash f] }).finishReq 0 []))

/-- The signed part of the report (Table 21.6). Log 65. -/
def State.report (s : State) (vfn : Nat) (v : VF) (nonce : List Byte) : List Byte :=
  [0x48, 0x47, 0x54, 0x00] ++ leBytes 2 vfn ++ leBytes 2 v.mlog.length ++ w8 Config.chipSerial.toNat ++ leBytes 4 s.fw.svn
    ++ List.replicate 12 0 ++ sha512 s.fw.image ++ sha512 ((s.part v.pid).record v.pid) ++ sha512 (v.record vfn) ++ nonce ++ v.mlog.flatten

/-- The 132 bytes of the signature: two 66-byte big-endian integers. -/
def signature (svn : Nat) (rep : List Byte) : List Byte := (List.range 132).map (Config.sign svn rep)

/-- ATTEST: the function in the first word, the nonce at byte 64. The reply is the report, its signature, and the public key of the
identity (R445). -/
def execAttest (body : List Byte) (s : State) : HostOut :=
  request 11 3 body s (fun b =>
    let vfn := numAt b 0 8
    match Map.get? s.vfs vfn with
    | none => refuse s 1
    | some v =>
      if zeroAt b 8 56 = false then refuse s 1
      else
        let rep := s.report vfn v ((b.drop 64).take 64)
        .next (s.finishReq 0 (rep ++ signature s.fw.svn rep ++ Config.identityKey s.fw.svn)))

/-! ## The window (R431, R432) -/

/-- STATUS: [63] BUSY, [55:48] the code and [47:0] the number of the last request finished. -/
def Mgmt.status (m : Mgmt) : Nat := 2 ^ 63 * b2n m.busy + 2 ^ 48 * (m.code % 256) + m.seq % 2 ^ 48

/-- What a read of a byte of the window finds, by its offset from 0x800_0000: the request area, STATUS, the reply area, the stage-2 fault
ring with its counts, and the journal window. -/
def State.windowByte (s : State) (off : Nat) : Byte :=
  let m := s.mgmt
  if off < 0x1000 then (w8 (Map.getD m.window (off / 8) 0).toNat).getD (off % 8) 0
  else if 0x1008 ≤ off ∧ off < 0x1010 then (w8 m.status).getD (off % 8) 0
  else if 0x2000 ≤ off ∧ off < 0x3000 then m.reply.getD (off - 0x2000) 0
  else if 0x4000 ≤ off ∧ off < 0x7FC0 then (Map.getD m.ring ((off - 0x4000) / 64) []).getD (off % 64) 0
  else if 0x7FC0 ≤ off ∧ off < 0x7FC8 then (w8 m.prod).getD (off % 8) 0
  else if 0x7FC8 ≤ off ∧ off < 0x7FD0 then (w8 m.cons).getD (off % 8) 0
  else if 0x8000000 ≤ off ∧ off < 0x18000000 then s.journalWindow (off - 0x8000000)
  else 0

/-- DOORBELL_WHILE_BUSY. -/
def execDoorbellWhileBusy (s : State) : HostOut := .next (if s.mgmt.busy then s.doorbell else s)

/-- A consumer count; one above the producer count is taken as equal to it. -/
def State.consume (s : State) (v : Word) : State := { s with mgmt := { s.mgmt with cons := Nat.min v.toNat s.mgmt.prod } }
def execFaultRingConsumerWrite (v : Word) (s : State) : HostOut := .next (s.consume v)

/-- A write of 8 bytes at an offset of the window; what is not writable ignores it (R13). -/
def execManagementWindowWrite (off : Nat) (v : Word) (s : State) : HostOut :=
  .next (
    if off < 0x1000 then { s with mgmt := { s.mgmt with window := Map.set s.mgmt.window (off / 8) v } }
    else if off = 0x1000 then s.doorbell
    else if off = 0x7FC8 then s.consume v
    else s)

/-- The request in the request area. -/
def State.requestBytes (s : State) : List Byte :=
  let word (i : Nat) : List Byte := w8 (Map.getD s.mgmt.window i 0).toNat
  let n := numAt (word 0) 2 1
  (List.range (8 * Nat.min n 64)).flatMap word

end Sys2Proof.Machine
end

