-- ==== Sys2Proof/Machine/Fleet.lean ====
section
/-!
DEFINITION. Fleet operation (R41, R427, R444, R448–R457): vault temperature, block retirement, fenced dies, telemetry, firmware
update, resets, the stop of a package, and requests that arrive from other packages.
-/
namespace Sys2Proof.Machine

/-! ## Vault temperature (R448, R450) -/

/-- One transition of Table 22.1. -/
def refStep (ref temp : Nat) : Nat :=
  match ref with
  | 0 => if 85 ≤ temp then 1 else 0
  | 1 => if temp ≤ 82 then 0 else if 95 ≤ temp then 2 else 1
  | _ => if temp ≤ 92 then 1 else 2

/-- REF after a sample: transitions until none applies; two suffice. -/
def refAfter (ref temp : Nat) : Nat := refStep (refStep ref temp) temp

/-- A reading as TEMP: 0 to 255. -/
def clampTemp (t : Int) : Nat := Nat.min t.toNat 255

/-- The cluster after a sample of its hottest layer. -/
def Cluster.sample (c : Cluster) (temp : Nat) : Cluster :=
  let r := refAfter c.ref temp
  { c with
    temp := temp
    allow := 85 - temp
    ref := r
    hottest := Nat.max c.hottest temp
    rises1 := if c.ref = 0 ∧ r = 1 then c.rises1 + 1 else c.rises1
    rises2 := if c.ref < 2 ∧ r = 2 then c.rises2 + 1 else c.rises2
    hotUs := if r = 0 then c.hotUs else c.hotUs + 1 }

/-- THERMAL becomes pending in every strand of the cluster whose THEV is set. -/
def heatStrands (cl : Nat) (m : Map Strand) : Map Strand :=
  m.map (fun c =>
    (c.1, if clusterOf (c.1 / 8) = cl ∧ c.2.slkctl.testBit 1 = true ∧ c.2.run ≠ .idle then { c.2 with pendThermal := true } else c.2))

/-- THA_SAMPLE: the readings of a cluster's four layers. -/
def execThaSample (cluster : Nat) (t0 t1 t2 t3 : Int) (s : State) : HostOut :=
  let temp := Nat.max (Nat.max (clampTemp t0) (clampTemp t1)) (Nat.max (clampTemp t2) (clampTemp t3))
  let c := s.cluster cluster
  let d := c.sample temp
  let s1 := s.setCluster cluster d
  .next (if 48 ≤ cluster then s else if c.ref < d.ref then { s1 with strands := heatStrands cluster s1.strands } else s1)

/-! ## Block retirement (R453) -/

/-- The block of an address that firmware would retire: base and size. -/
def blockOf (da : Nat) : Option (Nat × Nat) :=
  match daPlace da with
  | .far => some (da / 65536 * 65536, 65536)
  | .vault _ _ => some (da / 65536 * 65536, 65536)
  | .lane _ _ => some (da / 4096 * 4096, 4096)
  | .none => none

/-- n bytes of memory take unspecified values (log 1). -/
def State.freeBytes (s : State) (a n : Nat) : State :=
  { s with mem := Memory.writeN s.mem a ((List.range n).map (fun i => Config.freeByte (s.freeCtr + i))), freeCtr := s.freeCtr + n }

/-- Words of a block that cannot be corrected hold unspecified bits at their new place, and are sound there. -/
def State.remapWords (s : State) : List Nat → State
  | [] => s
  | w :: ws => { s.freeBytes (8 * w) 8 with poison := Map.erase s.poison w }.remapWords ws

/-- The uncorrectable words among n bytes at a: those of memory itself, or those of code 3, which lie in a cluster cache alone. -/
def State.badWords (s : State) (inCache : Bool) (a n : Nat) : List Nat :=
  (s.poison.filter (fun c => decide (a ≤ 8 * c.1 ∧ 8 * c.1 < a + n) && decide ((c.2 = 3) = (inCache = true)))).map (·.1)

/-- Firmware retires a block after an uncorrectable error in it, or 16 corrected ones within 24 hours. -/
def State.mustRetire (s : State) (a n : Nat) : Bool := decide (s.badWords false a n ≠ []) || Config.worn s.freeCtr a

/-- BLOCK_RETIREMENT: a block that must be retired moves to spare storage, or RETFAIL counts that none is left. Log 67. -/
def execBlockRetirement (addr : Nat) (s : State) : HostOut :=
  match blockOf addr with
  | none => .next s
  | some (a, n) =>
    if s.mustRetire a n = false then .next s
    else if Config.hasSpare s.tele.spareUsed then
      let s1 := s.remapWords (s.badWords false a n)
      .next { s1 with tele := { s1.tele with retired := s1.tele.retired + 1, spareUsed := s1.tele.spareUsed + 1 } }
    else .next { s with tele := { s.tele with retfail := s.tele.retfail + 1 } }

/-! ## Fenced dies (R41, R455) -/

/-- The ranges of a launch that were unassigned, assigned or partly executed on a die, in increasing order. tasks are the indices
of the tasks that the fence stopped. Log 66. -/
def Launch.lostRanges (l : Launch) (die : Nat) (tasks : List Nat) : List Nat :=
  let un := (l.dists.filter (fun d => decide (d.die = die))).flatMap (·.ranges)
  let asg := (l.units.filter (fun u => decide (l.dieOfUnit u.1 = die))).filterMap (fun u => u.2.range)
  let run := tasks.map (· / l.z)
  let all := un ++ asg ++ run
  ((List.range ((l.total + l.z - 1) / l.z)).filter all.contains)

/-- A range had been assigned to the die. -/
def Launch.assignedOn (l : Launch) (die : Nat) (tasks : List Nat) : Bool :=
  l.units.any (fun u => decide (l.dieOfUnit u.1 = die) && (u.2.range.isSome || decide (u.2.nextGrp ≠ 0)))
    || l.dists.any (fun d => decide (d.die = die) && decide (d.retiredRanges ≠ 0)) || decide (tasks ≠ [])

/-- The launch after a fence of the die: reissued over the surviving dies, or failing (R41). -/
def Launch.fence (l : Launch) (die : Nat) (survivors : List Nat) (tasks : List Nat) : Launch :=
  let lost := l.lostRanges die tasks
  let touched := l.dists.any (fun d => decide (d.die = die)) || decide (lost ≠ [])
  if touched = false then l
  else if l.idemp = false ∧ l.assignedOn die tasks = true then
    { l with fenceFail := true, dists := l.dists.map (fun d => { d with ranges := [] }) }
  else
    let heirs := if l.serial then survivors.take 1 else survivors
    let parts := splitRanges lost heirs
    let old := l.dists.filter (fun d => decide (d.die ≠ die))
    let add (d : Dist) : Dist :=
      { d with ranges := sortNat (d.ranges ++ ((parts.find? (fun q => q.die == d.die)).map (·.ranges)).getD []) }
    let news := parts.filter (fun q => !old.any (fun d => decide (d.die = q.die)))
    { l with
      dists := old.map add ++ news
      units := (l.units.filter (fun u => decide (l.dieOfUnit u.1 ≠ die))).map (fun u => (u.1, { u.2 with waiting := false }))
      retired := l.retired.filter (fun r => !lost.contains (r.1 / l.z)) }

/-- The die of a cluster (R6). -/
def dieOfCluster (c : Nat) : Nat := c % 8 / 4 + 2 * (c / 8 / 3)

/-- Keys of the strands on a die that a partition owns. -/
def State.dieStrands (s : State) (die : Nat) : List Nat := (s.strands.map (·.1)).filter (fun k => decide (dieOf (k / 8) = die))

/-- Every strand, engine and advice context of a die stops, and its state is discarded; the counters of Table 22.4 stay. -/
def State.stopDie (s : State) (die : Nat) : State :=
  let ks := s.dieStrands die
  let uids := ks.map (fun k => (s.strand (k / 8) (k % 8)).uid)
  let ts := (s.xfers.filter (fun c => uids.contains c.2.uid)).map (·.1)
  let cs := (s.colls.filter (fun c => uids.contains c.2.uid)).map (·.1)
  let s1 := ts.foldl State.killXfer (ts.foldl State.endIteration s)
  let s2 := cs.foldl State.killColl s1
  let s3 := (ks.foldl State.killStrand s2).dropAgents (uids ++ ts ++ cs)
  { s3 with
    cur := s.cur
    strands := s3.strands.filter (fun c => decide (dieOf (c.1 / 8) ≠ die))
    cores := s3.cores.map (fun c => (c.1, if dieOf c.1 = die then { Core.reset with vstall := c.2.vstall } else c.2))
    pcores := s3.pcores.map (fun c => (c.1, if dieOf (c.1 % 1024) = die then c.2.scrub else c.2))
    clusters := s3.clusters.map (fun c => (c.1, if dieOfCluster c.1 = die then { c.2 with tlb := [] } else c.2)) }

/-- A line with writes to far memory cannot be read: its words are bad, or Config.lineLost says so (R455). -/
def State.lineBad (s : State) (line : Nat) : Bool :=
  Config.lineLost s.freeCtr line || decide (s.badWords true (line * Config.lineBytes) Config.lineBytes ≠ [])

/-- A line is lost: it is counted, and its far-memory bytes are those last written back, and sound; those that others have written since
stay. -/
def State.loseLine (s : State) (line : Nat) (l : Line) : State :=
  let a := line * Config.lineBytes
  let back := l.back.getD ([], none)
  { s with
    mem := (List.range back.1.length).foldl (fun m o => if l.newer.contains o then m else Memory.write m (a + o) (back.1.getD o 0)) s.mem
    memKey := if l.newer = [] then setKey s.memKey (a / 64) back.2 else s.memKey
    poison := (s.badWords true a Config.lineBytes).foldl Map.erase s.poison
    tele := { s.tele with uncorrectable := Map.set s.tele.uncorrectable 3 (Map.getD s.tele.uncorrectable 3 0 + 1) } }

/-- The die's cluster-cache lines that hold writes to far memory are written back, where they can be read (R455). Log 66. -/
def State.writeBack (s : State) (die : Nat) : State :=
  let mine := s.clusters.filter (fun c => decide (dieOfCluster c.1 = die))
  let lost := (mine.flatMap (fun c => c.2.lines.filter (fun l => l.2.back.isSome))).filter (fun l => s.lineBad l.1)
  let s1 := lost.foldl (fun s l => s.loseLine l.1 l.2) s
  { s1 with freeCtr := s1.freeCtr + 1, clusters := s1.clusters.map (fun c => (c.1, if dieOfCluster c.1 = die then { c.2 with lines := [] } else c.2)) }

/-- Lane memory and vaults of a die's cores are lost. -/
def State.loseDie (s : State) (die : Nat) : State :=
  let lost (a : Nat) : Bool := match daPlace a with
    | .lane core _ => decide (dieOf core = die)
    | .vault core _ => decide (dieOf core = die)
    | .far => false
    | .none => false
  { s with
    mem := s.mem.filter (fun c => !lost c.1)
    memKey := s.memKey.filter (fun c => !lost (64 * c.1))
    poison := s.poison.filter (fun c => !lost (8 * c.1)) }

/-- A partition without a core: its DISPATCHED and ACCEPTED launches end ABORTED with cause 0x0A. -/
def State.abortPart (s : State) (pid : Nat) : State :=
  s.vfs.foldl (fun (s : State) (c : Nat × VF) =>
    if c.2.pid = pid then
      c.2.journal.foldl (fun (s : State) (e : Nat × JEntry) =>
        if e.2.kind = 1 then
          (if e.2.state = .accepted then s.finalise c.1 e.2.seq .aborted 0x0A
          else if e.2.state = .dispatched then s.stopLaunch c.1 e.2.seq 0x0A else s)
        else s) s
    else s) s

/-- The tasks of saved contexts that were on the die are lost with it. -/
def Part.loseHeld (p : Part) (die : Nat) : Part :=
  { p with ctxs := p.ctxs.map (fun c => (c.1, { c.2 with held := c.2.held.filter (fun h => decide (dieOf (h.key / 8) ≠ die)) })) }

/-- DIE_FENCE. -/
def execDieFence (n : Fin 4) (s : State) : HostOut :=
  let die := n.val
  let ks := s.dieStrands die
  let tasksOf (key : Nat) : List Nat := ks.filterMap (fun k => match (s.strand (k / 8) (k % 8)).task with
    | some t => if lkey t.vfn t.seq = key then some t.t else none
    | none => none)
    ++ ((s.savedTasks (key % 1024) (key / 1024)).filter (fun h => decide (dieOf (h.key / 8) = die))).map (·.task.t)
  let s1 := ((s.stopDie die).writeBack die).loseDie die
  let parts : Map Part := s1.parts.map (fun c => (c.1, (c.2.disown (2 ^ die)).loseHeld die))
  let s2 := { s1 with parts := parts, tele := { s1.tele with fenced := s1.tele.fenced ||| 2 ^ die } }
  let ls : Map Launch := s2.launches.map (fun c => (c.1, c.2.fence die (s2.liveDies (s2.part c.2.pid)) (tasksOf c.1)))
  let s3 := { s2 with launches := ls }
  let emptied : List Nat := (s.parts.filter (fun c => !c.2.own.isEmpty && (s3.part c.1).own.isEmpty)).map (·.1)
  .next (emptied.foldl State.abortPart s3)

/-! ## Resets and stops (R390, R444, R454, R457) -/

/-- The check that ROM finds failing: 1 the signature, 2 the SVN; 0 where it accepts the image. -/
def bootCheck (svn : Nat) (img : List Byte) : Nat := if Config.fwVerifies img = false then 1 else if Config.fwSvn img < svn then 2 else 0
def bootOk (svn : Nat) (img : List Byte) : Bool := decide (bootCheck svn img = 0)

/-- The copy that ROM tries first, then the other; COMMIT advances the SVN counter once the new image has booted. -/
def Firmware.boot (f : Firmware) : Firmware :=
  let first := if f.fresh then f.other else f.image
  let second := if f.fresh then f.image else f.other
  if bootOk f.svn first then
    ⟨first, second, if f.fresh && f.commit then Nat.max f.svn (Config.fwSvn first) else f.svn, false, false, false, 0, []⟩
  else if bootOk f.svn second then ⟨second, first, f.svn, false, false, false, 0, []⟩
  else { f with recovery := true, status := bootCheck f.svn first + 4 * bootCheck f.svn second }

/-- COLD_RESET: everything but flash and fuses is as State.reset has it. Log 15. -/
def execColdReset (s : State) : HostOut := .next { State.reset with fw := { s.fw with recovery := false, kept := [] }.boot }

/-- Every DISPATCHED launch ends ABORTED with cause 0x0A, its tasks and engines stopped. -/
def State.abortRunning (s : State) : State :=
  s.vfs.foldl (fun (s : State) (c : Nat × VF) =>
    c.2.journal.foldl (fun (s : State) (e : Nat × JEntry) =>
      if e.2.kind = 1 ∧ e.2.state = .dispatched then (s.stopTasks c.1 e.2.seq).finalise c.1 e.2.seq .aborted 0x0A else s) s) s

/-- WARM_RESET: running launches end, nothing executes on, and ROM boots. Records, journal, counters, fences and memory stay; where no
image boots, no virtual function exists until one does (R444). Log 15. -/
def execWarmReset (s : State) : HostOut :=
  let s1 := s.abortRunning
  let idle (p : Part) : Part := { p with running := none, preempting := false, faulted := false }
  let parts : Map Part := s1.parts.map (fun c => (c.1, idle c.2))
  let s2 := parts.foldl (fun (s : State) (c : Nat × Part) => c.2.cores.foldl (fun s k => s.clearCore c.1 k) s) { s1 with parts := parts }
  let vfs := if s.fw.recovery ∧ s2.vfs = [] then s.fw.kept else s2.vfs
  let fw := { s2.fw with recovery := false }.boot
  .next { s2 with
    strands := []
    flights := []
    cores := s2.cores.map (fun c => (c.1, { Core.reset with vstall := c.2.vstall }))
    vfs := if fw.recovery then [] else vfs
    arbs := []
    agents := []
    foot := []
    xfers := []
    colls := []
    clusters := s2.clusters.map (fun c => (c.1, { c.2 with tlb := [], lines := [] }))
    agenda := []
    mgmt := { s2.mgmt with busy := false, s2pending := none }
    cur := ⟨0, 0, 0, 0, false, none⟩
    fw := if fw.recovery then { fw with kept := vfs } else fw }

/-- PACKAGE_STOP: running launches end, and the device answers only as a recovery endpoint. -/
def execPackageStop (s : State) : HostOut :=
  let s1 := s.abortRunning
  .next { s1 with fw := { s1.fw with recovery := true } }

/-! ## Telemetry (R456) -/

/-- An 8-byte counter, saturating. -/
def ctr (n : Nat) : List Byte := w8 (Nat.min n (2 ^ 64 - 1))

def Cluster.counters (c : Cluster) : List Byte := ctr c.hottest ++ ctr c.rises1 ++ ctr c.rises2 ++ ctr c.hotUs
def partCounters (cs : List Nat) : List Byte := ((List.range 7).map (fun i => cs.getD i 0) ++ [0]).flatMap ctr
/-- The counters under a partition's number. -/
def State.countsOf (s : State) (pid : Nat) : List Nat :=
  match Map.get? s.parts pid with
  | some p => p.counts
  | none => Map.getD s.tele.gone pid []
/-- The counters of Table 15.5, 32 bits each, and 4 bytes of 0. -/
def Advice.counters (a : Advice) : List Byte :=
  [a.cMatch, a.cStale, a.cSkip, a.cResync, a.cIdle, a.cDiscard, a.cLag, a.cAfault, a.cDrop, a.cTrim, a.cPfbytes, 0].flatMap (leBytes 4)

/-- The 46,848 bytes of Table 22.4 for partition pid. -/
def State.counterBlock (s : State) (pid : Nat) : List Byte :=
  let t := s.tele
  (List.range 8).flatMap (fun i => ctr (Map.getD t.corrected i 0)) ++ (List.range 8).flatMap (fun i => ctr (Map.getD t.uncorrectable i 0))
    ++ [t.retired, t.retfail, t.doorbells, t.ringDrops, t.doneFails, t.restoreFails, t.mtdrop, 0].flatMap ctr
    ++ w8 t.fenced ++ List.replicate 56 0
    ++ (List.range 48).flatMap (fun c => (s.cluster c).counters)
    ++ (List.range 32).flatMap (fun p => partCounters (s.countsOf p))
    ++ (List.range 768).flatMap (fun c => ctr (s.coreOf c).vstall)
    ++ (List.range 768).flatMap (fun c => (s.pcore pid c).adv.counters)

/-- Every counter of the block is zero; FENCED is no counter. -/
def State.clearCounters (s : State) (pid : Nat) : State :=
  { s with
    tele := { s.tele with
      corrected := [], uncorrectable := [], retired := 0, retfail := 0, doorbells := 0, ringDrops := 0, doneFails := 0,
      restoreFails := 0, mtdrop := 0, gone := [] }
    clusters := s.clusters.map (fun c => (c.1, { c.2 with hottest := 0, rises1 := 0, rises2 := 0, hotUs := 0 }))
    parts := s.parts.map (fun c => (c.1, c.2.withCounts []))
    cores := s.cores.map (fun c => (c.1, { c.2 with vstall := 0 }))
    pcores := s.pcores.map (fun c => (c.1, if c.1 / 1024 = pid then { c.2 with adv := c.2.adv.clear } else c.2)) }

/-- TELEMETRY: flags, PID, OUT, TADDR and TSIZE, one word each. -/
def execTelemetry (body : List Byte) (s : State) : HostOut :=
  request 12 2 body s (fun b =>
    let fl := numAt b 0 8
    let pid := numAt b 8 8
    let out := numAt b 0x10 8
    if 8 ≤ fl ∨ (fl.testBit 1 && fl.testBit 2) = true ∨ 32 ≤ pid ∨ 2 ^ 57 ≤ out ∨ restZero body 0x28 = false then refuse s 1
    else
      let s1 := s.fabricWrite out (s.counterBlock pid)
      let s2 := if fl.testBit 0 then s1.clearCounters pid else s1
      let t := s2.tele
      let t1 : Tele :=
        if fl.testBit 1 then { t with trace := some (pid, numAt b 0x18 8, numAt b 0x20 8), traceLen := 0 }
        else if fl.testBit 2 then { t with trace := none } else t
      .next ({ s2 with tele := t1 }.finishReq 0 []))

/-! ## Firmware update (R457) -/

/-- FWUPDATE: flags, ADDR and LEN, one word each; the image is read as plaintext. -/
def execFwupdate (body : List Byte) (s : State) : HostOut :=
  request 13 2 body s (fun b =>
    let fl := numAt b 0 8
    let r := s.readBytes (numAt b 8 8) none (numAt b 0x10 8)
    if 2 ≤ fl ∨ restZero body 0x18 = false then refuse s 1
    else if bootOk s.fw.svn r.1 = false then refuse s 6
    else .next ({ r.2 with fw := { r.2.fw with other := r.1, fresh := true, commit := fl.testBit 0 } }.finishReq 0 []))

/-! ## Requests of other packages (R183, R427, R443) -/

/-- The partition with a tenant class. -/
def State.classPart (s : State) (tclass : Nat) : Option Part := (s.parts.find? (fun c => decide (c.2.tclass = tclass))).map (·.2)

/-- What leaves: 0 a refusal, 1 data, 3 a write done, 4 an uncorrectable read, 5 nothing is mapped there. -/
def State.answer (s : State) (src kind : Nat) (bs : List Byte) : HostOut := .next { s with out := s.out ++ [⟨kind, src, bs⟩] }

/-- REMOTE_ACCESS_REQUEST: the check of R427 for a requester on package src, then the access under this package's slot of the
key id. -/
def execRemoteAccessRequest (src tclass addr key : Nat) (write : Option (List Byte)) (len : Nat) (s : State) : HostOut :=
  let n := match write with | some bs => bs.length | none => len
  let last := addr + (n - 1)
  let p := (s.classPart tclass).getD { Part.reset with own := [] }
  let bad (a : Nat) : Bool := (ownership p a write.isSome).isSome
  if n = 0 ∨ isLocal addr = false ∨ isLocal last = false ∨ bad addr = true ∨ bad last = true then s.answer src 0 []
  else if mapped addr = false ∨ mapped last = false then s.answer src 5 []
  else
    match write with
    | some bs =>
      let at_ : Piece := ⟨⟨addr, matFor s addr key, false, false, key⟩, bs.length⟩
      ((s.overLines 48 (lineParts [at_])).writeBytes addr (matFor s addr key) bs).answer src 3 []
    | none =>
      if (s.poisoned addr n).isSome then s.answer src 4 []
      else
        let r := s.readBytes addr (matFor s addr key) n
        r.2.answer src 1 r.1

end Sys2Proof.Machine
end

