-- ==== Sys2Proof/Machine/Pair.lean ====
section
/-!
DEFINITION. Pair halves and pair words (R158–R163). A half's meaning reads registers from a view x of the strand, the strand as it
stood before the word, and acts on a state, in which the other half may have acted already (R161). The meaning of a half as an
instruction is that of the word that pairs it with a NOP half.
-/
namespace Sys2Proof.Machine

/-- s0–s31 as a half names them (R158). -/
def hs (r : HalfReg) : SReg := Fin.ofNat 64 r.val

/-- What a half does: its result, not yet advanced, and the target of a taken branch. -/
abbrev HalfMeaning := Strand → State → Res × Option Word

/-- A half that only writes a scalar, with flags. -/
def hWrite (d : HalfReg) (v : Strand → State → Word × Nat) : HalfMeaning := fun x s =>
  let r := v x s
  (.ok ((s.wS (hs d) r.1).raise r.2), none)

/-- d := d op a. -/
def hInt (f : Word → Word → Word) (d a : HalfReg) : HalfMeaning := hWrite d (fun x _ => (f (x.rS (hs d)) (x.rS (hs a)), 0))
/-- d := a op imm14. -/
def hImm (f : Word → Word → Word) (d a : HalfReg) (v : Word) : HalfMeaning := hWrite d (fun x _ => (f (x.rS (hs a)) v, 0))

/-- d := d op a in a scalar format: the full-word instruction on the view's registers (R174). DESIGN CHOICE (log 75): the ILLEGAL of a
rounding that resolves to SR without SRND (R335) is raised as the half executes, after every check of Table 6.8, PAIRCONF among them. -/
def hFp (op : Bool → Fmt → State → XV × Nat) (d : HalfReg) (rnd fmt : Fin 8) : HalfMeaning := fun x s =>
  let v := s.setMe x
  if v.rndAllowed rnd.val then
    let f := fpOf v fmt.val
    let mode := v.rmode rnd.val
    hWrite d (fun _ _ =>
      let r := finishFp x.ftz f mode (v.draw 0) (op (decide (mode = .rdn)) f v) 0
      (BitVec.ofNat 64 r.1, r.2)) x s
  else (s.illegal, none)

def hMinMax (op : XV → XV → XV × Nat) (d a : HalfReg) (rnd fmt : Fin 8) : HalfMeaning := fun x s =>
  let v := s.setMe x
  if v.rndAllowed rnd.val then
    let f := fpOf v fmt.val
    hWrite d (fun _ _ =>
      let r := finishFp x.ftz f .rne 0 (op (fpRead v f (hs d)) (fpRead v f (hs a))) 0
      (BitVec.ofNat 64 r.1, r.2)) x s
  else (s.illegal, none)

/-- A memory half: VA space, slack class 0 (R159). -/
def hEa (a : HalfReg) (imm : BitVec 14) (x : Strand) : Word := x.rS (hs a) + sx imm

def hLoad (sgn : Bool) (n : Nat) (d a : HalfReg) (imm : BitVec 14) : HalfMeaning := fun x s =>
  let ea := hEa a imm x
  match s.misaligned 0 false ea n .read with
  | some t => (.stop t s, none)
  | none =>
    match s.load true (.cls 0) 0 false ea n with
    | .error t => (.stop t s, none)
    | .ok (bs, s1) => (.ok (s1.wS (hs d) (loadValue sgn bs)), none)

def hStore (n : Nat) (d a : HalfReg) (imm : BitVec 14) : HalfMeaning := fun x s =>
  let ea := hEa a imm x
  let v := (x.rS (hs d)).toNat % 2 ^ (8 * n)
  match s.misaligned 0 false ea n .write with
  | some t => (.stop t s, none)
  | none =>
    match s.store (.cls 0) 0 false ea (leBytes n v) with
    | .error t => (.stop t s, none)
    | .ok s1 => (.ok (s1.foldStore 0 false ea (BitVec.ofNat 64 v) n), none)

/-- A branch half: the target counts words from the pair word (R159). -/
def hBranch (c : Word → Word → Bool) (d a : HalfReg) (imm : BitVec 14) : HalfMeaning := fun x s =>
  (.ok s, if c (x.rS (hs d)) (x.rS (hs a)) then some (x.pc + (sx imm <<< 3)) else none)

/-- A vector half: unpredicated, unchained, arity 1 (R159). -/
def hOp (d a b : HalfReg) (fmt : Fin 64) (rnd : Fin 8) : VOp := ⟨d, a, .v b, 0, false, false, fmt, 0, rnd, .plain, .plain, 0⟩
def hVec (m : VOp → Strand → State → Res) (d a b : HalfReg) (fmt : Fin 64) (rnd : Fin 8) : HalfMeaning := fun x s =>
  (m (hOp d a b fmt rnd) x s, none)

/-- The end of a pair word, or of a half as an instruction: pc moves on, or control goes to the target, after both halves have
taken effect; a bad target stops the word before any effect (R161). -/
def endPair (base : State) (s : State) (t : Option Word) : Res :=
  let s1 := s.advance 8
  match t with
  | none => .ok s1
  | some t => s1.branch { base with cur := { base.cur with half := true } } t

/-- A half as an instruction. -/
def solo (m : HalfMeaning) (s : State) : Out :=
  finish (
    match m s.me s with
    | (.ok s1, t) => endPair s s1 t
    | (.stop t _, _) => .stop t s
    | (.wait w _, _) => .wait w s)

/-! ## The halves (Table 6.7) -/

def hmAdd (d a : HalfReg) : HalfMeaning := hInt iAdd d a
def hmSub (d a : HalfReg) : HalfMeaning := hInt iSub d a
def hmMul (d a : HalfReg) : HalfMeaning := hInt iMul d a
def hmAnd (d a : HalfReg) : HalfMeaning := hInt iAnd d a
def hmOr (d a : HalfReg) : HalfMeaning := hInt iOr d a
def hmXor (d a : HalfReg) : HalfMeaning := hInt iXor d a
def hmAndn (d a : HalfReg) : HalfMeaning := hInt iAndn d a
def hmShl (d a : HalfReg) : HalfMeaning := hInt iShl d a
def hmShr (d a : HalfReg) : HalfMeaning := hInt iShr d a
def hmSra (d a : HalfReg) : HalfMeaning := hInt iSra d a
def hmMin (d a : HalfReg) : HalfMeaning := hInt iMin d a
def hmMax (d a : HalfReg) : HalfMeaning := hInt iMax d a
def hmMinn (d a : HalfReg) : HalfMeaning := hInt iMinn d a
def hmMaxn (d a : HalfReg) : HalfMeaning := hInt iMaxn d a
def hmCsel (d a b : HalfReg) : HalfMeaning := hWrite d (fun x _ => (if x.rS (hs b) ≠ 0 then x.rS (hs a) else x.rS (hs d), 0))
def hmAddi (d a : HalfReg) (imm : BitVec 14) : HalfMeaning := hImm iAdd d a (sx imm)
def hmShlImm (d a : HalfReg) (imm : BitVec 14) : HalfMeaning := hImm iShl d a (zx imm)
def hmShrImm (d a : HalfReg) (imm : BitVec 14) : HalfMeaning := hImm iShr d a (zx imm)
def hmSraImm (d a : HalfReg) (imm : BitVec 14) : HalfMeaning := hImm iSra d a (zx imm)
def hmLi (d : HalfReg) (imm : BitVec 14) : HalfMeaning := hWrite d (fun _ _ => (sx imm, 0))
def hmFadd (d a : HalfReg) (rnd fmt : Fin 8) : HalfMeaning := hFp (binX addX (hs d) (hs a)) d rnd fmt
def hmFsub (d a : HalfReg) (rnd fmt : Fin 8) : HalfMeaning := hFp (binX subX (hs d) (hs a)) d rnd fmt
def hmFmul (d a : HalfReg) (rnd fmt : Fin 8) : HalfMeaning := hFp (binX (fun _ => mulX) (hs d) (hs a)) d rnd fmt
def hmFfma (d a b : HalfReg) (rnd fmt : Fin 8) : HalfMeaning := hFp (fmaOp (hs d) (hs a) (hs b)) d rnd fmt
def hmFmin (d a : HalfReg) (rnd fmt : Fin 8) : HalfMeaning := hMinMax minX d a rnd fmt
def hmFmax (d a : HalfReg) (rnd fmt : Fin 8) : HalfMeaning := hMinMax maxX d a rnd fmt
def hmLdBz (d a : HalfReg) (imm : BitVec 14) : HalfMeaning := hLoad false 1 d a imm
def hmLdHz (d a : HalfReg) (imm : BitVec 14) : HalfMeaning := hLoad false 2 d a imm
def hmLdWz (d a : HalfReg) (imm : BitVec 14) : HalfMeaning := hLoad false 4 d a imm
def hmLdD (d a : HalfReg) (imm : BitVec 14) : HalfMeaning := hLoad false 8 d a imm
def hmLdBs (d a : HalfReg) (imm : BitVec 14) : HalfMeaning := hLoad true 1 d a imm
def hmLdHs (d a : HalfReg) (imm : BitVec 14) : HalfMeaning := hLoad true 2 d a imm
def hmLdWs (d a : HalfReg) (imm : BitVec 14) : HalfMeaning := hLoad true 4 d a imm
def hmStB (d a : HalfReg) (imm : BitVec 14) : HalfMeaning := hStore 1 d a imm
def hmStH (d a : HalfReg) (imm : BitVec 14) : HalfMeaning := hStore 2 d a imm
def hmStW (d a : HalfReg) (imm : BitVec 14) : HalfMeaning := hStore 4 d a imm
def hmStD (d a : HalfReg) (imm : BitVec 14) : HalfMeaning := hStore 8 d a imm
def hmBeq (d a : HalfReg) (imm : BitVec 14) : HalfMeaning := hBranch cEq d a imm
def hmBne (d a : HalfReg) (imm : BitVec 14) : HalfMeaning := hBranch cNe d a imm
def hmBlt (d a : HalfReg) (imm : BitVec 14) : HalfMeaning := hBranch cLt d a imm
def hmBge (d a : HalfReg) (imm : BitVec 14) : HalfMeaning := hBranch cGe d a imm
def hmBltn (d a : HalfReg) (imm : BitVec 14) : HalfMeaning := hBranch cLtn d a imm
def hmBgen (d a : HalfReg) (imm : BitVec 14) : HalfMeaning := hBranch cGen d a imm
def hmJ (imm : BitVec 14) : HalfMeaning := fun x s => (.ok s, some (x.pc + (sx imm <<< 3)))
def hmNop : HalfMeaning := fun _ s => (.ok s, none)
def hmVadd (d a : HalfReg) (fmt : Fin 64) (rnd : Fin 8) : HalfMeaning := hVec mVadd d d a fmt rnd
def hmVsub (d a : HalfReg) (fmt : Fin 64) (rnd : Fin 8) : HalfMeaning := hVec mVsub d d a fmt rnd
def hmVmul (d a : HalfReg) (fmt : Fin 64) (rnd : Fin 8) : HalfMeaning := hVec mVmul d d a fmt rnd
def hmVfma (d a b : HalfReg) (fmt : Fin 64) (rnd : Fin 8) : HalfMeaning := hVec mVfma d a b fmt rnd
def hmVmin (d a : HalfReg) (fmt : Fin 64) (rnd : Fin 8) : HalfMeaning := hVec mVmin d d a fmt rnd
def hmVmax (d a : HalfReg) (fmt : Fin 64) (rnd : Fin 8) : HalfMeaning := hVec mVmax d d a fmt rnd
def hmVand (d a : HalfReg) (fmt : Fin 64) (rnd : Fin 8) : HalfMeaning := hVec mVand d d a fmt rnd
def hmVor (d a : HalfReg) (fmt : Fin 64) (rnd : Fin 8) : HalfMeaning := hVec mVor d d a fmt rnd
def hmVxor (d a : HalfReg) (fmt : Fin 64) (rnd : Fin 8) : HalfMeaning := hVec mVxor d d a fmt rnd
def hmVshl (d a : HalfReg) (fmt : Fin 64) (rnd : Fin 8) : HalfMeaning := hVec mVshl d d a fmt rnd
def hmVshr (d a : HalfReg) (fmt : Fin 64) (rnd : Fin 8) : HalfMeaning := hVec mVshr d d a fmt rnd
def hmVsra (d a : HalfReg) (fmt : Fin 64) (rnd : Fin 8) : HalfMeaning := hVec mVsra d d a fmt rnd

def execAddHalf (d a : HalfReg) (s : State) : Out := solo (hmAdd d a) s
def execSubHalf (d a : HalfReg) (s : State) : Out := solo (hmSub d a) s
def execMulHalf (d a : HalfReg) (s : State) : Out := solo (hmMul d a) s
def execAndHalf (d a : HalfReg) (s : State) : Out := solo (hmAnd d a) s
def execOrHalf (d a : HalfReg) (s : State) : Out := solo (hmOr d a) s
def execXorHalf (d a : HalfReg) (s : State) : Out := solo (hmXor d a) s
def execAndnHalf (d a : HalfReg) (s : State) : Out := solo (hmAndn d a) s
def execShlHalf (d a : HalfReg) (s : State) : Out := solo (hmShl d a) s
def execShrHalf (d a : HalfReg) (s : State) : Out := solo (hmShr d a) s
def execSraHalf (d a : HalfReg) (s : State) : Out := solo (hmSra d a) s
def execMinHalf (d a : HalfReg) (s : State) : Out := solo (hmMin d a) s
def execMaxHalf (d a : HalfReg) (s : State) : Out := solo (hmMax d a) s
def execMinnHalf (d a : HalfReg) (s : State) : Out := solo (hmMinn d a) s
def execMaxnHalf (d a : HalfReg) (s : State) : Out := solo (hmMaxn d a) s
def execCselHalf (d a b : HalfReg) (s : State) : Out := solo (hmCsel d a b) s
def execAddiHalf (d a : HalfReg) (imm : BitVec 14) (s : State) : Out := solo (hmAddi d a imm) s
def execShlImmHalf (d a : HalfReg) (imm : BitVec 14) (s : State) : Out := solo (hmShlImm d a imm) s
def execShrImmHalf (d a : HalfReg) (imm : BitVec 14) (s : State) : Out := solo (hmShrImm d a imm) s
def execSraImmHalf (d a : HalfReg) (imm : BitVec 14) (s : State) : Out := solo (hmSraImm d a imm) s
def execLiHalf (d : HalfReg) (imm : BitVec 14) (s : State) : Out := solo (hmLi d imm) s
def execFaddHalf (d a : HalfReg) (rnd fmt : Fin 8) (s : State) : Out := solo (hmFadd d a rnd fmt) s
def execFsubHalf (d a : HalfReg) (rnd fmt : Fin 8) (s : State) : Out := solo (hmFsub d a rnd fmt) s
def execFmulHalf (d a : HalfReg) (rnd fmt : Fin 8) (s : State) : Out := solo (hmFmul d a rnd fmt) s
def execFfmaHalf (d a b : HalfReg) (rnd fmt : Fin 8) (s : State) : Out := solo (hmFfma d a b rnd fmt) s
def execFminHalf (d a : HalfReg) (rnd fmt : Fin 8) (s : State) : Out := solo (hmFmin d a rnd fmt) s
def execFmaxHalf (d a : HalfReg) (rnd fmt : Fin 8) (s : State) : Out := solo (hmFmax d a rnd fmt) s
def execLdBzHalf (d a : HalfReg) (imm : BitVec 14) (s : State) : Out := solo (hmLdBz d a imm) s
def execLdHzHalf (d a : HalfReg) (imm : BitVec 14) (s : State) : Out := solo (hmLdHz d a imm) s
def execLdWzHalf (d a : HalfReg) (imm : BitVec 14) (s : State) : Out := solo (hmLdWz d a imm) s
def execLdDHalf (d a : HalfReg) (imm : BitVec 14) (s : State) : Out := solo (hmLdD d a imm) s
def execLdBsHalf (d a : HalfReg) (imm : BitVec 14) (s : State) : Out := solo (hmLdBs d a imm) s
def execLdHsHalf (d a : HalfReg) (imm : BitVec 14) (s : State) : Out := solo (hmLdHs d a imm) s
def execLdWsHalf (d a : HalfReg) (imm : BitVec 14) (s : State) : Out := solo (hmLdWs d a imm) s
def execStBHalf (d a : HalfReg) (imm : BitVec 14) (s : State) : Out := solo (hmStB d a imm) s
def execStHHalf (d a : HalfReg) (imm : BitVec 14) (s : State) : Out := solo (hmStH d a imm) s
def execStWHalf (d a : HalfReg) (imm : BitVec 14) (s : State) : Out := solo (hmStW d a imm) s
def execStDHalf (d a : HalfReg) (imm : BitVec 14) (s : State) : Out := solo (hmStD d a imm) s
def execBeqHalf (d a : HalfReg) (imm : BitVec 14) (s : State) : Out := solo (hmBeq d a imm) s
def execBneHalf (d a : HalfReg) (imm : BitVec 14) (s : State) : Out := solo (hmBne d a imm) s
def execBltHalf (d a : HalfReg) (imm : BitVec 14) (s : State) : Out := solo (hmBlt d a imm) s
def execBgeHalf (d a : HalfReg) (imm : BitVec 14) (s : State) : Out := solo (hmBge d a imm) s
def execBltnHalf (d a : HalfReg) (imm : BitVec 14) (s : State) : Out := solo (hmBltn d a imm) s
def execBgenHalf (d a : HalfReg) (imm : BitVec 14) (s : State) : Out := solo (hmBgen d a imm) s
def execJHalf (imm : BitVec 14) (s : State) : Out := solo (hmJ imm) s
def execNopHalf (s : State) : Out := solo hmNop s
def execVaddHalf (d a : HalfReg) (fmt : Fin 64) (rnd : Fin 8) (s : State) : Out := solo (hmVadd d a fmt rnd) s
def execVsubHalf (d a : HalfReg) (fmt : Fin 64) (rnd : Fin 8) (s : State) : Out := solo (hmVsub d a fmt rnd) s
def execVmulHalf (d a : HalfReg) (fmt : Fin 64) (rnd : Fin 8) (s : State) : Out := solo (hmVmul d a fmt rnd) s
def execVfmaHalf (d a b : HalfReg) (fmt : Fin 64) (rnd : Fin 8) (s : State) : Out := solo (hmVfma d a b fmt rnd) s
def execVminHalf (d a : HalfReg) (fmt : Fin 64) (rnd : Fin 8) (s : State) : Out := solo (hmVmin d a fmt rnd) s
def execVmaxHalf (d a : HalfReg) (fmt : Fin 64) (rnd : Fin 8) (s : State) : Out := solo (hmVmax d a fmt rnd) s
def execVandHalf (d a : HalfReg) (fmt : Fin 64) (rnd : Fin 8) (s : State) : Out := solo (hmVand d a fmt rnd) s
def execVorHalf (d a : HalfReg) (fmt : Fin 64) (rnd : Fin 8) (s : State) : Out := solo (hmVor d a fmt rnd) s
def execVxorHalf (d a : HalfReg) (fmt : Fin 64) (rnd : Fin 8) (s : State) : Out := solo (hmVxor d a fmt rnd) s
def execVshlHalf (d a : HalfReg) (fmt : Fin 64) (rnd : Fin 8) (s : State) : Out := solo (hmVshl d a fmt rnd) s
def execVshrHalf (d a : HalfReg) (fmt : Fin 64) (rnd : Fin 8) (s : State) : Out := solo (hmVshr d a fmt rnd) s
def execVsraHalf (d a : HalfReg) (fmt : Fin 64) (rnd : Fin 8) (s : State) : Out := solo (hmVsra d a fmt rnd) s

/-! ## Pair words (R161) -/

/-- The half that a code names. -/
def halfRun (c : HalfCode) : HalfMeaning :=
  match c.hop with
  | 0x01 => hmAdd (fin 32 c.d) (fin 32 c.a)
  | 0x02 => hmSub (fin 32 c.d) (fin 32 c.a)
  | 0x03 => hmMul (fin 32 c.d) (fin 32 c.a)
  | 0x04 => hmAnd (fin 32 c.d) (fin 32 c.a)
  | 0x05 => hmOr (fin 32 c.d) (fin 32 c.a)
  | 0x06 => hmXor (fin 32 c.d) (fin 32 c.a)
  | 0x07 => hmAndn (fin 32 c.d) (fin 32 c.a)
  | 0x08 => hmShl (fin 32 c.d) (fin 32 c.a)
  | 0x09 => hmShr (fin 32 c.d) (fin 32 c.a)
  | 0x0a => hmSra (fin 32 c.d) (fin 32 c.a)
  | 0x0b => hmMin (fin 32 c.d) (fin 32 c.a)
  | 0x0c => hmMax (fin 32 c.d) (fin 32 c.a)
  | 0x0d => hmMinn (fin 32 c.d) (fin 32 c.a)
  | 0x0e => hmMaxn (fin 32 c.d) (fin 32 c.a)
  | 0x0f => hmCsel (fin 32 c.d) (fin 32 c.a) (fin 32 c.b)
  | 0x10 => hmAddi (fin 32 c.d) (fin 32 c.a) (.ofNat 14 c.imm)
  | 0x11 => hmShlImm (fin 32 c.d) (fin 32 c.a) (.ofNat 14 c.imm)
  | 0x12 => hmShrImm (fin 32 c.d) (fin 32 c.a) (.ofNat 14 c.imm)
  | 0x13 => hmSraImm (fin 32 c.d) (fin 32 c.a) (.ofNat 14 c.imm)
  | 0x14 => hmLi (fin 32 c.d) (.ofNat 14 c.imm)
  | 0x18 => hmFadd (fin 32 c.d) (fin 32 c.a) (fin 8 (fld c.imm 8 6)) (fin 8 (fld c.imm 2 0))
  | 0x19 => hmFsub (fin 32 c.d) (fin 32 c.a) (fin 8 (fld c.imm 8 6)) (fin 8 (fld c.imm 2 0))
  | 0x1a => hmFmul (fin 32 c.d) (fin 32 c.a) (fin 8 (fld c.imm 8 6)) (fin 8 (fld c.imm 2 0))
  | 0x1b => hmFfma (fin 32 c.d) (fin 32 c.a) (fin 32 c.b) (fin 8 (fld c.imm 8 6)) (fin 8 (fld c.imm 2 0))
  | 0x1c => hmFmin (fin 32 c.d) (fin 32 c.a) (fin 8 (fld c.imm 8 6)) (fin 8 (fld c.imm 2 0))
  | 0x1d => hmFmax (fin 32 c.d) (fin 32 c.a) (fin 8 (fld c.imm 8 6)) (fin 8 (fld c.imm 2 0))
  | 0x20 => hmLdBz (fin 32 c.d) (fin 32 c.a) (.ofNat 14 c.imm)
  | 0x21 => hmLdHz (fin 32 c.d) (fin 32 c.a) (.ofNat 14 c.imm)
  | 0x22 => hmLdWz (fin 32 c.d) (fin 32 c.a) (.ofNat 14 c.imm)
  | 0x23 => hmLdD (fin 32 c.d) (fin 32 c.a) (.ofNat 14 c.imm)
  | 0x24 => hmLdBs (fin 32 c.d) (fin 32 c.a) (.ofNat 14 c.imm)
  | 0x25 => hmLdHs (fin 32 c.d) (fin 32 c.a) (.ofNat 14 c.imm)
  | 0x26 => hmLdWs (fin 32 c.d) (fin 32 c.a) (.ofNat 14 c.imm)
  | 0x28 => hmStB (fin 32 c.d) (fin 32 c.a) (.ofNat 14 c.imm)
  | 0x29 => hmStH (fin 32 c.d) (fin 32 c.a) (.ofNat 14 c.imm)
  | 0x2a => hmStW (fin 32 c.d) (fin 32 c.a) (.ofNat 14 c.imm)
  | 0x2b => hmStD (fin 32 c.d) (fin 32 c.a) (.ofNat 14 c.imm)
  | 0x30 => hmBeq (fin 32 c.d) (fin 32 c.a) (.ofNat 14 c.imm)
  | 0x31 => hmBne (fin 32 c.d) (fin 32 c.a) (.ofNat 14 c.imm)
  | 0x32 => hmBlt (fin 32 c.d) (fin 32 c.a) (.ofNat 14 c.imm)
  | 0x33 => hmBge (fin 32 c.d) (fin 32 c.a) (.ofNat 14 c.imm)
  | 0x34 => hmBltn (fin 32 c.d) (fin 32 c.a) (.ofNat 14 c.imm)
  | 0x35 => hmBgen (fin 32 c.d) (fin 32 c.a) (.ofNat 14 c.imm)
  | 0x36 => hmJ (.ofNat 14 c.imm)
  | 0x40 => hmVadd (fin 32 c.d) (fin 32 c.a) (fin 64 (fld c.imm 8 3)) (fin 8 (fld c.imm 2 0))
  | 0x41 => hmVsub (fin 32 c.d) (fin 32 c.a) (fin 64 (fld c.imm 8 3)) (fin 8 (fld c.imm 2 0))
  | 0x42 => hmVmul (fin 32 c.d) (fin 32 c.a) (fin 64 (fld c.imm 8 3)) (fin 8 (fld c.imm 2 0))
  | 0x43 => hmVfma (fin 32 c.d) (fin 32 c.a) (fin 32 c.b) (fin 64 (fld c.imm 8 3)) (fin 8 (fld c.imm 2 0))
  | 0x44 => hmVmin (fin 32 c.d) (fin 32 c.a) (fin 64 (fld c.imm 8 3)) (fin 8 (fld c.imm 2 0))
  | 0x45 => hmVmax (fin 32 c.d) (fin 32 c.a) (fin 64 (fld c.imm 8 3)) (fin 8 (fld c.imm 2 0))
  | 0x46 => hmVand (fin 32 c.d) (fin 32 c.a) (fin 64 (fld c.imm 8 3)) (fin 8 (fld c.imm 2 0))
  | 0x47 => hmVor (fin 32 c.d) (fin 32 c.a) (fin 64 (fld c.imm 8 3)) (fin 8 (fld c.imm 2 0))
  | 0x48 => hmVxor (fin 32 c.d) (fin 32 c.a) (fin 64 (fld c.imm 8 3)) (fin 8 (fld c.imm 2 0))
  | 0x49 => hmVshl (fin 32 c.d) (fin 32 c.a) (fin 64 (fld c.imm 8 3)) (fin 8 (fld c.imm 2 0))
  | 0x4a => hmVshr (fin 32 c.d) (fin 32 c.a) (fin 64 (fld c.imm 8 3)) (fin 8 (fld c.imm 2 0))
  | 0x4b => hmVsra (fin 32 c.d) (fin 32 c.a) (fin 64 (fld c.imm 8 3)) (fin 8 (fld c.imm 2 0))
  | _ => hmNop

/-- The stores of both halves, in order: old were there before, a is the buffer after half A, b that of half B run on old. Log 50. -/
def joinStores (old a b : List PStore) : List PStore := if b.take old.length = old then a ++ b.drop old.length else a ++ b

/-- Both halves read their operands before either writes: half B sees the strand and its store buffer as they stood. -/
def pairRes (a b : HalfCode) (s : State) : Res :=
  let x := s.me
  match (halfRun a x s).1 with
  | .stop t _ => .stop t s
  | .wait w _ => .wait w s
  | .ok s1 =>
    let s2 := s1.setMe { s1.me with stores := x.stores }
    match halfRun b x s2 with
    | (.stop t _, _) => .stop t { s with cur := { s.cur with half := true } }
    | (.wait w _, _) => .wait w s
    | (.ok s3, t) => endPair s (s3.setMe { s3.me with stores := joinStores x.stores s1.me.stores s3.me.stores }) t

/-- A pair word. -/
def execPair (a b : HalfCode) (s : State) : Out := finish (pairRes a b s)

end Sys2Proof.Machine
end

