-- ==== Sys2Proof/Machine/Dispatch.lean ====
section
/-!
DEFINITION. The meaning of each instruction, pair half, advice instruction, command and event: one direct call per constructor.
-/
namespace Sys2Proof.Machine

def exec (i : Instr) (s : State) : Host.Outcome State Fault Refusal :=
  match i with
  | .add d a b => Sys2Proof.Machine.execAdd d a b s
  | .sub d a b => Sys2Proof.Machine.execSub d a b s
  | .mul d a b => Sys2Proof.Machine.execMul d a b s
  | .mulh d a b => Sys2Proof.Machine.execMulh d a b s
  | .mulhn d a b => Sys2Proof.Machine.execMulhn d a b s
  | .div d a b => Sys2Proof.Machine.execDiv d a b s
  | .divn d a b => Sys2Proof.Machine.execDivn d a b s
  | .rem d a b => Sys2Proof.Machine.execRem d a b s
  | .remn d a b => Sys2Proof.Machine.execRemn d a b s
  | .and d a b => Sys2Proof.Machine.execAnd d a b s
  | .or d a b => Sys2Proof.Machine.execOr d a b s
  | .xor d a b => Sys2Proof.Machine.execXor d a b s
  | .andn d a b => Sys2Proof.Machine.execAndn d a b s
  | .orn d a b => Sys2Proof.Machine.execOrn d a b s
  | .shl d a b => Sys2Proof.Machine.execShl d a b s
  | .shr d a b => Sys2Proof.Machine.execShr d a b s
  | .sra d a b => Sys2Proof.Machine.execSra d a b s
  | .rol d a b => Sys2Proof.Machine.execRol d a b s
  | .min d a b => Sys2Proof.Machine.execMin d a b s
  | .max d a b => Sys2Proof.Machine.execMax d a b s
  | .minn d a b => Sys2Proof.Machine.execMinn d a b s
  | .maxn d a b => Sys2Proof.Machine.execMaxn d a b s
  | .seq d a b => Sys2Proof.Machine.execSeq d a b s
  | .sne d a b => Sys2Proof.Machine.execSne d a b s
  | .slt d a b => Sys2Proof.Machine.execSlt d a b s
  | .sltn d a b => Sys2Proof.Machine.execSltn d a b s
  | .sge d a b => Sys2Proof.Machine.execSge d a b s
  | .sgen d a b => Sys2Proof.Machine.execSgen d a b s
  | .csel d a b => Sys2Proof.Machine.execCsel d a b s
  | .lea d a b sh disp => Sys2Proof.Machine.execLea d a b sh disp s
  | .clz d a => Sys2Proof.Machine.execClz d a s
  | .ctz d a => Sys2Proof.Machine.execCtz d a s
  | .popc d a => Sys2Proof.Machine.execPopc d a s
  | .brev d a => Sys2Proof.Machine.execBrev d a s
  | .bfx d a sgn pos lenM1 => Sys2Proof.Machine.execBfx d a sgn pos lenM1 s
  | .bfi d a pos lenM1 => Sys2Proof.Machine.execBfi d a pos lenM1 s
  | .addi d a imm => Sys2Proof.Machine.execAddi d a imm s
  | .shlImm d a imm => Sys2Proof.Machine.execShlImm d a imm s
  | .shrImm d a imm => Sys2Proof.Machine.execShrImm d a imm s
  | .sraImm d a imm => Sys2Proof.Machine.execSraImm d a imm s
  | .rolImm d a imm => Sys2Proof.Machine.execRolImm d a imm s
  | .li d imm => Sys2Proof.Machine.execLi d imm s
  | .addpc d imm => Sys2Proof.Machine.execAddpc d imm s
  | .lix d v => Sys2Proof.Machine.execLix d v s
  | .fadd d a b rnd fmt => Sys2Proof.Machine.execFadd d a b rnd fmt s
  | .fsub d a b rnd fmt => Sys2Proof.Machine.execFsub d a b rnd fmt s
  | .fmul d a b rnd fmt => Sys2Proof.Machine.execFmul d a b rnd fmt s
  | .ffma d a b rnd fmt => Sys2Proof.Machine.execFfma d a b rnd fmt s
  | .fdiv d a b rnd fmt => Sys2Proof.Machine.execFdiv d a b rnd fmt s
  | .fsqrt d a rnd fmt => Sys2Proof.Machine.execFsqrt d a rnd fmt s
  | .fmin d a b fmt => Sys2Proof.Machine.execFmin d a b fmt s
  | .fmax d a b fmt => Sys2Proof.Machine.execFmax d a b fmt s
  | .fcmp d a b cond fmt => Sys2Proof.Machine.execFcmp d a b cond fmt s
  | .fcvt d a rnd src tgt => Sys2Proof.Machine.execFcvt d a rnd src tgt s
  | .fclass d a fmt => Sys2Proof.Machine.execFclass d a fmt s
  | .fmv d a fmt => Sys2Proof.Machine.execFmv d a fmt s
  | .j off => Sys2Proof.Machine.execJ off s
  | .call d off => Sys2Proof.Machine.execCall d off s
  | .jr a => Sys2Proof.Machine.execJr a s
  | .callr d a => Sys2Proof.Machine.execCallr d a s
  | .ret a => Sys2Proof.Machine.execRet a s
  | .beq d a off => Sys2Proof.Machine.execBeq d a off s
  | .bne d a off => Sys2Proof.Machine.execBne d a off s
  | .blt d a off => Sys2Proof.Machine.execBlt d a off s
  | .bge d a off => Sys2Proof.Machine.execBge d a off s
  | .bltn d a off => Sys2Proof.Machine.execBltn d a off s
  | .bgen d a off => Sys2Proof.Machine.execBgen d a off s
  | .ld m => Sys2Proof.Machine.execLd m s
  | .st m => Sys2Proof.Machine.execSt m s
  | .lda m => Sys2Proof.Machine.execLda m s
  | .stl m => Sys2Proof.Machine.execStl m s
  | .amo o => Sys2Proof.Machine.execAmo o s
  | .amox o => Sys2Proof.Machine.execAmox o s
  | .cas o => Sys2Proof.Machine.execCas o s
  | .fence kind scope => Sys2Proof.Machine.execFence kind scope s
  | .bar scope sl => Sys2Proof.Machine.execBar scope sl s
  | .wait o => Sys2Proof.Machine.execWait o s
  | .mark id a b => Sys2Proof.Machine.execMark id a b s
  | .slk d a cls set clr => Sys2Proof.Machine.execSlk d a cls set clr s
  | .mfs d creg => Sys2Proof.Machine.execMfs d creg s
  | .mts a creg => Sys2Proof.Machine.execMts a creg s
  | .svc code => Sys2Proof.Machine.execSvc code s
  | .brk code => Sys2Proof.Machine.execBrk code s
  | .featq d leaf => Sys2Proof.Machine.execFeatq d leaf s
  | .tlbi a b kind scope => Sys2Proof.Machine.execTlbi a b kind scope s
  | .ctxsave d a b sl => Sys2Proof.Machine.execCtxsave d a b sl s
  | .ctxload d a b sl => Sys2Proof.Machine.execCtxload d a b sl s
  | .evack cause => Sys2Proof.Machine.execEvack cause s
  | .vsetl d a ew ar => Sys2Proof.Machine.execVsetl d a ew ar s
  | .vsetg g => Sys2Proof.Machine.execVsetg g s
  | .vtag d a fmt ar alg => Sys2Proof.Machine.execVtag d a fmt ar alg s
  | .vidx d a b p fmt => Sys2Proof.Machine.execVidx d a b p fmt s
  | .vbc d a p fmt ar => Sys2Proof.Machine.execVbc d a p fmt ar s
  | .vmovs d a b fmt ar => Sys2Proof.Machine.execVmovs d a b fmt ar s
  | .vmovv d a p ca fmt ar => Sys2Proof.Machine.execVmovv d a p ca fmt ar s
  | .vadd o => Sys2Proof.Machine.execVadd o s
  | .vsub o => Sys2Proof.Machine.execVsub o s
  | .vmul o => Sys2Proof.Machine.execVmul o s
  | .vmulh o => Sys2Proof.Machine.execVmulh o s
  | .vfma o => Sys2Proof.Machine.execVfma o s
  | .vfms o => Sys2Proof.Machine.execVfms o s
  | .vdiv o => Sys2Proof.Machine.execVdiv o s
  | .vsqrt o => Sys2Proof.Machine.execVsqrt o s
  | .vrsq o => Sys2Proof.Machine.execVrsq o s
  | .vrcp o => Sys2Proof.Machine.execVrcp o s
  | .vexp2 o => Sys2Proof.Machine.execVexp2 o s
  | .vlog2 o => Sys2Proof.Machine.execVlog2 o s
  | .vmin o => Sys2Proof.Machine.execVmin o s
  | .vmax o => Sys2Proof.Machine.execVmax o s
  | .vabs o => Sys2Proof.Machine.execVabs o s
  | .vneg o => Sys2Proof.Machine.execVneg o s
  | .vand o => Sys2Proof.Machine.execVand o s
  | .vor o => Sys2Proof.Machine.execVor o s
  | .vxor o => Sys2Proof.Machine.execVxor o s
  | .vshl o => Sys2Proof.Machine.execVshl o s
  | .vshr o => Sys2Proof.Machine.execVshr o s
  | .vsra o => Sys2Proof.Machine.execVsra o s
  | .vclz o => Sys2Proof.Machine.execVclz o s
  | .vpopc o => Sys2Proof.Machine.execVpopc o s
  | .vmwide o => Sys2Proof.Machine.execVmwide o s
  | .vdot o => Sys2Proof.Machine.execVdot o s
  | .vcmp o => Sys2Proof.Machine.execVcmp o s
  | .vsel o => Sys2Proof.Machine.execVsel o s
  | .vred o => Sys2Proof.Machine.execVred o s
  | .vscan o => Sys2Proof.Machine.execVscan o s
  | .vrecur o => Sys2Proof.Machine.execVrecur o s
  | .vslide o => Sys2Proof.Machine.execVslide o s
  | .vperm o => Sys2Proof.Machine.execVperm o s
  | .vcompr o => Sys2Proof.Machine.execVcompr o s
  | .vexpd o => Sys2Proof.Machine.execVexpd o s
  | .vcvt o => Sys2Proof.Machine.execVcvt o s
  | .vcvts o => Sys2Proof.Machine.execVcvts o s
  | .vrng d p fmt => Sys2Proof.Machine.execVrng d p fmt s
  | .vclass d a p ca fmt set => Sys2Proof.Machine.execVclass d a p ca fmt set s
  | .vamul o => Sys2Proof.Machine.execVamul o s
  | .vconj o => Sys2Proof.Machine.execVconj o s
  | .vnorm o => Sys2Proof.Machine.execVnorm o s
  | .varev o => Sys2Proof.Machine.execVarev o s
  | .mand d a b => Sys2Proof.Machine.execMand d a b s
  | .mor d a b => Sys2Proof.Machine.execMor d a b s
  | .mxor d a b => Sys2Proof.Machine.execMxor d a b s
  | .mandn d a b => Sys2Proof.Machine.execMandn d a b s
  | .mnot d a => Sys2Proof.Machine.execMnot d a s
  | .mset d => Sys2Proof.Machine.execMset d s
  | .mclr d => Sys2Proof.Machine.execMclr d s
  | .mpop d a => Sys2Proof.Machine.execMpop d a s
  | .mffs d a => Sys2Proof.Machine.execMffs d a s
  | .mpsum d a fmt => Sys2Proof.Machine.execMpsum d a fmt s
  | .mmv op d a => Sys2Proof.Machine.execMmv op d a s
  | .vld o => Sys2Proof.Machine.execVld o s
  | .vlds o => Sys2Proof.Machine.execVlds o s
  | .vldx o => Sys2Proof.Machine.execVldx o s
  | .vldxf o fm => Sys2Proof.Machine.execVldxf o fm s
  | .vst o => Sys2Proof.Machine.execVst o s
  | .vsts o => Sys2Proof.Machine.execVsts o s
  | .vstx o => Sys2Proof.Machine.execVstx o s
  | .vscadd o rnd => Sys2Proof.Machine.execVscadd o rnd s
  | .vspill o => Sys2Proof.Machine.execVspill o s
  | .vfill o => Sys2Proof.Machine.execVfill o s
  | .vbind o => Sys2Proof.Machine.execVbind o s
  | .vunbind d => Sys2Proof.Machine.execVunbind d s
  | .vlda o => Sys2Proof.Machine.execVlda o s
  | .vstl o => Sys2Proof.Machine.execVstl o s
  | .mmodeEnter tmask xm => Sys2Proof.Machine.execMmodeEnter tmask xm s
  | .tshape d a b fmt ar => Sys2Proof.Machine.execTshape d a b fmt ar s
  | .mzero acc => Sys2Proof.Machine.execMzero acc s
  | .mop o => Sys2Proof.Machine.execMop o s
  | .mops o mk => Sys2Proof.Machine.execMops o mk s
  | .mld o => Sys2Proof.Machine.execMld o s
  | .mldp o => Sys2Proof.Machine.execMldp o s
  | .mdrain o => Sys2Proof.Machine.execMdrain o s
  | .mfill o => Sys2Proof.Machine.execMfill o s
  | .mstat d acc clr => Sys2Proof.Machine.execMstat d acc clr s
  | .mscl acc a => Sys2Proof.Machine.execMscl acc a s
  | .algld o => Sys2Proof.Machine.execAlgld o s
  | .copy d a b x => Sys2Proof.Machine.execCopy d a b x s
  | .seqLevelWrite a b level slot countM1 => Sys2Proof.Machine.execSeqLevelWrite a b level slot countM1 s
  | .seqgo d a b slot f => Sys2Proof.Machine.execSeqgo d a b slot f s
  | .seqstop slot => Sys2Proof.Machine.execSeqstop slot s
  | .ctwall a => Sys2Proof.Machine.execCtwall a s
  | .ctwany d a => Sys2Proof.Machine.execCtwany d a s
  | .ctffr d a => Sys2Proof.Machine.execCtffr d a s
  | .ctclr a => Sys2Proof.Machine.execCtclr a s
  | .ctst d a => Sys2Proof.Machine.execCtst d a s
  | .binit a b loc sl => Sys2Proof.Machine.execBinit a b loc sl s
  | .barr d a b loc sl => Sys2Proof.Machine.execBarr d a b loc sl s
  | .bwait d a b loc scope sl => Sys2Proof.Machine.execBwait d a b loc scope sl s
  | .btry d a b loc sl => Sys2Proof.Machine.execBtry d a b loc sl s
  | .mcastSend o => Sys2Proof.Machine.execMcastSend o s
  | .mcastRecv d fmt ar => Sys2Proof.Machine.execMcastRecv d fmt ar s
  | .coll o => Sys2Proof.Machine.execColl o s
  | .collw d a => Sys2Proof.Machine.execCollw d a s
  | .dgst d sel => Sys2Proof.Machine.execDgst d sel s
  | .await d src id => Sys2Proof.Machine.execAwait d src id s
  | .amark d f => Sys2Proof.Machine.execAmark d f s
  | .aaddi d src imm => Sys2Proof.Machine.execAaddi d src imm s
  | .aadd d src => Sys2Proof.Machine.execAadd d src s
  | .ashl d src r n => Sys2Proof.Machine.execAshl d src r n s
  | .aand d src => Sys2Proof.Machine.execAand d src s
  | .amul d src => Sys2Proof.Machine.execAmul d src s
  | .apf d src sp loc => Sys2Proof.Machine.execApf d src sp loc s
  | .apin d src cls => Sys2Proof.Machine.execApin d src cls s
  | .aslk k bias => Sys2Proof.Machine.execAslk k bias s
  | .aord k prio => Sys2Proof.Machine.execAord k prio s
  | .abr d src cond off => Sys2Proof.Machine.execAbr d src cond off s
  | .ajmp off => Sys2Proof.Machine.execAjmp off s
  | .async k => Sys2Proof.Machine.execAsync k s
  | .barRelease vfn seq grp scope unit => Sys2Proof.Machine.execBarRelease vfn seq grp scope unit s
  | .waitReread core strand => Sys2Proof.Machine.execWaitReread core strand s
  | .tlbiPerformed core strand => Sys2Proof.Machine.execTlbiPerformed core strand s
  | .haltWake core strand => Sys2Proof.Machine.execHaltWake core strand s
  | .matrixModeGrant core pid => Sys2Proof.Machine.execMatrixModeGrant core pid s
  | .sequencerCopyEmit tid => Sys2Proof.Machine.execSequencerCopyEmit tid s
  | .tagWaitWake core strand => Sys2Proof.Machine.execTagWaitWake core strand s
  | .collectiveComplete cid others => Sys2Proof.Machine.execCollectiveComplete cid others s
  | .eventTaken core strand => Sys2Proof.Machine.execEventTaken core strand s
  | .replyDelivery core strand late consumed => Sys2Proof.Machine.execReplyDelivery core strand late consumed s
  | .storePerform core strand idx => Sys2Proof.Machine.execStorePerform core strand idx s
  | .streamChunkFetch core strand slot => Sys2Proof.Machine.execStreamChunkFetch core strand slot s
  | .chunkWritten tid => Sys2Proof.Machine.execChunkWritten tid s
  | .transferComplete tid => Sys2Proof.Machine.execTransferComplete tid s
  | .prefetchComplete core pid => Sys2Proof.Machine.execPrefetchComplete core pid s
  | .adviceIdleRecord core pid => Sys2Proof.Machine.execAdviceIdleRecord core pid s
  | .awaitRecord core pid => Sys2Proof.Machine.execAwaitRecord core pid s
  | .dependenceMet vfn seq => Sys2Proof.Machine.execDependenceMet vfn seq s
  | .commandStart vfn seq => Sys2Proof.Machine.execCommandStart vfn seq s
  | .rangeRequest vfn seq unit => Sys2Proof.Machine.execRangeRequest vfn seq unit s
  | .groupAdmit vfn seq unit => Sys2Proof.Machine.execGroupAdmit vfn seq unit s
  | .launchRetire vfn seq => Sys2Proof.Machine.execLaunchRetire vfn seq s
  | .launchStop vfn seq => Sys2Proof.Machine.execLaunchStop vfn seq s
  | .notificationSend vfn queue => Sys2Proof.Machine.execNotificationSend vfn queue s
  | .timeSliceExpiry pid => Sys2Proof.Machine.execTimeSliceExpiry pid s
  | .preemptionComplete pid => Sys2Proof.Machine.execPreemptionComplete pid s
  | .restore pid => Sys2Proof.Machine.execRestore pid s
  | .yieldResume core strand => Sys2Proof.Machine.execYieldResume core strand s
  | .packetForward arb => Sys2Proof.Machine.execPacketForward arb s
  | .nop => Sys2Proof.Machine.execNop s
  | .yield => Sys2Proof.Machine.execYield s
  | .exit => Sys2Proof.Machine.execExit s
  | .eret => Sys2Proof.Machine.execEret s
  | .halt => Sys2Proof.Machine.execHalt s
  | .mmodeLeave => Sys2Proof.Machine.execMmodeLeave s
  | .nopHalf => Sys2Proof.Machine.execNopHalf s
  | .slackDecrement => Sys2Proof.Machine.execSlackDecrement s
  | .spanBoundary => Sys2Proof.Machine.execSpanBoundary s
  | .spanTableSwitch => Sys2Proof.Machine.execSpanTableSwitch s
  | .aend => Sys2Proof.Machine.execAend s
  | .anop => Sys2Proof.Machine.execAnop s
  | .doorbellWhileBusy => Sys2Proof.Machine.execDoorbellWhileBusy s
  | .coldReset => Sys2Proof.Machine.execColdReset s
  | .warmReset => Sys2Proof.Machine.execWarmReset s
  | .packageStop => Sys2Proof.Machine.execPackageStop s
  | .s2invalComplete => Sys2Proof.Machine.execS2invalComplete s
  | .addHalf d a => Sys2Proof.Machine.execAddHalf d a s
  | .subHalf d a => Sys2Proof.Machine.execSubHalf d a s
  | .mulHalf d a => Sys2Proof.Machine.execMulHalf d a s
  | .andHalf d a => Sys2Proof.Machine.execAndHalf d a s
  | .orHalf d a => Sys2Proof.Machine.execOrHalf d a s
  | .xorHalf d a => Sys2Proof.Machine.execXorHalf d a s
  | .andnHalf d a => Sys2Proof.Machine.execAndnHalf d a s
  | .shlHalf d a => Sys2Proof.Machine.execShlHalf d a s
  | .shrHalf d a => Sys2Proof.Machine.execShrHalf d a s
  | .sraHalf d a => Sys2Proof.Machine.execSraHalf d a s
  | .minHalf d a => Sys2Proof.Machine.execMinHalf d a s
  | .maxHalf d a => Sys2Proof.Machine.execMaxHalf d a s
  | .minnHalf d a => Sys2Proof.Machine.execMinnHalf d a s
  | .maxnHalf d a => Sys2Proof.Machine.execMaxnHalf d a s
  | .cselHalf d a b => Sys2Proof.Machine.execCselHalf d a b s
  | .addiHalf d a imm => Sys2Proof.Machine.execAddiHalf d a imm s
  | .shlImmHalf d a imm => Sys2Proof.Machine.execShlImmHalf d a imm s
  | .shrImmHalf d a imm => Sys2Proof.Machine.execShrImmHalf d a imm s
  | .sraImmHalf d a imm => Sys2Proof.Machine.execSraImmHalf d a imm s
  | .liHalf d imm => Sys2Proof.Machine.execLiHalf d imm s
  | .faddHalf d a rnd fmt => Sys2Proof.Machine.execFaddHalf d a rnd fmt s
  | .fsubHalf d a rnd fmt => Sys2Proof.Machine.execFsubHalf d a rnd fmt s
  | .fmulHalf d a rnd fmt => Sys2Proof.Machine.execFmulHalf d a rnd fmt s
  | .ffmaHalf d a b rnd fmt => Sys2Proof.Machine.execFfmaHalf d a b rnd fmt s
  | .fminHalf d a rnd fmt => Sys2Proof.Machine.execFminHalf d a rnd fmt s
  | .fmaxHalf d a rnd fmt => Sys2Proof.Machine.execFmaxHalf d a rnd fmt s
  | .ldBzHalf d a imm => Sys2Proof.Machine.execLdBzHalf d a imm s
  | .ldHzHalf d a imm => Sys2Proof.Machine.execLdHzHalf d a imm s
  | .ldWzHalf d a imm => Sys2Proof.Machine.execLdWzHalf d a imm s
  | .ldDHalf d a imm => Sys2Proof.Machine.execLdDHalf d a imm s
  | .ldBsHalf d a imm => Sys2Proof.Machine.execLdBsHalf d a imm s
  | .ldHsHalf d a imm => Sys2Proof.Machine.execLdHsHalf d a imm s
  | .ldWsHalf d a imm => Sys2Proof.Machine.execLdWsHalf d a imm s
  | .stBHalf d a imm => Sys2Proof.Machine.execStBHalf d a imm s
  | .stHHalf d a imm => Sys2Proof.Machine.execStHHalf d a imm s
  | .stWHalf d a imm => Sys2Proof.Machine.execStWHalf d a imm s
  | .stDHalf d a imm => Sys2Proof.Machine.execStDHalf d a imm s
  | .beqHalf d a imm => Sys2Proof.Machine.execBeqHalf d a imm s
  | .bneHalf d a imm => Sys2Proof.Machine.execBneHalf d a imm s
  | .bltHalf d a imm => Sys2Proof.Machine.execBltHalf d a imm s
  | .bgeHalf d a imm => Sys2Proof.Machine.execBgeHalf d a imm s
  | .bltnHalf d a imm => Sys2Proof.Machine.execBltnHalf d a imm s
  | .bgenHalf d a imm => Sys2Proof.Machine.execBgenHalf d a imm s
  | .jHalf imm => Sys2Proof.Machine.execJHalf imm s
  | .vaddHalf d a fmt rnd => Sys2Proof.Machine.execVaddHalf d a fmt rnd s
  | .vsubHalf d a fmt rnd => Sys2Proof.Machine.execVsubHalf d a fmt rnd s
  | .vmulHalf d a fmt rnd => Sys2Proof.Machine.execVmulHalf d a fmt rnd s
  | .vfmaHalf d a b fmt rnd => Sys2Proof.Machine.execVfmaHalf d a b fmt rnd s
  | .vminHalf d a fmt rnd => Sys2Proof.Machine.execVminHalf d a fmt rnd s
  | .vmaxHalf d a fmt rnd => Sys2Proof.Machine.execVmaxHalf d a fmt rnd s
  | .vandHalf d a fmt rnd => Sys2Proof.Machine.execVandHalf d a fmt rnd s
  | .vorHalf d a fmt rnd => Sys2Proof.Machine.execVorHalf d a fmt rnd s
  | .vxorHalf d a fmt rnd => Sys2Proof.Machine.execVxorHalf d a fmt rnd s
  | .vshlHalf d a fmt rnd => Sys2Proof.Machine.execVshlHalf d a fmt rnd s
  | .vshrHalf d a fmt rnd => Sys2Proof.Machine.execVshrHalf d a fmt rnd s
  | .vsraHalf d a fmt rnd => Sys2Proof.Machine.execVsraHalf d a fmt rnd s
  | .nopCommand vfn queue body => Sys2Proof.Machine.execNopCommand vfn queue body s
  | .launch vfn queue body => Sys2Proof.Machine.execLaunch vfn queue body s
  | .signal vfn queue body => Sys2Proof.Machine.execSignal vfn queue body s
  | .abort vfn queue body => Sys2Proof.Machine.execAbort vfn queue body s
  | .group vfn queue body => Sys2Proof.Machine.execGroup vfn queue body s
  | .commandWriteRefused vfn queue body => Sys2Proof.Machine.execCommandWriteRefused vfn queue body s
  | .queueConfigWrite vfn queue word v => Sys2Proof.Machine.execQueueConfigWrite vfn queue word v s
  | .contextEntryWrite pid slot body => Sys2Proof.Machine.execContextEntryWrite pid slot body s
  | .dieFence n => Sys2Proof.Machine.execDieFence n s
  | .thaSample cluster t0 t1 t2 t3 => Sys2Proof.Machine.execThaSample cluster t0 t1 t2 t3 s
  | .blockRetirement addr => Sys2Proof.Machine.execBlockRetirement addr s
  | .partwrite body => Sys2Proof.Machine.execPartwrite body s
  | .partremove body => Sys2Proof.Machine.execPartremove body s
  | .vfwrite body => Sys2Proof.Machine.execVfwrite body s
  | .ctxxlate body => Sys2Proof.Machine.execCtxxlate body s
  | .s2inval body => Sys2Proof.Machine.execS2inval body s
  | .keygen body => Sys2Proof.Machine.execKeygen body s
  | .keyclear body => Sys2Proof.Machine.execKeyclear body s
  | .keywrap body => Sys2Proof.Machine.execKeywrap body s
  | .keyload body => Sys2Proof.Machine.execKeyload body s
  | .measure body => Sys2Proof.Machine.execMeasure body s
  | .attest body => Sys2Proof.Machine.execAttest body s
  | .telemetry body => Sys2Proof.Machine.execTelemetry body s
  | .fwupdate body => Sys2Proof.Machine.execFwupdate body s
  | .faultRingConsumerWrite v => Sys2Proof.Machine.execFaultRingConsumerWrite v s
  | .managementWindowWrite off v => Sys2Proof.Machine.execManagementWindowWrite off v s
  | .remoteAccessRequest src tclass addr key write len => Sys2Proof.Machine.execRemoteAccessRequest src tclass addr key write len s

end Sys2Proof.Machine
end

