-- ==== Sys2Proof/Machine/Uses.lean ====
section
/-!
DEFINITION. Which registers a decoded word reads and writes: for the scoreboard of status destinations (R279), for the completions
that a read observes (R280), for register words that cannot be read (R452), and whether the lanes execute it (R29).
-/
namespace Sys2Proof.Machine

/-- Scalar registers, masks, and first registers of vector groups: written, and read. -/
structure Uses where
  sw : List SReg
  mw : List MReg
  vw : List VNum
  sr : List SReg
  mr : List MReg
  vr : List VNum

def Uses.none : Uses := ⟨[], [], [], [], [], []⟩
/-- Scalar operands alone. -/
def scalarUses (w r : List SReg) : Uses := ⟨w, [], [], r, [], []⟩
/-- Registers read alone. -/
def readUses (sr : List SReg) (mr : List MReg) (vr : List VNum) : Uses := ⟨[], [], [], sr, mr, vr⟩

def bSregs : BSrc → List SReg
  | .s r => [r]
  | .v _ => []
def bVregs : BSrc → List VNum
  | .s _ => []
  | .v r => [r]

/-- The register that an edge takes in SCALAR mode (R64). -/
def nbrUses (x : Strand) (nb : Nbr) : List SReg := if nb ≠ .plain ∧ nbrMode x = 3 then [nbrReg x nb] else []

/-- What a vector instruction of Table 8.1 reads: A, B, the predicate, and more vector sources. -/
def vopReads {D : Type} (o : VOpG D) (x : Strand) (more : List VNum) : Uses :=
  readUses (bSregs o.b ++ nbrUses x o.na ++ nbrUses x o.nb) [o.p] (o.a :: bVregs o.b ++ more)

/-- The same where it writes a vector. -/
def vopUses (o : VOp) (x : Strand) (more : List VNum) : Uses := { vopReads o x more with vw := [o.d] }

/-- A vector memory instruction: base, index or stride, predicate; the data it stores, or the group that it loads. -/
def vmemUses (o : VMem) (load : Bool) : Uses :=
  { readUses (o.a :: bSregs o.b) [o.p] (bVregs o.b ++ if load then [] else [o.d]) with vw := if load then [o.d] else [] }

/-- Registers of a transfer's operands: pairs from a and b on, and the barrier register. -/
def xferReads (a b : SReg) (x : XferOp) : List SReg :=
  [a, Fin.ofNat 64 (a.val + 1), b, Fin.ofNat 64 (b.val + 1)] ++ if x.be then [x.breg] else []

/-- The group at d, where n elements of it are written. -/
def loaded (d : VNum) (n : Nat) : List VNum := if n = 0 then [] else [d]

/-- What an instruction of a strand uses; halves are in halfUses. MOP, MOPS and MFILL read registers as far as their elements reach, which
they check themselves. -/
def instrUses (x : Strand) : Instr → Uses
  | .add d a b | .sub d a b | .mul d a b | .mulh d a b | .mulhn d a b | .div d a b | .divn d a b | .rem d a b | .remn d a b
  | .and d a b | .or d a b | .xor d a b | .andn d a b | .orn d a b | .shl d a b | .shr d a b | .sra d a b | .rol d a b
  | .min d a b | .max d a b | .minn d a b | .maxn d a b | .seq d a b | .sne d a b | .slt d a b | .sltn d a b | .sge d a b
  | .sgen d a b | .lea d a b _ _ | .fadd d a b _ _ | .fsub d a b _ _ | .fmul d a b _ _ | .fdiv d a b _ _ | .fmin d a b _
  | .fmax d a b _ | .fcmp d a b _ _ | .ctxsave d a b _ | .ctxload d a b _ | .tshape d a b _ _ | .barr d a b _ _
  | .bwait d a b _ _ _ | .btry d a b _ _ => scalarUses [d] [a, b]
  | .csel d a b | .ffma d a b _ _ => scalarUses [d] [d, a, b]
  | .clz d a | .ctz d a | .popc d a | .brev d a | .bfx d a _ _ _ | .addi d a _ | .shlImm d a _ | .shrImm d a _ | .sraImm d a _
  | .rolImm d a _ | .fsqrt d a _ _ | .fcvt d a _ _ _ | .fclass d a _ | .fmv d a _ | .callr d a | .slk d a _ _ _ | .vsetl d a _ _
  | .ctwany d a | .ctffr d a | .ctst d a | .collw d a => scalarUses [d] [a]
  | .bfi d a _ _ => scalarUses [d] [d, a]
  | .li d _ | .addpc d _ | .lix d _ | .call d _ | .mfs d _ | .featq d _ | .mstat d _ _ | .dgst d _ => scalarUses [d] []
  | .jr a | .ret a | .mts a _ | .ctwall a | .ctclr a | .mscl _ a => scalarUses [] [a]
  | .beq d a _ | .bne d a _ | .blt d a _ | .bge d a _ | .bltn d a _ | .bgen d a _ => scalarUses [] [d, a]
  | .mark _ a b | .tlbi a b _ _ | .binit a b _ _ | .seqLevelWrite a b _ _ _ => scalarUses [] [a, b]
  | .ld m | .lda m => scalarUses [m.d] [m.a, m.b]
  | .st m | .stl m => scalarUses [] [m.d, m.a, m.b]
  | .amo o => scalarUses [] [o.a, o.b]
  | .amox o => scalarUses [o.d] [o.a, o.b]
  | .cas o => scalarUses [o.d] [o.d, o.a, o.b]
  | .wait o => scalarUses [o.d] [o.a, o.b]
  | .eret => scalarUses [1, 2, 3, 4] []
  | .copy d a b t => scalarUses [d] (xferReads a b t)
  | .seqgo d a b _ (.ext _ t) => scalarUses [d] (xferReads a b t)
  | .seqgo d a b _ (.full _) => scalarUses [d] [a, b]
  | .coll o => scalarUses [] (match o.slk with | .cls _ => [o.d, o.a, o.b] | .lit _ => [o.a, o.b])
  | .algld o => scalarUses [] [o.a]
  | .vtag d a _ _ _ => { readUses [] [] [a] with vw := [d] }
  | .vidx d a b p _ => { readUses [a, b] [p] [] with vw := [d] }
  | .vbc d a p _ _ => { readUses [a] [p] [] with vw := [d] }
  | .vmovs d a b _ _ => { readUses [b] [] [a] with sw := [d] }
  | .vmovv d a p _ _ _ => { readUses [] [p] [a] with vw := [d] }
  | .vadd o | .vsub o | .vmul o | .vmulh o | .vdiv o | .vsqrt o | .vrsq o | .vrcp o | .vexp2 o | .vlog2 o | .vmin o | .vmax o
  | .vabs o | .vneg o | .vand o | .vor o | .vxor o | .vshl o | .vshr o | .vsra o | .vclz o | .vpopc o | .vmwide o | .vsel o
  | .vscan o | .vslide o | .vperm o | .vcompr o | .vexpd o | .vcvt o | .vcvts o | .vamul o | .vconj o | .vnorm o | .varev o =>
    vopUses o x []
  | .vfma o | .vfms o | .vdot o => vopUses o x [o.d]
  | .vrecur o =>
    let k : SReg := Fin.ofNat 64 o.xf.val
    let u := vopUses o x []
    { u with sw := [k], sr := k :: u.sr }
  | .vcmp o => { vopReads o x [] with mw := [o.d] }
  | .vred o => { vopReads o x [] with sw := [o.d] }
  | .vrng d p _ => { readUses [] [p] [] with vw := [d] }
  | .vclass d a p _ _ _ => { readUses [] [p] [a] with mw := [d] }
  | .mand d a b | .mor d a b | .mxor d a b | .mandn d a b => { readUses [] [a, b] [] with mw := [d] }
  | .mnot d a => { readUses [] [a] [] with mw := [d] }
  | .mpsum d a _ => { readUses [] [a] [] with vw := [d] }
  | .mmv op d a => { readUses [] (if op.val = 1 then [] else [a]) [] with mw := if op.val = 2 then [] else [d] }
  | .mpop d a | .mffs d a => { readUses [] [a] [] with sw := [d] }
  | .mset d | .mclr d => { Uses.none with mw := [d] }
  | .vld o | .vlds o | .vldx o | .vfill o | .vlda o => vmemUses o true
  | .vldxf o f => { vmemUses o true with mw := [f] }
  | .vst o | .vsts o | .vstx o | .vscadd o _ | .vspill o | .vstl o => vmemUses o false
  | .vbind o => readUses [o.a, o.b] [] []
  | .mop _ => Uses.none
  | .mops _ k => readUses [] [k] []
  | .mld o | .mldp o => { readUses [o.a, o.b] [] [] with vw := loaded o.d (tshpK x.tshp * if o.dir then tshpM x.tshp else tshpN x.tshp) }
  | .mdrain o => { readUses [o.b] [] [] with vw := loaded o.d (bits (x.rS o.b).toNat 15 8 * tshpN x.tshp) }
  | .mfill o => readUses [o.b] [] []
  | .mcastSend o => { readUses [o.a, o.b] [] [] with vw := [o.d] }
  | .mcastRecv d _ _ => { Uses.none with vw := [d] }
  | _ => Uses.none

/-- Scalar registers s0–s31 and vector registers that a half names. -/
def halfUses (c : HalfCode) : Uses :=
  let s (n : Nat) : SReg := Fin.ofNat 64 n
  let v (n : Nat) : VNum := Fin.ofNat 32 n
  if isVecHop c.hop then { readUses [] [] ([v c.d, v c.a] ++ if c.hop = 0x43 then [v c.b] else []) with vw := [v c.d] }
  else if c.hop = 0x14 then scalarUses [s c.d] []
  else if 0x10 ≤ c.hop ∧ c.hop ≤ 0x13 then scalarUses [s c.d] [s c.a]
  else if c.hop = 0x0F ∨ c.hop = 0x1B then scalarUses [s c.d] [s c.d, s c.a, s c.b]
  else if 0x20 ≤ c.hop ∧ c.hop ≤ 0x26 then scalarUses [s c.d] [s c.a]
  else scalarUses [s c.d] [s c.d, s c.a]

def Uses.both (u v : Uses) : Uses := ⟨u.sw ++ v.sw, u.mw ++ v.mw, u.vw ++ v.vw, u.sr ++ v.sr, u.mr ++ v.mr, u.vr ++ v.vr⟩

/-- What a word uses. -/
def usedBy (x : Strand) : Decoded → Uses
  | .one i _ => instrUses x i
  | .pair a b => (halfUses a).both (halfUses b)

/-- Numbers of registers as Strand.regErr has them, of groups of G; s0 and the absent predicate hold no value. -/
def regNumbers (G : Nat) (ss : List SReg) (ms : List MReg) (vs : List VNum) : List Nat :=
  (ss.filter (fun r => decide (r.val ≠ 0))).map (·.val) ++ (ms.filter (fun r => decide (r.val ≠ 0))).map (fun r => 64 + r.val)
    ++ vs.flatMap (fun r => (List.range G).map (fun k => 96 + r.val + k))

def Uses.reads (u : Uses) (G : Nat) : List Nat := regNumbers G u.sr u.mr u.vr
def Uses.writes (u : Uses) (G : Nat) : List Nat := regNumbers G u.sw u.mw u.vw

/-- The lanes execute the instruction: elementwise and across elements, and vector halves. -/
def laneInstr : Instr → Bool
  | .vidx .. | .vbc .. | .vmovs .. | .vmovv .. | .vadd _ | .vsub _ | .vmul _ | .vmulh _ | .vfma _ | .vfms _ | .vdiv _ | .vsqrt _
  | .vrsq _ | .vrcp _ | .vexp2 _ | .vlog2 _ | .vmin _ | .vmax _ | .vabs _ | .vneg _ | .vand _ | .vor _ | .vxor _ | .vshl _ | .vshr _
  | .vsra _ | .vclz _ | .vpopc _ | .vmwide _ | .vdot _ | .vcmp _ | .vsel _ | .vred _ | .vscan _ | .vrecur _ | .vslide _ | .vperm _
  | .vcompr _ | .vexpd _ | .vcvt _ | .vcvts _ | .vrng .. | .vclass .. | .vamul _ | .vconj _ | .vnorm _ | .varev _ | .mand .. | .mor ..
  | .mxor .. | .mandn .. | .mnot .. | .mset _ | .mclr _ | .mpop .. | .mffs .. | .mpsum .. | .mmv .. | .vld _ | .vlds _ | .vldx _
  | .vldxf .. | .vst _ | .vsts _ | .vstx _ | .vscadd .. | .vspill _ | .vfill _ | .vlda _ | .vstl _ => true
  | _ => false

/-- A load or gather, or an instruction that reads registers alone: one that is squashed leaves no trace (R412). -/
def squashable : Instr → Bool
  | .ld _ | .mld _ | .mldp _ => true
  | .vld o | .vlds o | .vldx o => !o.acq
  | .vscadd .. | .vlda _ | .vstl _ => false
  | i => laneInstr i

/-- A vector memory instruction whose elements those of other strands may come between, with an effect that they could see (R29): its parts
read no register that it writes, and no format that another strand could change. -/
def splits (x : Strand) : Instr → Bool
  | .vld o | .vlds o | .vlda o | .vstl o => x.streams.toList.all (·.isNone) && !isNarCode o.fmt.val
  | .vldx o => x.streams.toList.all (·.isNone) && !isNarCode o.fmt.val && decide (o.b ≠ .v o.d)
  | _ => false

/-- The same of a decoded word. -/
def onLanes : Decoded → Bool
  | .one i _ => laneInstr i
  | .pair a b => isVecHop a.hop || isVecHop b.hop

end Sys2Proof.Machine
end

