-- ==== Sys2Proof/Machine/Schedule.lean ====
section
/-!
DEFINITION. What happens next: the agenda, the requests of the management function, the events that the device itself brings about,
the turns of strands and advice contexts, and the passing of time (log 45).
-/
namespace Sys2Proof.Machine

/-! ## A strand's turn (R12, R148–R165) -/

/-- A word that decodes to nothing (R149, R157, R160, R164). -/
def State.reject (s : State) : Reject → Res
  | .unassigned h => .stop (illegalStop s) { s with cur := { s.cur with half := h } }
  | .badField h => .stop (illegalStop s) { s with cur := { s.cur with half := h } }
  | .headAlone => s.illegal
  | .continuation => s.illegal
  | .short => s.illegal
  | .pairconf n => .stop (.trap cPAIRCONF 0 (BitVec.ofNat 64 n)) s

/-- The decoded word is executed. -/
def State.runWord (s : State) : Decoded → Out
  | .one i _ => exec i s
  | .pair a b => execPair a b s

/-- The outcome is that the acting strand took a trap, from a state of user mode. -/
def State.trapped (s : State) (o : Out) : Bool :=
  match o with
  | .next t => decide (s.me.mode = .user) && decide ((t.strand s.cur.core s.cur.strand).mode = .supervisor)
  | _ => false

/-- The cause of the trap that a strand has just taken (R407). -/
def State.causeAt (s : State) (core k : Nat) : Nat := ((s.strand core k).rS 2).toNat

/-- A trap of the checks that come before a register is read: those of decoding and of tags (R59, R164). -/
def State.trappedBefore (s : State) (o : Out) : Bool :=
  s.trapped o && (match o with | .next t => decide (t.causeAt s.cur.core s.cur.strand < 0x10) | _ => false)

/-- Registers that are written are sound again (R451). -/
def State.healRegs (s : State) (core k : Nat) (ns : List Nat) : State :=
  let x := s.strand core k
  if x.regErr = [] then s else s.setStrand core k { x with regErr := x.regErr.filter (fun n => !ns.contains n) }

/-- The outcome is that the strand took a fault (no trap of SVC or BRK), or that it stopped (R406). -/
def State.faulted (s : State) (o : Out) : Bool :=
  match o with
  | .next t =>
    let x := t.strand s.cur.core s.cur.strand
    (s.trapped o && decide (t.causeAt s.cur.core s.cur.strand < cSVC)) || decide (x.run = .halted ∨ x.run = .waiting .s2stop)
  | _ => false

/-- The half that the outcome names as the faulting one. -/
def outHalf : Out → Bool
  | .next t => t.cur.half
  | _ => false

/-- UNCORR on a register read of a half, or of a word that is no pair (Table 20.1). -/
def State.uncorrIn (s : State) (half : Bool) : Out := finish (.stop (.trap cUNCORR 0 1) { s with cur := { s.cur with half := half } })

/-- One of these registers is read and cannot be. -/
def State.badRead (s : State) (u : Uses) : Bool := (u.reads s.vgroup).any s.me.regErr.contains

/-- The decoded word executes, and the registers that it writes are sound. -/
def State.runHeal (s : State) (d : Decoded) : Out :=
  match s.runWord d with
  | .next t => .next (if s.trapped (.next t) then t else t.healRegs s.cur.core s.cur.strand ((usedBy s.me d).writes s.vgroup))
  | o => o

/-- The decoded word executes; a register that it reads and that cannot be read raises UNCORR (R452), after the earlier checks. In a pair
word half A comes first, and its fault before half B's (R406). Log 29. -/
def State.runRegs (s : State) (d : Decoded) : Out :=
  if s.me.regErr = [] then s.runWord d
  else
    match d with
    | .one i _ =>
      if s.badRead (instrUses s.me i) then (let o := s.runWord d; if s.trappedBefore o then o else s.uncorrIn false) else s.runHeal d
    | .pair a b =>
      let o := s.runWord d
      if s.badRead (halfUses a) then (if s.trappedBefore o && !outHalf o then o else s.uncorrIn false)
      else if s.badRead (halfUses b) then (if s.trappedBefore o || (s.faulted o && !outHalf o) then o else s.uncorrIn true)
      else s.runHeal d

/-- A receive renames its vd to the slices of its strip, and allocates none (R295). -/
def renames : Decoded → Bool
  | .one (.mcastRecv ..) _ => true
  | _ => false

/-- The slices that a word with this outcome has allocated in each lane group (R26): one for each vector register that it writes and whose
result is general, also where only a part of its elements is done. A word that stopped before that, or that waits, has allocated none. -/
def State.allocates (s : State) (d : Decoded) (o : Out) : Nat :=
  let u := usedBy s.me d
  if u.vw.isEmpty || renames d || s.trappedBefore o then 0
  else
    match o with
    | .next t =>
      let y := t.strand s.cur.core s.cur.strand
      let ns := (u.vw.flatMap (fun r => (List.range s.vgroup).map (r.val + ·))).eraseDups
      let n := (ns.filter (fun n => decide ((vget y.v n).shape = .general))).length
      (match y.run with
        | .ready => n
        | .waiting w => if w = .s2stop then n else 0
        | .halted => n
        | .idle => 0
        | .exited => 0)
    | _ => 0

/-- The lane groups have the slices for the word, and R28 lets it have them. -/
def State.hasSlices (s : State) (n : Nat) : Bool :=
  let key := skey s.cur.core s.cur.strand
  decide (n = 0) || (decide (n ≤ s.freeSlices s.cur.pid s.cur.core) && s.sliceTurn s.cur.pid s.cur.core key key)

/-- The decoded word, once there are slices for its result (R26). -/
def State.runSlices (s : State) (d : Decoded) : Out :=
  let o := s.runRegs d
  if s.hasSlices (s.allocates d o) then o else finish (.wait .slices s)

/-- The decoded word, once no register it uses is pending; a status word that it reads is observed (R279, R280). -/
def State.issue (s : State) (d : Decoded) : Out :=
  let u := usedBy s.me d
  if (u.sw ++ u.sr).any (fun n => s.me.pendStat.getLsbD n.val) then finish (.wait .status s)
  else if s.xfers.isEmpty then s.runSlices d
  else (s.observeAll (fun t => decide (t.stat.val ≠ 0) && u.sr.contains t.stat)).runSlices d

/-- The word w at the pc, with the word after it where w is an extended head (R157). -/
def State.runAt (s : State) (w : Nat) : Out :=
  let s1 := { s with cur := { s.cur with word := BitVec.ofNat 64 w } }
  let go (next : Nat) (s : State) : Out :=
    match decode w next with
    | .ok d => s.issue d
    | .error r => finish (s.reject r)
  if bits w 63 62 = 2 then
    match s1.fetchWord (s1.me.pc + 8) with
    | .error t => finish (.stop t s1)
    | .ok (next, s2) => go next s2
  else go 0 s1

/-- The acting strand fetches and executes the word at its pc. -/
def State.runTurn (s : State) : Out :=
  match s.fetchWord s.me.pc with
  | .error t => finish (.stop t s)
  | .ok (w, s2) => s2.runAt w

/-- An event that is due for the strand is taken before the word at its pc, unless the word faults (R406, R410). -/
def takesEvent (core k : Nat) (s : State) : Bool :=
  let s1 := s.actAs core k
  decide (s1.me.mode = .user) && s1.me.eventDue && !s1.faulted s1.runTurn

/-- A strand's turn: the word at the pc, or an event. -/
def strandTurn (core k : Nat) (s : State) : Out :=
  if takesEvent core k s then execEventTaken core k s else (s.actAs core k).runTurn

/-- A strand acts up to an element or a k step that is a free value; no trap and no event is taken (R204, R254). -/
def State.limited (core k : Nat) (s : State) : State :=
  let a := s.actAs core k
  { a with cur := { a.cur with limit := some (Config.choice s.freeCtr) }, freeCtr := s.freeCtr + 1 }

/-- The outcome of such a turn, after which the strand's run state is f of what it is. -/
def endLimited (core k : Nat) (s : State) (f : State → Run → Run) : Out → Out
  | .next t =>
    let x := t.strand core k
    .next { t with strands := (t.setStrand core k { x with run := f t x.run }).strands, cur := (s.actAs core k).cur }
  | o => o

/-- What is left of a strand's way to its stopping point under a pre-emption: the word at the pc, up to a free point (R411, R413, R414, R426).
Of a load under way, the elements whose data have arrived commit, and the rest is squashed (R412, Table 20.3). -/
def stoppingTurn (core k : Nat) (s : State) : Out :=
  let x := s.strand core k
  let s1 := s.squash core k
  endLimited core k s1 (fun _ r => if r = .ready then .waiting .s2stop else r)
    (match (s1.limited core k).runTurn with
      | .next t => .next (if s.awaitsData x then t.abandon x.uid else t)
      | o => o)

/-- Some elements of a vector memory instruction, after which those of other strands may come (R29): the word at the pc up to a free element.
Where it would stop its strand, the strand goes on with its next turn, unless its context is to be saved. Log 45. -/
def partTurn (core k : Nat) (s : State) : Out :=
  endLimited core k s (fun t r => if r = .waiting .s2stop ∧ (t.part (s.actAs core k).cur.pid).preempting = false then .ready else r)
    (s.limited core k).runTurn

/-! ## An advice context's turn (R349) -/

/-- An advice word that cannot be read is counted, and is an advice fault (R349, R452). -/
def State.adviceWord (s : State) : Except Nat (Option (BitVec 32)) :=
  match s.poisoned (pkgAddr (Config.prickPlace s.adv.bound) + 4 * s.adv.apc) 4 with
  | some st => .error st
  | none => .ok ((Map.get? s.pricks s.adv.bound).bind (fun p => p.code[s.adv.apc]?))

/-- The word at APC of the bound pricking; a word that is not there or not an instruction is an advice fault. -/
def adviceTurn (core pid : Nat) (s : State) : Out :=
  let s1 := s.actAdvice core pid
  match s1.adviceWord with
  | .error st => .next ((s1.countStop pid (.trap cUNCORR 0 (BitVec.ofNat 64 st))).setAdv s1.adv.fault)
  | .ok none => .next (s1.setAdv s1.adv.fault)
  | .ok (some w) =>
    match decodeAdvice w.toNat with
    | .ok i => exec i s1
    | .error _ => .next (s1.setAdv s1.adv.fault)

/-! ## Who can run -/

/-- The partition of a strand executes: its context runs and is not being saved. -/
def State.executes (s : State) (pid : Nat) : Bool := (s.part pid).running.isSome && !(s.part pid).preempting
/-- Its context is on the cores, and perhaps being saved. -/
def State.onCores (s : State) (pid : Nat) : Bool := (s.part pid).running.isSome

def State.strandOn (s : State) (key : Nat) : Bool :=
  match ownerOf s.parts (key / 8) (key % 8) with
  | some pid => s.executes pid
  | none => false

/-- The strand has a load under way that may still be squashed (R412). -/
def State.inFlightLoad (s : State) (key : Nat) (x : Strand) : Bool :=
  s.awaitsData x && (match Map.get? s.flights key with
    | some f => decide (f.x.uid = x.uid)
    | none => false)

/-- The strands that can issue; one whose context is being saved, and whose load is under way, can be stopped there. -/
def State.readyKeys (s : State) : List Nat :=
  (s.strands.filter (fun c => decide (c.2.run = .ready) && (match ownerOf s.parts (c.1 / 8) (c.1 % 8) with
    | some pid => s.onCores pid && (!s.awaitsData c.2 || ((s.part pid).preempting && s.inFlightLoad c.1 c.2))
    | none => false))).map (·.1)

/-- The strand's next word, decoded. -/
def State.nextWord (s : State) (key : Nat) : Option Decoded :=
  let s1 := s.actAs (key / 8) (key % 8)
  let word (va : Word) : Nat := match s1.fetchWord va with | .ok (w, _) => w | .error _ => 0
  (decode (word s1.me.pc) (word (s1.me.pc + 8))).toOption

/-- The word with this outcome went on the scalar path: all that it writes is uniform or affine (R56). -/
def State.scalarPath (s : State) (d : Decoded) (o : Out) : Bool :=
  let u := usedBy s.me d
  match o with
  | .next t =>
    let y := t.strand s.cur.core s.cur.strand
    !u.vw.isEmpty && !s.faulted o && decide (y.run = .ready) && u.vw.all (fun r => (List.range s.vgroup).all (fun k =>
      let sh := (vget y.v (r.val + k)).shape
      decide (sh = .uniform ∨ sh = .affine)))
  | _ => false

/-- The lanes execute word d of the acting strand, whose outcome is o. -/
def State.usesLanes (s : State) (d : Option Decoded) (o : Out) : Bool :=
  match d with
  | some d => onLanes d && !s.scalarPath d o
  | none => false

/-- The lanes would execute the strand's next word. -/
def State.nextOnLanes (s : State) (key : Nat) : Bool :=
  let s1 := s.actAs (key / 8) (key % 8)
  s1.usesLanes (s.nextWord key) s1.runTurn

/-- The choice of R29 among strands of one partition on one core: one that has been ready for 15 arithmetic cycles (log 61), the longest
waiting first; else the one that AORD puts highest; else the next after the strand served last. -/
def pickLanes (now served : Nat) (cs : List (Nat × Strand)) : Option Nat :=
  let turn (k : Nat) : Nat := (k % 8 + 7 - served % 8) % 8
  let least (f : Nat × Strand → Nat) : Option Nat :=
    (cs.foldl (fun m c => match m with
      | none => some c
      | some b => if f c < f b then some c else m) none).map (·.1)
  if cs.any (fun c => decide (300 ≤ 19 * (now - c.2.readyAt))) then least (fun c => c.2.readyAt * 8 + turn c.1)
  else if cs.any (fun c => decide (c.2.prio ≠ 0)) then least (fun c => (3 - c.2.prio) * 8 + turn c.1)
  else least (fun c => turn c.1)

/-- The lanes serve this strand next, or it needs none. -/
def State.mayIssue (s : State) (ks : List Nat) (key : Nat) : Bool :=
  let owner (k : Nat) : Option Nat := ownerOf s.parts (k / 8) (k % 8)
  let here := ks.filter (fun k => decide (k / 8 = key / 8) && decide (owner k = owner key))
  if here.length ≤ 1 ∨ s.nextOnLanes key = false then true
  else
    let cs := (here.filter s.nextOnLanes).map (fun k => (k, s.strand (k / 8) (k % 8)))
    decide (pickLanes s.now (s.pcore ((owner key).getD 0) (key / 8)).served cs = some key)

/-- The turns that could be taken: strands, then advice contexts as 8,192 and above. -/
def State.turns (s : State) : List Nat :=
  s.readyKeys.filter (s.mayIssue s.readyKeys)
    ++ (s.pcores.filter (fun c => decide (c.2.adv.run = .running) && s.executes (c.1 / 1024))).map (fun c => 8192 + c.1)

/-- The cores where a strand that waits lacks slices (R26, R294). -/
def Wait.lacks (core : Nat) : Wait → List Nat
  | .slices => [core]
  | .mcast cs => cs
  | _ => []

/-- After a turn of a strand of a core: one that stops for lack of slices has done so since its first turn that did (R28); the next
instruction of one that does not wait is ready from the next cycle on (R29). -/
def Strand.noteTurn (x : Strand) (core now : Nat) : Strand :=
  match x.run with
  | .waiting w => { x with short := if w.lacks core = [] then none else some ((x.short.map (·.1)).getD now, w.lacks core) }
  | _ => { x with readyAt := now + 1, short := none }

/-- Strand k of a core has had its turn, on the lanes or not. Where it issued, the strands there that yielded wait for it no longer
(R178). -/
def State.noteIssue (s : State) (core k : Nat) (issued lanes : Bool) : State :=
  let ss := s.strands.map (fun c =>
    let x := if c.1 = skey core k then c.2.noteTurn core s.now else c.2
    (c.1, match x.run with
      | .waiting (.yield due others) =>
        if issued = true ∧ c.1 / 8 = core then { x with run := .waiting (.yield due (others.filter (· ≠ k))) } else x
      | _ => x))
  let s1 := { s with strands := ss }
  let served := match (s1.strand core k).run with
    | .waiting _ => false
    | _ => lanes
  match served, ownerOf s.parts core k with
  | true, some pid => s1.setPCore pid core { s1.pcore pid core with served := k }
  | _, _ => s1

def noteOut (core k : Nat) (issued lanes : Bool) : Out → Out
  | .next s => .next (s.noteIssue core k issued lanes)
  | o => o

/-- The turn left a load under way, which may be squashed (R412): it has stored nothing, and taken no fault. -/
def State.inFlightAfter (s t : State) (core k : Nat) (d : Decoded) : Option Flight :=
  let a := s.actAs core k
  let y := t.strand core k
  let pid := (ownerOf s.parts core k).getD 0
  let u := usedBy a.me d
  let plain := match d with
    | .one i _ => squashable i && u.mw.all (fun r => (a.me.binds.get r).isNone)
    | .pair .. => true
  if plain && t.awaitsData y && decide (y.run = .ready) && !a.faulted (.next t) && decide (y.stores = a.me.stores) then
    some ⟨a.me, u.sw, u.mw, (Map.getD s.agents y.uid noAgent).region, s.foot.filter (fun f => decide (f.uid = y.uid)), s.accSeq,
      (t.part pid).splits - (s.part pid).splits, (t.part pid).expansions - (s.part pid).expansions⟩
  else none

/-- After a turn of a strand, from state s: its load under way, if there is one. -/
def noteFlight (s : State) (core k : Nat) (d : Option Decoded) : Out → Out
  | .next t =>
    .next { t with flights := match d.bind (s.inFlightAfter t core k) with
      | some f => Map.set t.flights (skey core k) f
      | none => Map.erase t.flights (skey core k) }
  | o => o

def takeTurn (n : Nat) (s : State) : Out :=
  if n < 8192 then
    let core := n / 8
    let k := n % 8
    let d := s.nextWord n
    if s.strandOn n then
      let event := takesEvent core k s
      let o := strandTurn core k s
      noteOut core k (!event) (!event && (s.actAs core k).usesLanes d o) (noteFlight s core k (if event then none else d) o)
    else noteOut core k true false (stoppingTurn core k s)
  else adviceTurn ((n - 8192) % 1024) ((n - 8192) / 1024) s

/-! ## Events that the device brings about -/

def outState (d : State) : Out → State
  | .next s => s
  | _ => d

/-- After o, strand k of a core no longer waits. -/
def wakes (s : State) (core k : Nat) (o : Out) : Bool := decide (((outState s o).strand core k).run = .ready)

/-- o changes what f reads. -/
def changes {α : Type} [DecidableEq α] (f : State → α) (s : State) (o : Out) : Bool := decide (f (outState s o) ≠ f s)

/-- The instruction at the pc would go on now. -/
def State.couldResume (s : State) (core k : Nat) : Bool :=
  match ((outState s (strandTurn core k (s.wake core k))).strand core k).run with
  | .waiting _ => false
  | _ => true

/-- Events of one strand. -/
def State.strandEvents (s : State) (key : Nat) (x : Strand) : List Instr :=
  let c := key / 8
  let k := key % 8
  let wait : List Instr := match x.run with
    | .waiting (.mem _ _) => if wakes s c k (execWaitReread c k s) then [.waitReread c k] else []
    | .waiting (.barrier sc) =>
      (match x.task with
        | some t =>
          let u := barUnit sc c
          if wakes s c k (execBarRelease t.vfn t.seq t.grp sc u s) then [.barRelease t.vfn t.seq t.grp sc u] else []
        | none => [])
    | .waiting .tlbi => if wakes s c k (execTlbiPerformed c k s) then [.tlbiPerformed c k] else []
    | .waiting (.yield due others) => if due ≤ 19 * s.now ∨ others = [] then [.yieldResume c k] else []
    | .waiting .s2stop => []
    | .waiting .mmode => []
    | .waiting _ => if s.couldResume c k then [.tagWaitWake c k] else []
    | .halted => if x.eventDue && wakes s c k (execHaltWake c k s) then [.haltWake c k] else []
    | .ready => []
    | .idle => []
    | .exited => []
  let due : Bool := decide (x.mode = .user) && x.eventDue
  let taken : List Instr := match x.run with
    | .waiting w => if due && decide (w ≠ .s2stop) then [.eventTaken c k] else []
    | .ready => if due && s.inFlightLoad key x then [.eventTaken c k] else []
    | _ => []
  let stores := ((List.range x.stores.length).filter (fun i =>
    match x.stores[i]? with
    | some p => !(x.stores.take i).any p.overlaps
    | none => false)).map (fun i => Instr.storePerform c k i)
  let streams := ((List.range 4).filter (fun j =>
    (streamAt x.streams j).isSome && changes (fun s => (s.strand c k).streams) s (execStreamChunkFetch c k j s))).map
      (fun j => Instr.streamChunkFetch c k j)
  wait ++ taken ++ stores ++ (if x.run.live then streams else [])

/-- Events of one partition on one core. -/
def State.pcoreEvents (s : State) (key : Nat) (c : PCore) : List Instr :=
  let core := key % 1024
  let pid := key / 1024
  (if c.holder.isNone && !c.mmWait.isEmpty then [.matrixModeGrant core pid] else [])
    ++ (match c.adv.run with
      | .await .. => if changes (fun s => (s.pcore pid core).adv) s (execAwaitRecord core pid s) then [.awaitRecord core pid] else []
      | .async _ => if changes (fun s => (s.pcore pid core).adv) s (execAwaitRecord core pid s) then [.awaitRecord core pid] else []
      | .idle => let t := s.actAdvice core pid; if (t.oldestQueue t.g).isSome then [.adviceIdleRecord core pid] else []
      | .ended => []
      | .running => [])
    ++ (if c.adv.pfInFlight.isEmpty then [] else [.prefetchComplete core pid])

/-- Events of one transfer. -/
def State.xferEvents (s : State) (tid : Nat) (t : Xfer) : List Instr :=
  if t.complete ∨ t.stalled = true ∨ s.onCores t.pid = false then []
  else
    (if changes (fun s => (Map.get? s.xfers tid).map (·.emitted)) s (execSequencerCopyEmit tid s) then [.sequencerCopyEmit tid] else [])
      ++ (if s.present t && t.running && decide (t.next < t.total ∧ t.next / copyChunks t.x < t.emitted) && s.queueHead tid t then
        [.chunkWritten tid] else [])
      ++ (if changes (fun s => (Map.get? s.xfers tid).map (·.complete)) s (execTransferComplete tid s) then [.transferComplete tid] else [])

/-- Events of one launch. -/
def State.launchEvents (s : State) (key : Nat) (l : Launch) : List Instr :=
  let vfn := key % 1024
  let seq := key / 1024
  let units := ((s.part l.pid).cores.map l.unitOf).eraseDups
  let on (o : Out) : Bool := changes (fun s => s.launches) s o
  (units.filter (fun u => on (execRangeRequest vfn seq u s))).map (fun u => Instr.rangeRequest vfn seq u)
    ++ (units.filter (fun u => on (execGroupAdmit vfn seq u s))).map (fun u => Instr.groupAdmit vfn seq u)
    ++ (if changes (fun s => ((s.vf vfn).entry seq).map (·.state)) s (execLaunchRetire vfn seq s) then [.launchRetire vfn seq] else [])

/-- Events of one command. -/
def State.commandEvents (s : State) (vfn : Nat) (e : JEntry) : List Instr :=
  let on (o : Out) : Bool := changes (fun s => Map.get? (s.vf vfn).journal (e.seq % 4096)) s o
  if e.state = .accepted then
    (if on (execDependenceMet vfn e.seq s) then [.dependenceMet vfn e.seq] else [])
      ++ (if on (execCommandStart vfn e.seq s) then [.commandStart vfn e.seq] else [])
  else if e.state = .dispatched ∧ e.kind = 4 then (if on (execCommandStart vfn e.seq s) then [.commandStart vfn e.seq] else [])
  else []

/-- Events of one virtual function. -/
def State.vfEvents (s : State) (vfn : Nat) (v : VF) : List Instr :=
  v.journal.flatMap (fun c => s.commandEvents vfn c.2)
    ++ ((v.queues.filter (fun q => changes (fun s => (s.vf vfn).queues) s (execNotificationSend vfn q.1 s))).map
      (fun q => Instr.notificationSend vfn q.1))

/-- Events of one partition's scheduler. -/
def State.partEvents (s : State) (pid : Nat) (p : Part) : List Instr :=
  if p.preempting then [.preemptionComplete pid]
  else
    match p.running with
    | none => if (s.nextSlot pid p.last).isSome then [.restore pid] else []
    | some cur =>
      if p.sliceDue ≤ s.now ∨ (s.ctxRun pid cur = false ∧ ((s.nextSlot pid cur).getD cur) ≠ cur) then [.timeSliceExpiry pid] else []

/-- Every event that could happen now. -/
def State.events (s : State) : List Instr :=
  s.strands.flatMap (fun c => if s.strandOn c.1 then s.strandEvents c.1 c.2 else [])
    ++ s.pcores.flatMap (fun c => if s.executes (c.1 / 1024) then s.pcoreEvents c.1 c.2 else [])
    ++ s.xfers.flatMap (fun c => s.xferEvents c.1 c.2)
    ++ s.launches.flatMap (fun c => s.launchEvents c.1 c.2)
    ++ s.vfs.flatMap (fun c => s.vfEvents c.1 c.2)
    ++ s.parts.flatMap (fun c => s.partEvents c.1 c.2)
    ++ (match s.mgmt.s2pending with
      | some vfn => if s.storesDone (s.vf vfn).pid then [.s2invalComplete] else []
      | none => [])

/-! ## The management function at work (R432) -/

/-- The request in the request area is carried out. -/
def runRequest (s : State) : Out :=
  let r := s.requestBytes
  match numAt r 0 2 with
  | 1 => execPartwrite r s
  | 2 => execPartremove r s
  | 3 => execVfwrite r s
  | 4 => execCtxxlate r s
  | 5 => execS2inval r s
  | 6 => execKeygen r s
  | 7 => execKeyclear r s
  | 8 => execKeywrap r s
  | 9 => execKeyload r s
  | 10 => execMeasure r s
  | 11 => execAttest r s
  | 12 => execTelemetry r s
  | 13 => execFwupdate r s
  | _ => refuse s 1

/-! ## Time -/

/-- What was corrected or resent in a cycle is counted per structure (R451). Log 29. -/
def State.corrected (s : State) : Map Nat :=
  (List.range 6).foldl (fun m i => Map.set m i (Map.getD m i 0 + Config.corrections s.freeCtr i)) s.tele.corrected

/-- VSTALL of the cores: the cycles in which their vault reads wait for refresh or admission (R449). Log 29. -/
def State.stalled (s : State) : Map Core :=
  ((s.parts.flatMap (fun p => p.2.cores)).eraseDups).foldl (fun m c =>
    let x := Map.getD m c Core.reset
    Map.set m c { x with vstall := x.vstall + b2n (Config.vaultStall s.freeCtr c) }) s.cores

/-- What has become uncorrectable in a cycle: a 64-bit word of memory, a register of a strand, or a tile cell of a core (R451). A code 3 names
a word of a line that is in a cluster cache. Log 29. -/
def State.decayed (s : State) : State :=
  let d := Config.decay s.freeCtr
  let word : Bool := decide (2 ≤ d.1 ∧ (d.1 = structOf (8 * d.2.1) ∨ (d.1 = 3 ∧ structOf (8 * d.2.1) = 5)))
  { s with
    strands := s.strands.map (fun c =>
      (c.1, { c.2 with regErr := if d.1 = 1 ∧ d.2.1 = c.1 ∧ d.2.2 < 128 then d.2.2 :: c.2.regErr else c.2.regErr }))
    cores := s.cores.map (fun c =>
      (c.1, { c.2 with badCells := if d.1 = 1 ∧ d.2.1 = c.1 ∧ 128 ≤ d.2.2 then (d.2.2 - 128) :: c.2.badCells else c.2.badCells }))
    poison := if word then Map.set s.poison d.2.1 d.1 else s.poison }

/-- A cache writes a line back to far memory: the line holds no write any longer (R455). Log 66. -/
def State.writtenBack (s : State) : Map Cluster :=
  let w := Config.writesBack s.freeCtr
  s.clusters.map (fun c => (c.1, if c.1 = w.1 then
    { c.2 with lines := c.2.lines.map (fun l => (l.1, if l.1 = w.2 then { l.2 with back := none, newer := [] } else l.2)) } else c.2))

/-- The network cycle ends: slack, spans and one forwarding at each arbiter come due (R137, R141, R143). -/
def State.tick (s : State) : State :=
  let now := s.now + 1
  let due : List Instr :=
    (if now % 4 = 0 then [.slackDecrement] else []) ++ (if now % 256 = 0 then [.spanBoundary] else [])
      ++ (if now % 8192 = 0 then [.spanTableSwitch] else [])
      ++ (s.arbs.filter (fun c => !c.2.packets.isEmpty)).map (fun c => Instr.packetForward c.1)
  { s.decayed with
    now := now
    agenda := s.agenda ++ due
    cores := s.decayed.stalled
    clusters := s.writtenBack
    tele := { s.tele with corrected := s.corrected }
    freeCtr := s.freeCtr + 1 }

def tickOut : Out → Out
  | .next s => .next s.tick
  | o => o

/-- The strands whose next vector instruction may execute in part: there is something else that could happen between its elements, and no event is
due before them (R409, R410). -/
def State.partTurns (s : State) : List Nat :=
  if s.events.length + s.turns.length ≤ 1 then []
  else s.turns.filter (fun n =>
    let x := s.strand (n / 8) (n % 8)
    decide (n < 8192) && s.strandOn n && !(decide (x.mode = .user) && x.eventDue) && (match s.nextWord n with
      | some (.one i _) => splits x i
      | _ => false))

/-- A strand executes part of a vector instruction. -/
def takePart (n : Nat) (s : State) : Out := noteOut (n / 8) (n % 8) true true (partTurn (n / 8) (n % 8) s)

/-- The n-th of the events, then of the turns, then of the turns in part: a turn takes a network cycle. With nothing to take, time passes. -/
def takeNth (es : List Instr) (ts ps : List Nat) (n : Nat) (s : State) : Out :=
  match es[n]? with
  | some i => exec i s
  | none =>
    match ts[n - es.length]? with
    | some t => tickOut (takeTurn t s)
    | none =>
      match ps[n - es.length - ts.length]? with
      | some t => tickOut (takePart t s)
      | none => .next s.tick

/-- With the agenda empty: an event or a turn, whole or in part, or, while a context is being saved, that time passes. The choice among
several is a free value. Log 45. -/
def chooseNext (s : State) : Out :=
  let es := s.events
  let ts := s.turns
  let ps := s.partTurns
  let n := es.length + ts.length + ps.length + b2n (s.parts.any (fun p => p.2.preempting))
  if n ≤ 1 then takeNth es ts ps 0 s
  else takeNth es ts ps (Config.choice s.freeCtr % n) { s with freeCtr := s.freeCtr + 1 }

/-- A reset is what a stopped package answers to. -/
def isReset : Instr → Bool
  | .coldReset => true
  | .warmReset => true
  | _ => false

/-- The strands that an event stops on its own authority (R399, R454, R455): their tasks run to a stopping point first. -/
def State.stoppedBy (s : State) : Instr → List Nat
  | .launchStop vfn seq =>
    match s.launchOf vfn seq, (s.vf vfn).entry seq with
    | some l, some e => if l.stopped = true ∧ e.state = .dispatched then s.residents vfn seq else []
    | _, _ => []
  | .dieFence n => s.dieStrands n.val
  | .warmReset => s.strands.map (·.1)
  | .packageStop => s.strands.map (·.1)
  | _ => []

/-- A strand about to be stopped may still do part of its next word: elements and k steps up to a free point (R204, R254, R399). -/
def State.towardStop (s : State) (key : Nat) : State :=
  if key ∈ s.readyKeys ∧ Config.choice s.freeCtr % 2 = 1 then
    outState s (stoppingTurn (key / 8) (key % 8) { s with freeCtr := s.freeCtr + 1 })
  else { s with freeCtr := s.freeCtr + 1 }

/-- The next of what is due. -/
def execDue (i : Instr) (rest : List Instr) (s : State) : Out :=
  let s1 := { s with agenda := rest }
  let s2 := (s1.stoppedBy i).foldl State.towardStop s1
  exec i { s2 with cur := s.cur }

/-- One step of the package. A request whose DOORBELL was written is carried out before anything else (R432). -/
def stepOnce (s : State) : Out :=
  if s.fw.recovery then
    match s.agenda with
    | i :: rest => if isReset i then execDue i rest s else .fault .recoveryOnly
    | [] => .fault .recoveryOnly
  else if s.mgmt.busy && s.mgmt.s2pending.isNone then runRequest s
  else
    match s.agenda with
    | i :: rest => execDue i rest s
    | [] => chooseNext s

end Sys2Proof.Machine
end

