-- ==== Sys2Proof/Machine/Place.lean ====
section
/-!
DEFINITION. A machine on which a program runs: what firmware, hypervisor and loader would set up (log 3). Partition 0 owns one lane
group of core 0; virtual function 0 owns it; context slot 0 runs. Key slot 0 is loaded. Both stages map the first 512 MiB onto far
memory with all permissions.
-/
namespace Sys2Proof.Machine

/-- Key material of slot 0. -/
def placeKey : Nat := 1

/-- A table entry that points to the next table at a. -/
def tableEntry (a : Nat) : Nat := a / 65536 * 4096 + 1
/-- A 512 MiB leaf at 0 with R, W and X. -/
def leafEntry : Nat := 0x1F

/-- Where the program stands: VA, IPA and domain address alike. -/
def placePc : Nat := 0x80000

/-- The tables: stage 2 at 0x10000 and 0x20000, stage 1 at 0x30000 and 0x40000. -/
def State.placeTables (s : State) : State :=
  let put (s : State) (a e : Nat) : State := s.writeBytes a (some placeKey) (leBytes 8 e)
  put (put (put (put s 0x10000 (tableEntry 0x20000)) 0x20000 leafEntry) 0x30000 (tableEntry 0x40000)) 0x40000 leafEntry

def placeCtx : Ctx := { Ctx.reset with slice := 65535, valid := true, vfn := 0, root := 0x30000, tkey := 0, xvalid := true }
def placePart (now : Nat) : Part :=
  { Part.reset with kcnt := 1, own := [(0, 0)], ctxs := [(0, placeCtx)], running := some 0, sliceDue := now + 131070000, last := 0 }
def placeVf : VF := { VF.reset with en := true, kcnt := 1, s2root := 0x10000, s2key := 0 }

/-- The partition, its function and its tables, with nothing else under way. -/
def State.placed (s : State) : State :=
  { s with
    keys := Map.set s.keys 0 placeKey
    strands := []
    cores := []
    pcores := []
    clusters := []
    parts := [(0, placePart s.now)]
    vfs := [(0, placeVf)]
    launches := []
    xfers := []
    colls := []
    mgmt := { s.mgmt with busy := false, s2pending := none }
    fw := { s.fw with recovery := false }
    agenda := []
    poison := []
    cur := ⟨0, 0, 0, 0, false, none⟩ }.placeTables

/-- The strand that runs the program: strand 0 of core 0, in user mode. -/
def placeStrand (uid : Nat) : Strand := { Strand.reset with pc := BitVec.ofNat 64 placePc, run := .ready, uid := uid }

/-- Code bytes at placePc, and a strand there. -/
def State.placeCode (s : State) (bs : List Byte) : State :=
  let s1 := s.placed.writeBytes placePc (some placeKey) bs
  { s1 with
    strands := [(0, placeStrand s1.fresh)]
    agents := Map.set s1.agents s1.fresh (newStrandAgent 0 0 0)
    fresh := s1.fresh + 1 }

/-- One advice word as a bound pricking, its context running. -/
def State.placeAdvice (s : State) (w : Nat) : State :=
  { s.placed with
    pricks := [(1, ⟨[BitVec.ofNat 32 w], []⟩)]
    pcores := [(0, { PCore.reset with adv := { Advice.reset with bound := 1, run := .running } })] }

end Sys2Proof.Machine
end

