-- ==== Sys2Proof/Machine/Step.lean ====
section
/-!
DEFINITION. The step of the machine, and the placing of one instruction where the next step fetches it.
-/
namespace Sys2Proof.Machine

def step (s : State) : Host.Outcome State Fault Refusal := stepOnce s

/-- An instruction's bits as the next thing the machine runs: an advice word of up to 32 bits, else code words (R12, R148). -/
def State.withFetchWord (s : State) (nbits w : Nat) : State :=
  if nbits ≤ 32 then s.placeAdvice (w % 2 ^ 32) else s.placeCode (leBytes 16 w)

end Sys2Proof.Machine
end

