-- ==== Sys2Proof/Safety.lean ====
section
/-!
DEFINITION. The terms in which statements speak: what it means that an instruction completes, and what it leaves as it was.
-/
namespace Sys2Proof.Machine

/-- Instruction i at s answers a next state, of which P holds. -/
def Gives (i : Instr) (s : State) (P : State → Prop) : Prop := ∃ t, exec i s = .next t ∧ P t

/-- Every byte of memory reads in t as in s. -/
def SameBytes (s t : State) : Prop := ∀ a, Memory.read t.mem a = Memory.read s.mem a

/-- t is s but for the acting strand; every byte of memory reads as before. -/
def OnlyMe (s t : State) : Prop := t = s.setMe t.me ∧ SameBytes s t

/-- The instruction of n bytes is past: pc has moved on, VSX is 0 (R20, R23). -/
def Commits (n : Nat) (s t : State) : Prop := t.me.pc = s.me.pc + BitVec.ofNat 64 n ∧ t.me.vsx = 0

/-- Of the strand, nothing but the scalar register d, pc and VSX differs. -/
def OnlyScalar (d : SReg) (x y : Strand) : Prop :=
  y = { x with s := y.s, pc := y.pc, vsx := y.vsx } ∧ ∀ r : SReg, r ≠ d → y.rS r = x.rS r

/-- The instruction of n bytes writes v to s_d (R43: to s0 nothing), and does nothing else. -/
def SetsS (d : SReg) (v : Word) (n : Nat) (s t : State) : Prop :=
  Commits n s t ∧ t.rS d = (if d.val = 0 then 0 else v) ∧ OnlyScalar d s.me t.me ∧ OnlyMe s t

/-- As SetsS, and the flags fl are merged into FPFLAGS (R174). -/
def SetsFp (d : SReg) (v : Word) (fl n : Nat) (s t : State) : Prop :=
  Commits n s t ∧ t.rS d = (if d.val = 0 then 0 else v) ∧ t.me.fpflags = s.me.fpflags ||| fl
    ∧ OnlyScalar d s.me { t.me with fpflags := s.me.fpflags } ∧ OnlyMe s t

/-- Control goes to w and nothing else happens. -/
def GoesTo (w : Word) (s t : State) : Prop := t = s.setMe { s.me with pc := w, vsx := 0 } ∧ SameBytes s t

/-- The instruction raises a trap of this cause, with ADDR and INFO, at its own pc; takeTrap says what the entry does (R407). While its
context is being pre-empted the trap is not taken: the strand stops at the instruction (R414). -/
def Traps (i : Instr) (cause : Nat) (addr info : Word) (s : State) : Prop :=
  exec i s = .next (if s.cur.limit.isSome then s.stopHere else s.takeTrap cause s.me.pc addr info false)

/-- A branch may go to w: bits [63:55] are 0, and no continuation word stands there (R149, R157). -/
def TargetOk (s : State) (w : Word) : Prop := s.checkTarget w = none

/-- What an access may change beside its own effect: TLB entries, the lines in cluster caches, footprints and regions, packets, SPLITS,
and the count of free values taken. Memory, every strand, tiles, sequencers, tables and devices stay. -/
structure AccessFrame (s t : State) : Prop where
  rest : ∃ co cl pt fc ag ft ac ar, t = { s with
    cores := co, clusters := cl, parts := pt, freeCtr := fc, agents := ag, foot := ft, accSeq := ac, arbs := ar }
  cores : ∀ c, t.coreOf c = { s.coreOf c with tlb := (t.coreOf c).tlb }
  clusters : ∀ c, t.cluster c = { s.cluster c with tlb := (t.cluster c).tlb, lines := (t.cluster c).lines }
  parts : ∀ p, t.part p = { s.part p with splits := (t.part p).splits }

/-- What a store, an atomic or a synchronising access may change beside the acting strand and the bytes of memory: TLB entries,
the lines in cluster caches, footprints, the strand's own agent, packets, SPLITS, and the count of free values taken. Every other strand and everything else stay. -/
structure MemFrame (s t : State) : Prop where
  rest : ∃ co cl pt fc ag ft ac ar m mk po st, t = { s with
    cores := co, clusters := cl, parts := pt, freeCtr := fc, agents := ag, foot := ft, accSeq := ac, arbs := ar, mem := m,
    memKey := mk, poison := po, strands := st }
  cores : ∀ c, t.coreOf c = { s.coreOf c with tlb := (t.coreOf c).tlb }
  clusters : ∀ c, t.cluster c = { s.cluster c with tlb := (t.cluster c).tlb, lines := (t.cluster c).lines }
  parts : ∀ p, t.part p = { s.part p with splits := (t.part p).splits }
  agents : ∀ id, id ≠ s.me.uid → Map.get? t.agents id = Map.get? s.agents id
  strands : ∀ key, key ≠ skey s.cur.core s.cur.strand → Map.get? t.strands key = Map.get? s.strands key

/-- The stores ps that reach the 64-byte data unit of a are all under one key, and what stands there is plaintext or under it too.
A partial write under another key would decrypt and encrypt the rest of the unit (R109). -/
def SameKey (ps : List PStore) (s : State) (a : Nat) : Prop :=
  ∃ m, (s.keyAt a = none ∨ s.keyAt a = m) ∧ ∀ p ∈ ps, ∀ c ∈ p.bytes, c.1 / 64 = a / 64 → p.key = m

/-- From a memory in its canonical form, only bytes that the stores ps name may read otherwise in t. -/
def OnlyStores (ps : List PStore) (s t : State) : Prop :=
  Memory.wf s.mem = true → ∀ a, SameKey ps s a → (∀ p ∈ ps, ∀ c ∈ p.bytes, c.1 ≠ a) →
    Memory.read t.mem a = Memory.read s.mem a

/-- The bytes at a, written under key material mat, read as bs, and every other byte as in s, but for those in the 64-byte data units
of a and its last byte that stand under another key (R109). -/
def StoresAt (mat : Option Nat) (a : Nat) (bs : List Byte) (s t : State) : Prop :=
  (∀ i (h : i < bs.length), Memory.read t.mem (a + i) = bs[i])
    ∧ ∀ x, x < a ∨ a + bs.length ≤ x →
      s.keyAt x = none ∨ s.keyAt x = mat ∨ x / 64 < a / 64 ∨ (a + bs.length - 1) / 64 < x / 64 →
      Memory.read t.mem x = Memory.read s.mem x

/-- R117: the strand's region has ended, is released to the scope, and what others released to it is acquired. -/
def Synced (scope : Nat) (s t : State) : Prop :=
  Map.get? t.agents s.me.uid =
    (Map.get? s.agents s.me.uid).map (fun a => acquireAgent scope s.agents s.me.uid (releaseAgent scope a))

/-! ### Vector instructions -/

/-- The elements that an instruction under predicate P executes: from VSX on, below VL, their bit of P set (R21, R45, R198). -/
def Active (x : Strand) (P : MReg) (e : Nat) : Prop := x.vsx ≤ e ∧ e < x.vl ∧ x.active P e = true

/-- What p prepared, with the chunks of the streams that it consumes in their registers (R62, R243). -/
def Prep.loaded (p : Prep) : State := p.load none p.s

/-- After the instruction of n bytes that p prepared, and besides its destination: the streams it consumed have passed, flags are
merged, pc has moved on; outside the strand at most EXPANSIONS has moved, and the footprint where such a chunk was read (R114). -/
structure VecRest (p : Prep) (n fl : Nat) (t : State) : Prop where
  strand : t.me = { p.slots.foldl Strand.passSlot p.s.me with
    s := t.me.s, v := t.me.v, fpflags := p.s.me.fpflags ||| fl, pc := p.s.me.pc + BitVec.ofNat 64 n, vsx := 0 }
  rest : t = { p.loaded with strands := t.strands, parts := t.parts }
  others : ∀ key, key ≠ skey p.s.cur.core p.s.cur.strand → Map.get? t.strands key = Map.get? p.s.strands key
  parts : ∀ q, t.part q = { p.loaded.part q with expansions := (t.part q).expansions }

/-- Group o takes f e in the elements of act, and its tags; other elements keep their bits, other registers everything. s is the
state before. -/
structure Puts (o : Opd) (fmt ar alg : Nat) (act : Nat → Prop) (f : Nat → Nat) (s t : State) : Prop where
  elems : ∀ e, act e → o.get t.me.v e = f e % 2 ^ o.sz
  kept : 0 < o.per → (∀ r ∈ o.regs, s.size (vget s.me.v r).format (vget s.me.v r).arity = o.sz) → ∀ e, ¬act e → o.get t.me.v e = o.get s.me.v e
  tags : ∀ r ∈ o.regs, (vget t.me.v r).format = fmt ∧ (vget t.me.v r).arity = ar ∧ (vget t.me.v r).alg = alg
  others : ∀ r, o.has r = false → vget t.me.v r = vget s.me.v r

/-- fl joins the flags f e of the elements of act. -/
def JoinsFlags (fl : Nat) (act : Nat → Prop) (f : Nat → Nat) : Prop := ∀ k, fl.testBit k = true ↔ ∃ e, act e ∧ (f e).testBit k = true

/-- The instruction that p prepared completes with these elements, each a pattern with its flags. -/
def PutsVector (i : Instr) (s : State) (p : Prep) (n : Nat) (o : Opd) (fmt ar alg : Nat) (act : Nat → Prop) (f : Nat → Nat × Nat) : Prop :=
  Gives i s (fun t => ∃ fl, JoinsFlags fl act (fun e => (f e).2) ∧ VecRest p n fl t ∧ t.me.s = p.s.me.s
    ∧ Puts o fmt ar alg act (fun e => (f e).1) p.loaded t)

/-- As PutsVector, with a mask register as destination: bit e for element e; the write ends a chunk-mask binding (R125). -/
def PutsMask (i : Instr) (s : State) (p : Prep) (d : MReg) (act : Nat → Prop) (f : Nat → Bool × Nat) : Prop :=
  Gives i s (fun t => ∃ fl m, JoinsFlags fl act (fun e => (f e).2)
    ∧ (∀ e, (act e → (Vector.get m d).testBit e = (f e).1) ∧ (¬act e → (Vector.get m d).testBit e = (p.s.me.m.get d).testBit e))
    ∧ (∀ r, r ≠ d → Vector.get m r = p.s.me.m.get r)
    ∧ t.me = { p.slots.foldl Strand.passSlot { p.loaded.me with m := m, binds := p.s.me.binds.set d.val none d.isLt } with
      fpflags := p.s.me.fpflags ||| fl, pc := p.s.me.pc + 8, vsx := 0 }
    ∧ t = p.loaded.setMe t.me)

/-- As PutsVector, with a scalar register as destination. -/
def PutsScalar (i : Instr) (s : State) (p : Prep) (d : SReg) (v : Word) (fl : Nat) : Prop :=
  Gives i s (fun t => VecRest p 8 fl t ∧ t = p.loaded.setMe t.me ∧ t.me.v = p.loaded.me.v
    ∧ t.rS d = (if d.val = 0 then 0 else v) ∧ ∀ r, r ≠ d → t.rS r = p.s.rS r)

/-- Tree of R91 over the elements x, EMPTY where there is none: y[j] after l halvings, with the flags of its Combines. -/
def tree (E : VEnv) (op : RedOp) (x : Nat → Option XV) : Nat → Nat → Option XV × Nat
  | 0, j => (x j, 0)
  | l + 1, j =>
    match tree E op x l (2 * j), tree E op x l (2 * j + 1) with
    | (none, f), (b, g) => (b, f ||| g)
    | (a, f), (none, g) => (a, f ||| g)
    | (some a, f), (some b, g) =>
      let c := E.combine op a b
      (some (E.f.value c.1), f ||| g ||| c.2)

/-- r is a serial recurrence over the elements of act: each from the one before it, the first from c (R220, R221). -/
def Serial {α : Type} (act : Nat → Prop) (c : α) (step : Nat → α → α) (r : Nat → α) : Prop :=
  ∀ e, act e → ((∀ j < e, ¬act j) → r e = step e c)
    ∧ ∀ j < e, act j → (∀ i, j < i → i < e → ¬act i) → r e = step e (r j)

/-! ### Barrier words (R284, R285) -/

/-- The 64-bit word at a. -/
def barWord (s : State) (a : Nat) : Nat := leNat (Memory.readN s.mem a 8)

/-- v is the barrier word w after one arrival of n bytes with error flag e: Table 10.5's fields as R285 updates them. -/
def Arrives (w n : Nat) (e : Bool) (v : Nat) : Prop :=
  let T := bits w 60 31
  let a := bits w 30 0 + n
  bits v 60 31 = T ∧ v.testBit 62 = (e || w.testBit 62)
    ∧ if T = 0 then v.testBit 63 = !w.testBit 63 ∧ v.testBit 61 = true ∧ bits v 30 0 = 0
      else if a < T then v.testBit 63 = w.testBit 63 ∧ v.testBit 61 = w.testBit 61 ∧ bits v 30 0 = a
      else v.testBit 63 = !w.testBit 63 ∧ v.testBit 61 = (w.testBit 61 || decide (2 * T ≤ a)) ∧ bits v 30 0 = (a - T) % T

/-! ### Canonical forms -/

/-- What holds of s before a step holds of t after it: memory is in its canonical form, and the keys of tables rise;
a refresh state is one of Table 22.1. -/
structure Keeps (s t : State) : Prop where
  mem : Memory.wf s.mem = true → Memory.wf t.mem = true
  poison : Map.sorted s.poison = true → Map.sorted t.poison = true
  keys : Map.sorted s.keys = true → Map.sorted t.keys = true
  strands : Map.sorted s.strands = true → Map.sorted t.strands = true
  flights : Map.sorted s.flights = true → Map.sorted t.flights = true
  parts : Map.sorted s.parts = true → Map.sorted t.parts = true
  agents : Map.sorted s.agents = true → Map.sorted t.agents = true
  xfers : Map.sorted s.xfers = true → Map.sorted t.xfers = true
  colls : Map.sorted s.colls = true → Map.sorted t.colls = true
  cells : (∀ c ∈ s.cores, Map.sorted c.2.cells = true) → ∀ c ∈ t.cores, Map.sorted c.2.cells = true
  lines : (∀ c ∈ s.clusters, Map.sorted c.2.lines = true) → ∀ c ∈ t.clusters, Map.sorted c.2.lines = true
  refresh : (∀ c ∈ s.clusters, c.2.ref ≤ 2) → ∀ c ∈ t.clusters, c.2.ref ≤ 2

end Sys2Proof.Machine
end

