-- ==== Sys2Proof/Certificates/Slice0/Obligations.lean ====
section
/-!
DEFINITION. The statements for the provers. Each docstring names the rules of spec/ that the statement formalises.
-/

open Sys2Proof Sys2Proof.Machine

/-! ## Integer instructions -/

/-- R168: sums, differences, products and both high halves of a product. -/
def Obligations.IntegerSumsAndProducts : Prop :=
  ∀ (s : State) (d a b : SReg),
    Gives (.add d a b) s (SetsS d (s.rS a + s.rS b) 8 s)
      ∧ Gives (.sub d a b) s (SetsS d (s.rS a - s.rS b) 8 s)
      ∧ Gives (.mul d a b) s (SetsS d (s.rS a * s.rS b) 8 s)
      ∧ (∃ v : Word, v.toInt = (s.rS a).toInt * (s.rS b).toInt / 2 ^ 64 ∧ Gives (.mulh d a b) s (SetsS d v 8 s))
      ∧ (∃ v : Word, v.toNat = (s.rS a).toNat * (s.rS b).toNat / 2 ^ 64 ∧ Gives (.mulhn d a b) s (SetsS d v 8 s))

/-- R168, R169: quotients and remainders, signed and unsigned, with both exceptional cases. -/
def Obligations.IntegerDivision : Prop :=
  ∀ (s : State) (d a b : SReg),
    let x := s.rS a
    let y := s.rS b
    (∃ q r : Word, Gives (.div d a b) s (SetsS d q 8 s) ∧ Gives (.rem d a b) s (SetsS d r 8 s)
        ∧ (y = 0 → q = BitVec.allOnes 64 ∧ r = x)
        ∧ (x = BitVec.intMin 64 ∧ y = BitVec.allOnes 64 → q = BitVec.intMin 64 ∧ r = 0)
        ∧ (y ≠ 0 ∧ ¬(x = BitVec.intMin 64 ∧ y = BitVec.allOnes 64) → q.toInt = x.toInt.tdiv y.toInt ∧ r = x - y * q))
      ∧ (∃ q r : Word, Gives (.divn d a b) s (SetsS d q 8 s) ∧ Gives (.remn d a b) s (SetsS d r 8 s)
        ∧ (y = 0 → q = BitVec.allOnes 64 ∧ r = x)
        ∧ (y ≠ 0 → q.toNat = x.toNat / y.toNat ∧ r = x - y * q))

/-- R168: the bitwise forms, and the shifts, whose count is s_b[5:0].
R168, R170: smaller and larger, comparisons, selection, and address arithmetic. -/
def Obligations.LogicShiftsComparisons : Prop :=
  (∀ (s : State) (d a b : SReg),
    let x := s.rS a
    let y := s.rS b
    let n := y.toNat % 64
    Gives (.and d a b) s (SetsS d (x &&& y) 8 s)
      ∧ Gives (.or d a b) s (SetsS d (x ||| y) 8 s)
      ∧ Gives (.xor d a b) s (SetsS d (x ^^^ y) 8 s)
      ∧ Gives (.andn d a b) s (SetsS d (x &&& ~~~y) 8 s)
      ∧ Gives (.orn d a b) s (SetsS d (x ||| ~~~y) 8 s)
      ∧ (∃ v : Word, Gives (.shl d a b) s (SetsS d v 8 s) ∧ v.toNat = x.toNat * 2 ^ n % 2 ^ 64)
      ∧ (∃ v : Word, Gives (.shr d a b) s (SetsS d v 8 s) ∧ v.toNat = x.toNat / 2 ^ n)
      ∧ (∃ v : Word, Gives (.sra d a b) s (SetsS d v 8 s) ∧ v.toInt = x.toInt / 2 ^ n)
      ∧ (∃ v : Word, Gives (.rol d a b) s (SetsS d v 8 s) ∧ ∀ i < 64, v.getLsbD ((i + n) % 64) = x.getLsbD i))
  ∧ (∀ (s : State) (d a b : SReg) (sh : Fin 16) (disp : BitVec 18),
    let x := s.rS a
    let y := s.rS b
    let bit (p : Prop) [Decidable p] : Word := if p then 1 else 0
    Gives (.min d a b) s (SetsS d (if x.toInt < y.toInt then x else y) 8 s)
      ∧ Gives (.max d a b) s (SetsS d (if x.toInt < y.toInt then y else x) 8 s)
      ∧ Gives (.minn d a b) s (SetsS d (if x.toNat < y.toNat then x else y) 8 s)
      ∧ Gives (.maxn d a b) s (SetsS d (if x.toNat < y.toNat then y else x) 8 s)
      ∧ Gives (.seq d a b) s (SetsS d (bit (x = y)) 8 s)
      ∧ Gives (.sne d a b) s (SetsS d (bit (x ≠ y)) 8 s)
      ∧ Gives (.slt d a b) s (SetsS d (bit (x.toInt < y.toInt)) 8 s)
      ∧ Gives (.sltn d a b) s (SetsS d (bit (x.toNat < y.toNat)) 8 s)
      ∧ Gives (.sge d a b) s (SetsS d (bit (x.toInt ≥ y.toInt)) 8 s)
      ∧ Gives (.sgen d a b) s (SetsS d (bit (x.toNat ≥ y.toNat)) 8 s)
      ∧ Gives (.csel d a b) s (SetsS d (if y ≠ 0 then x else s.rS d) 8 s)
      ∧ Gives (.lea d a b sh disp) s (SetsS d (x + y <<< sh.val + disp.signExtend 64) 8 s)
      ∧ ∀ next, decode (0x01E * 2 ^ 52 + d.val * 2 ^ 45 + a.val * 2 ^ 38 + b.val * 2 ^ 31 + disp.toNat * 2 ^ 4 + sh.val) next = .ok (.one (.lea d a b sh disp) 8))

/-- R171: leading and trailing zeros, set bits, bit reversal.
R171: BFX and BFI on the field of lenM1 + 1 bits at pos, for the fields that end inside the register (the others are not
instructions). -/
def Obligations.BitCountsAndFields : Prop :=
  (∀ (s : State) (d a : SReg),
    let x := s.rS a
    (∃ n ≤ 64, Gives (.clz d a) s (SetsS d (BitVec.ofNat 64 n) 8 s)
        ∧ (∀ i < n, x.getLsbD (63 - i) = false) ∧ (n < 64 → x.getLsbD (63 - n) = true))
      ∧ (∃ n ≤ 64, Gives (.ctz d a) s (SetsS d (BitVec.ofNat 64 n) 8 s)
        ∧ (∀ i < n, x.getLsbD i = false) ∧ (n < 64 → x.getLsbD n = true))
      ∧ Gives (.popc d a) s (SetsS d (BitVec.ofNat 64 ((List.range 64).filter (fun i => x.getLsbD i)).length) 8 s)
      ∧ (∃ v : Word, Gives (.brev d a) s (SetsS d v 8 s) ∧ ∀ i < 64, v.getLsbD (63 - i) = x.getLsbD i))
  ∧ ((∀ (s : State) (d a : SReg) (pos lenM1 : Fin 64), pos.val + (lenM1.val + 1) ≤ 64 →
    let x := s.rS a
    let len := lenM1.val + 1
    (∃ v : Word, Gives (.bfx d a false pos lenM1) s (SetsS d v 8 s)
        ∧ ∀ i < 64, v.getLsbD i = if i < len then x.getLsbD (pos.val + i) else false)
      ∧ (∃ v : Word, Gives (.bfx d a true pos lenM1) s (SetsS d v 8 s)
        ∧ ∀ i < 64, v.getLsbD i = if i < len then x.getLsbD (pos.val + i) else x.getLsbD (pos.val + len - 1))
      ∧ (∃ v : Word, Gives (.bfi d a pos lenM1) s (SetsS d v 8 s)
        ∧ ∀ i < 64, v.getLsbD i = if pos.val ≤ i ∧ i < pos.val + len then x.getLsbD (i - pos.val) else (s.rS d).getLsbD i))
  ∧ (∀ (s : State) (w : Nat), bits w 63 62 = 0 → bits w 61 52 = 0x024 ∨ bits w 61 52 = 0x025 → 64 < bits w 11 6 + (bits w 5 0 + 1) →
    s.cur.limit = none →
    s.runAt w = .next (({ s with cur := { s.cur with word := BitVec.ofNat 64 w, half := false } } : State).takeTrap cILLEGAL s.me.pc 0
      (BitVec.ofNat 64 w) false))
  ∧ (∀ (d a : SReg) (pos lenM1 : Fin 64) (next : Nat),
    let word (op fn : Nat) : Nat := op * 2 ^ 52 + d.val * 2 ^ 45 + a.val * 2 ^ 38 + fn
    let reads (op fn : Nat) (i : Instr) : Prop := decode (word op fn) next = .ok (.one i 8)
    let field := pos.val * 2 ^ 6 + lenM1.val
    reads 0x020 0 (.clz d a) ∧ reads 0x021 0 (.ctz d a) ∧ reads 0x022 0 (.popc d a) ∧ reads 0x023 0 (.brev d a)
      ∧ (pos.val + (lenM1.val + 1) ≤ 64 → reads 0x024 field (.bfx d a false pos lenM1) ∧ reads 0x024 (2 ^ 12 + field) (.bfx d a true pos lenM1)
        ∧ reads 0x025 field (.bfi d a pos lenM1))))

/-- R172: the immediate forms; LIX, an extended pair, takes 16 bytes (R156). -/
def Obligations.IntegerImmediates : Prop :=
  ∀ (s : State) (d a : SReg) (imm : BitVec 29) (w : Word),
    let x := s.rS a
    Gives (.addi d a imm) s (SetsS d (x + imm.signExtend 64) 8 s)
      ∧ (imm.toNat < 64 →
        Gives (.shlImm d a imm) s (SetsS d (x <<< imm.toNat) 8 s)
          ∧ Gives (.shrImm d a imm) s (SetsS d (x >>> imm.toNat) 8 s)
          ∧ Gives (.sraImm d a imm) s (SetsS d (x.sshiftRight imm.toNat) 8 s)
          ∧ Gives (.rolImm d a imm) s (SetsS d (x.rotateLeft imm.toNat) 8 s))
      ∧ Gives (.li d imm) s (SetsS d (imm.signExtend 64) 8 s)
      ∧ Gives (.addpc d imm) s (SetsS d (s.me.pc + imm.signExtend 64) 8 s)
      ∧ Gives (.lix d w) s (SetsS d w 16 s)

/-! ## Scalar floating point -/

/-- R173, R174: the arithmetic forms round the exact value once; the flags are those of the value, of the rounding and of signalling
NaN operands. SR without its feature is ILLEGAL (R335). -/
def Obligations.ScalarFloatArithmetic : Prop :=
  ∀ (s : State) (d a b : SReg) (rnd fmt : Fin 8),
    let f := fpOf s fmt.val
    let mode := s.rmode rnd.val
    let rdn := decide (mode = .rdn)
    let x := fpRead s f a
    let y := fpRead s f b
    let z := fpRead s f d
    let round (e : XV × Nat) (nan : Nat) : State → Prop :=
      let r := roundFp s.me.ftz f mode (srDraw s.me.seed s.me.sbase 0) e.1
      SetsFp d (BitVec.ofNat 64 r.1) (r.2 ||| e.2 ||| nan) 8 s
    if s.rndAllowed rnd.val then
      Gives (.fadd d a b rnd fmt) s (round (addX rdn x y) (sigFlag x ||| sigFlag y))
        ∧ Gives (.fsub d a b rnd fmt) s (round (addX rdn x y.negate) (sigFlag x ||| sigFlag y))
        ∧ Gives (.fmul d a b rnd fmt) s (round (mulX x y) (sigFlag x ||| sigFlag y))
        ∧ Gives (.fdiv d a b rnd fmt) s (round (divX x y) (sigFlag x ||| sigFlag y))
        ∧ Gives (.ffma d a b rnd fmt) s (round (fmaX rdn z x y) (sigFlag z ||| sigFlag x ||| sigFlag y))
        ∧ Gives (.fsqrt d a rnd fmt) s (round (sqrtX x) (sigFlag x))
    else
      Traps (.fadd d a b rnd fmt) cILLEGAL 0 s.cur.word s
        ∧ Traps (.fsub d a b rnd fmt) cILLEGAL 0 s.cur.word s
        ∧ Traps (.fmul d a b rnd fmt) cILLEGAL 0 s.cur.word s
        ∧ Traps (.fdiv d a b rnd fmt) cILLEGAL 0 s.cur.word s
        ∧ Traps (.ffma d a b rnd fmt) cILLEGAL 0 s.cur.word s
        ∧ Traps (.fsqrt d a rnd fmt) cILLEGAL 0 s.cur.word s

/-- R175: FCMP writes 1 or 0, NaN operands and zeros as its list says; FCLASS writes exactly one bit; FMV copies w bits and raises no
flag.
R74, R176: FMIN and FMAX ignore a single NaN, order −0 below +0 and give the canonical NaN for two; FCVT rounds the value of the
source code into the target code. -/
def Obligations.ScalarFloatTestsAndConversions : Prop :=
  (∀ (s : State) (d a b : SReg) (fmt : Fin 8),
    let f := fpOf s fmt.val
    let x := fpRead s f a
    let y := fpRead s f b
    let nan := x.isNan || y.isNan
    let sig := sigFlag x ||| sigFlag y
    let any := if nan then flagNV else 0
    let cmp (c : Fin 8) (r : Bool) (fl : Nat) := Gives (.fcmp d a b c fmt) s (SetsFp d (if r then 1 else 0) fl 8 s)
    cmp 0 (!nan && eqX x y) sig
      ∧ cmp 1 (!nan && ltX x y) (sig ||| any)
      ∧ cmp 2 (!nan && (ltX x y || eqX x y)) (sig ||| any)
      ∧ cmp 3 nan sig
      ∧ cmp 4 (nan || !eqX x y) sig
      ∧ (∃ n ≤ 9, Gives (.fclass d a fmt) s (SetsS d (BitVec.ofNat 64 (2 ^ n)) 8 s)
        ∧ (let c := (s.rS a).toNat % 2 ^ f.width
          let neg := c.testBit (f.width - 1)
          let e := c / 2 ^ f.magBits.2 % 2 ^ f.magBits.1
          let m := c % 2 ^ f.magBits.2
          let top := 2 ^ f.magBits.1 - 1
          (e = top → m = 0 → n = if neg then 0 else 7) ∧ (0 < e → e < top → n = if neg then 1 else 6)
            ∧ (e = 0 → m ≠ 0 → n = if neg then 2 else 5) ∧ (e = 0 → m = 0 → n = if neg then 3 else 4))
        ∧ (n = 8 ↔ f.decode ((s.rS a).toNat % 2 ^ f.width) = .nan true)
        ∧ (n = 9 ↔ f.decode ((s.rS a).toNat % 2 ^ f.width) = .nan false))
      ∧ Gives (.fmv d a fmt) s (SetsS d (BitVec.ofNat 64 ((s.rS a).toNat % 2 ^ f.width)) 8 s))
  ∧ ((∀ (s : State) (d a b : SReg) (fmt : Fin 8),
    let f := fpOf s fmt.val
    let x := fpRead s f a
    let y := fpRead s f b
    let out (v : XV) : State → Prop :=
      let r := roundFp s.me.ftz f .rne 0 v
      SetsFp d (BitVec.ofNat 64 r.1) (r.2 ||| sigFlag x ||| sigFlag y) 8 s
    ∃ lo hi : XV, Gives (.fmin d a b fmt) s (out lo) ∧ Gives (.fmax d a b fmt) s (out hi)
      ∧ (x.isNan = true ∧ y.isNan = true → lo = .nan false ∧ hi = .nan false)
      ∧ (x.isNan = true ∧ y.isNan = false → lo = y ∧ hi = y)
      ∧ (x.isNan = false ∧ y.isNan = true → lo = x ∧ hi = x)
      ∧ (x.isNan = false ∧ y.isNan = false ∧ ltX x y = true → lo = x ∧ hi = y)
      ∧ (x.isNan = false ∧ y.isNan = false ∧ ltX y x = true → lo = y ∧ hi = x)
      ∧ (eqX x y = true ∧ x.isZero = false → lo = x ∧ hi = x)
      ∧ (x.isZero = true ∧ y.isZero = true ∧ x.neg = y.neg → (lo = x ∨ lo = y) ∧ (hi = x ∨ hi = y))
      ∧ (x.isZero = true ∧ y.isZero = true ∧ x.neg = true ∧ y.neg = false → lo = x ∧ hi = y)
      ∧ (x.isZero = true ∧ y.isZero = true ∧ x.neg = false ∧ y.neg = true → lo = y ∧ hi = x))
  ∧ (∀ (s : State) (d a : SReg) (rnd : Fin 8) (src tgt : Fin 64) (f g : Fmt),
    fmtOf s.myPart.fmt src.val = some f → fmtOf s.myPart.fmt tgt.val = some g →
    let x := readVal s.me.daz f ((s.rS a).toNat % 2 ^ f.patWidth)
    let r := roundFp s.me.ftz g (s.rmode rnd.val) (srDraw s.me.seed s.me.sbase 0) x
    if s.rndAllowed rnd.val then
      Gives (.fcvt d a rnd src tgt) s (SetsFp d (placePattern g r.1) (r.2 ||| sigFlag x) 8 s)
    else Traps (.fcvt d a rnd src tgt) cILLEGAL 0 s.cur.word s))

/-! ## Control -/

/-- R177, R178: jumps, calls, branches taken and not taken, and NOP. A link is written after the operands are read.
R178: after YIELD the strand waits until 16 arithmetic cycles have passed, of 20/19 network cycles each (R14), or every sibling that
was ready has issued; YIELD_RESUME then lets it issue. Nothing else changes. -/
def Obligations.ControlTransfersAndYield : Prop :=
  (∀ (s : State) (d a : SReg) (off : BitVec 29),
    let near := s.me.pc + 8 * off.signExtend 64
    let far := s.rS a &&& ~~~7
    let link (w : Word) (t : State) : Prop := GoesTo w (s.wS d (s.me.pc + 8)) t
    let past (t : State) : Prop := GoesTo (s.me.pc + 8) s t
    let br (i : Instr) (c : Prop) : Prop := (c → TargetOk s near → Gives i s (GoesTo near s)) ∧ (¬c → Gives i s past)
    (TargetOk s near → Gives (.j off) s (GoesTo near s) ∧ Gives (.call d off) s (link near))
      ∧ br (.beq d a off) (s.rS d = s.rS a)
      ∧ br (.bne d a off) (s.rS d ≠ s.rS a)
      ∧ br (.blt d a off) ((s.rS d).toInt < (s.rS a).toInt)
      ∧ br (.bge d a off) ((s.rS d).toInt ≥ (s.rS a).toInt)
      ∧ br (.bltn d a off) ((s.rS d).toNat < (s.rS a).toNat)
      ∧ br (.bgen d a off) ((s.rS d).toNat ≥ (s.rS a).toNat)
      ∧ (TargetOk s far → Gives (.jr a) s (GoesTo far s) ∧ Gives (.ret a) s (GoesTo far s) ∧ Gives (.callr d a) s (link far))
      ∧ Gives .nop s past)
  ∧ (∀ (s : State),
    (∃ others : List Nat, Gives .yield s (fun t =>
        t = s.setMe { s.me with pc := s.me.pc + 8, vsx := 0, run := .waiting (.yield (19 * s.now + 320) others) } ∧ SameBytes s t)
      ∧ ∀ k, k ∈ others ↔
        (s.myPart.k0 s.cur.core ≤ k ∧ k < s.myPart.k0 s.cur.core + s.g ∧ k ≠ s.cur.strand ∧ (s.strand s.cur.core k).run = .ready))
      ∧ ∀ (core k due : Nat) (others : List Nat), (s.strand core k).run = .waiting (.yield due others) →
        Gives (.yieldResume core k) s (fun t =>
          t = (if due ≤ 19 * s.now ∨ others = [] then s.setStrand core k { s.strand core k with run := .ready, readyAt := s.now } else s)
            ∧ SameBytes s t))

/-- R149, R157, R177: a target with a bit in [63:55] raises PAGE at the branch, a continuation word BTARGET; either way the branch
has no other effect. -/
def Obligations.BadTargetsTrap : Prop :=
  ∀ (s : State) (d a : SReg) (off : BitVec 29) (w : Word) (cause : Nat) (info : Word),
    (2 ^ 55 ≤ w.toNat ∧ cause = cPAGE ∧ info = memInfo 0 .fetch)
      ∨ (w.toNat < 2 ^ 55 ∧ (∃ c u, s.fetchWord w = .ok (c, u) ∧ bits c 63 62 = 3) ∧ cause = cBTARGET ∧ info = s.cur.word) →
    (w = s.me.pc + 8 * off.signExtend 64 →
      Traps (.j off) cause w info s ∧ Traps (.call d off) cause w info s
        ∧ (s.rS d = s.rS a → Traps (.beq d a off) cause w info s)
        ∧ (s.rS d ≠ s.rS a → Traps (.bne d a off) cause w info s)
        ∧ ((s.rS d).toInt < (s.rS a).toInt → Traps (.blt d a off) cause w info s)
        ∧ ((s.rS d).toInt ≥ (s.rS a).toInt → Traps (.bge d a off) cause w info s)
        ∧ ((s.rS d).toNat < (s.rS a).toNat → Traps (.bltn d a off) cause w info s)
        ∧ ((s.rS d).toNat ≥ (s.rS a).toNat → Traps (.bgen d a off) cause w info s))
      ∧ (w = s.rS a &&& ~~~7 →
        Traps (.jr a) cause w info s ∧ Traps (.ret a) cause w info s ∧ Traps (.callr d a) cause w info s)

/-! ## Memory -/

/-- R180, R181, R182: LD and LDA place the bytes they read, zero- or sign-extended, and change nothing else but what AccessFrame
allows; LDA drains the store buffer first (the model's choice, log 63) and synchronises. An address that is not aligned raises ALIGN.
R98, R180, R181: a plain load of lane memory that finds the address in its partition, no uncorrectable byte and no race reads
the bytes there, lowest address first, when no buffered store of the strand covers them. -/
def Obligations.LoadsComplete : Prop :=
  (∀ (s : State) (m : MemOp),
    let ea := s.rS m.a + s.rS m.b + m.disp.signExtend 64
    let n := 2 ^ m.w.val
    let sp := m.sp.val
    let len := slackBytes m.slk
    let placed (bs : List Byte) (v : Word) : Prop :=
      v.toNat % 2 ^ (8 * n) = leNat bs ∧ (m.x = false → v.toNat < 2 ^ (8 * n))
        ∧ (m.x = true → v.toInt = (BitVec.ofNat (8 * n) (leNat bs)).toInt)
    if ea.toNat % n ≠ 0 then
      Traps (.ld m) cALIGN (effLocal s.cur.core sp m.loc ea) (memInfo sp .read) s
        ∧ Traps (.lda m) cALIGN (effLocal s.cur.core sp m.loc ea) (memInfo sp .read) s
    else
      (∀ bs u, s.load true m.slk sp m.loc ea n = .ok (bs, u) →
          bs.length = n ∧ AccessFrame s u ∧ ∃ v, placed bs v ∧ Gives (.ld m) s (SetsS m.d v len u))
        ∧ (∀ bs u, s.drain.load false m.slk sp m.loc ea n = .ok (bs, u) →
          bs.length = n ∧ AccessFrame s.drain u ∧ OnlyStores s.me.stores s s.drain
            ∧ ∃ v, placed bs v ∧ Gives (.lda m) s (fun t => SetsS m.d v len (u.sync m.scope.val) t ∧ Synced m.scope.val u t)))
  ∧ (∀ (s : State) (slk : Slack) (loc : Bool) (ea : Word) (n da : Nat),
    lmPlace s.myPart s.cur.core loc ea n = some da →
    s.poisoned da n = none →
    conflictOf s s.me.uid [⟨⟨da, none, true, false, 0⟩, n⟩] false = none →
    s.me.stores = [] → (∀ i < n, s.keyAt (da + i) = none) →
    ∃ bs u, s.load true slk 1 loc ea n = .ok (bs, u) ∧ bs.length = n ∧ AccessFrame s u
      ∧ ∀ i < n, bs[i]? = some (Memory.read s.mem (da + i)))

/-- R116, R181: after a store of n bytes to lane memory, a load of the same bytes by the same strand gives the value stored, though
the store is still in the store buffer and memory is as it was. -/
def Obligations.StoreThenLoadGivesTheValue : Prop :=
  ∀ (s : State) (m : MemOp) (d : SReg) (da : Nat),
    let ea := s.rS m.a + s.rS m.b + m.disp.signExtend 64
    let n := 2 ^ m.w.val
    m.sp.val = 1 → ea.toNat % n = 0 → lmPlace s.myPart s.cur.core m.loc ea n = some da →
    conflictOf s s.me.uid [⟨⟨da, none, true, false, 0⟩, n⟩] true = none →
    Gives (.st m) s (fun t => SameBytes s t
      ∧ Gives (.ld { m with d := d, x := false }) t (fun u =>
        SameBytes s u ∧ u.rS d = if d.val = 0 then 0 else BitVec.ofNat 64 ((s.rS m.d).toNat % 2 ^ (8 * n))))

/-- R18, R129, R180, R181, R371: ST commits its bytes, lowest address first, into the store buffer, where no byte of memory changes
yet; in a DET launch it adds its digest term unless it goes to the stack area. STORE_PERFORM then writes exactly those bytes, or
joins its nibble to what the byte holds (R80).
R182, R371: STL drains the store buffer, then writes its bytes at once (the model's choice, log 73), and synchronises at its scope. -/
def Obligations.StoresCompleteAndPerform : Prop :=
  ((∀ (s : State) (m : MemOp),
    let ea := s.rS m.a + s.rS m.b + m.disp.signExtend 64
    let n := 2 ^ m.w.val
    let sp := m.sp.val
    let v := (s.rS m.d).toNat % 2 ^ (8 * n)
    let folds : Bool := s.inDet && !s.inStack sp m.loc ea
    if ea.toNat % n ≠ 0 then Traps (.st m) cALIGN (effLocal s.cur.core sp m.loc ea) (memInfo sp .write) s
    else ∀ ps u, permit s s.who s.me.uid true sp m.loc ea n .write = .ok (ps, u) →
      (∃ p, ps = [p] ∧ p.n = n ∧ storesOf ps (leBytes n v) = [⟨cellsAt p.loc.da (leBytes n v), .whole, p.loc.mat⟩])
        ∧ Gives (.st m) s (fun t => SameBytes s t ∧ MemFrame s t
          ∧ t.me = { s.me with
            pc := s.me.pc + BitVec.ofNat 64 (slackBytes m.slk)
            vsx := 0
            stores := s.me.stores ++ storesOf ps (leBytes n v)
            digest := if folds then s.me.digest + digestTerm (digestAddr sp ea) (BitVec.ofNat 64 v) n else s.me.digest
            nstores := if folds then s.me.nstores + 1 else s.me.nstores }))
  ∧ (∀ (s : State) (core k i : Nat) (p : PStore), Memory.wf s.mem = true →
    (s.strand core k).stores[i]? = some p → (∀ q ∈ (s.strand core k).stores.take i, q.overlaps p = false) →
    Gives (.storePerform core k i) s (fun t => OnlyStores [p] s t
      ∧ (∀ a bs, p.part = .whole → p.bytes = cellsAt a bs → StoresAt p.key a bs s t)
      ∧ (∀ a b, p.bytes = [(a, b)] → s.keyAt a = p.key →
        let old := (Memory.read s.mem a).toNat
        (p.part = .low → StoresAt p.key a [BitVec.ofNat 8 (old / 16 * 16 + b.toNat % 16)] s t)
          ∧ (p.part = .high → StoresAt p.key a [BitVec.ofNat 8 (b.toNat / 16 * 16 + old % 16)] s t))
      ∧ (t.strand core k).stores = (s.strand core k).stores.eraseIdx i
      ∧ ∀ key, key ≠ skey core k → Map.get? t.strands key = Map.get? s.strands key)))
  ∧ (∀ (s : State) (m : MemOp), Memory.wf s.mem = true →
    let ea := s.rS m.a + s.rS m.b + m.disp.signExtend 64
    let n := 2 ^ m.w.val
    let sp := m.sp.val
    let v := (s.rS m.d).toNat % 2 ^ (8 * n)
    let folds : Bool := s.inDet && !s.inStack sp m.loc ea
    if ea.toNat % n ≠ 0 then Traps (.stl m) cALIGN (effLocal s.cur.core sp m.loc ea) (memInfo sp .write) s
    else ∀ ps u, permit s.drain s.who s.me.uid false sp m.loc ea n .write = .ok (ps, u) →
      ∃ p, ps = [p] ∧ Gives (.stl m) s (fun t => OnlyStores s.me.stores s s.drain ∧ StoresAt p.loc.mat p.loc.da (leBytes n v) s.drain t
        ∧ MemFrame s t ∧ Synced m.scope.val u t
        ∧ t.me = { s.me with
          pc := s.me.pc + BitVec.ofNat 64 (slackBytes m.slk)
          vsx := 0
          stores := []
          digest := if folds then s.me.digest + digestTerm (digestAddr sp ea) (BitVec.ofNat 64 v) n else s.me.digest
          nstores := if folds then s.me.nstores + 1 else s.me.nstores }))

/-- R183, R184, R371, Table 7.7: one atomic read-modify-write of n bytes at one place. AMOX and CAS place the old value; a CAS whose
comparison fails writes nothing; .fadd merges its flags; with ORD ≠ 0 the atomic synchronises, even a CAS that fails. Misaligned:
ALIGN. In a DET launch AMOX, CAS and AMO.fadd raise DETATOM, and AMO adds its digest term. .fadd rounds the sum to nearest even, whatever FTZ and
DAZ say. A relaxed atomic drains the store buffer as the others do: the model's choice, log 63. -/
def Obligations.AtomicsComplete : Prop :=
  ∀ (s : State) (o : AtomOp), Memory.wf s.mem = true → 2 ≤ o.w.val →
    let ea := s.rS o.a + o.disp.signExtend 64
    let n := 2 ^ o.w.val
    let w := 8 * n
    let sp := o.sp.val
    let op := (s.rS o.b).toNat % 2 ^ w
    let all (c : Nat) (addr info : Word) : Prop :=
      Traps (.amo o) c addr info s ∧ Traps (.amox o) c addr info s ∧ Traps (.cas o) c addr info s
    let fadd := o.aop.val = 8 ∧ s.inDet = true
    (s.inDet = true → Traps (.amox o) cDETATOM 0 s.cur.word s ∧ Traps (.cas o) cDETATOM 0 s.cur.word s)
    ∧ (fadd → Traps (.amo o) cDETATOM 0 s.cur.word s)
    ∧ (s.inDet = false → ea.toNat % n ≠ 0 → all cALIGN (effLocal s.cur.core sp o.loc ea) (memInfo sp .atomic))
    ∧ (ea.toNat % n = 0 → ∀ ps u,
      permit s.drain s.who s.me.uid false sp o.loc ea n .atomic = .ok (ps, u) →
      (∀ p ∈ ps, isEndpoint p.loc.da = true → Config.endpointAtomics (p.loc.da / 2 ^ 48 % 256) = true) →
      ∃ p, ps = [p] ∧ OnlyStores s.me.stores s s.drain ∧
        let old := leNat (readPieces u ps).1
        let x := BitVec.ofNat w old
        let y := BitVec.ofNat w op
        let done (write : Option (BitVec w)) (d : Option SReg) (fl : Nat) (digest : Word) (terms : Nat) (t : State) : Prop :=
          (match write with
            | some v => StoresAt p.loc.mat p.loc.da (leBytes n v.toNat) s.drain t
            | none => SameBytes s.drain t)
            ∧ MemFrame s t ∧ Commits (slackBytes o.slk) s t
            ∧ (match d with
              | some d => t.rS d = (if d.val = 0 then 0 else BitVec.ofNat 64 old) ∧ ∀ r, r ≠ d → t.rS r = s.rS r
              | none => ∀ r, t.rS r = s.rS r)
            ∧ t.me = { s.me with
              s := t.me.s
              pc := t.me.pc
              vsx := 0
              stores := []
              fpflags := s.me.fpflags ||| fl
              digest := digest
              nstores := s.me.nstores + terms }
            ∧ if o.ord.val = 0 then t.agents = s.agents else Synced o.scope.val u t
        (∃ (new : BitVec w) (fl : Nat), (s.inDet = false → Gives (.amox o) s (done (some new) (some o.d) fl s.me.digest 0))
          ∧ (s.inDet = false → Gives (.amo o) s (done (some new) none fl s.me.digest 0))
          ∧ (s.inDet = true → o.aop.val ≠ 8 → Gives (.amo o) s (done (some new) none fl
            (s.me.digest + digestTerm (digestAddr sp ea) (BitVec.ofNat 64 op) (0x80 + 16 * o.aop.val + n)) 1))
          ∧ (o.aop.val = 0 → new = x + y) ∧ (o.aop.val = 1 → new = x &&& y) ∧ (o.aop.val = 2 → new = x ||| y)
          ∧ (o.aop.val = 3 → new = x ^^^ y)
          ∧ (o.aop.val = 4 → new = if x.toInt ≤ y.toInt then x else y)
          ∧ (o.aop.val = 5 → new = if x.toInt ≤ y.toInt then y else x)
          ∧ (o.aop.val = 6 → new = if x.toNat ≤ y.toNat then x else y)
          ∧ (o.aop.val = 7 → new = if x.toNat ≤ y.toNat then y else x)
          ∧ (o.aop.val = 8 →
            let f : Fmt := if w = 32 then .flt 8 23 else .flt 11 52
            let e := addX false (f.value old) (f.value op)
            let r := roundFp false f .rne 0 e.1
            new = BitVec.ofNat w r.1 ∧ fl = r.2 ||| e.2 ||| sigFlag (f.value old) ||| sigFlag (f.value op))
          ∧ (o.aop.val = 9 → new = y) ∧ (o.aop.val ≠ 8 → fl = 0))
        ∧ (s.inDet = false →
          Gives (.cas o) s (done (if old = (s.rS o.d).toNat % 2 ^ w then some y else none) (some o.d) 0 s.me.digest 0)))

/-! ## Synchronisation, marks, slack -/

/-- R114, R117, R186, R187: FENCE performs the strand's earlier stores and synchronises at its scope. BAR does so too, counts one arrival, sends a message
of its slack class and waits, and counts none when it is executed again; a BAR that was left for a trap handler and released meanwhile lets the strand pass.
When every participant has arrived, BAR_RELEASE lets all that wait past the instruction, and each of them acquires what the others have released to it; before, it does nothing. The model's choices: every
kind of FENCE drains and synchronises both ways (log 63), a strand without a task passes (log 64), and a barrier's messages go to the first core of its unit (logs 32, 64). -/
def Obligations.FencesAndBarriers : Prop :=
  (∀ (s : State) (kind scope : Fin 8), Gives (.fence kind scope) s (fun t =>
    Commits 8 s t ∧ MemFrame s t ∧ OnlyStores s.me.stores s t ∧ Synced scope.val s t
      ∧ t.me = { s.me with pc := t.me.pc, vsx := 0, stores := [] }))
  ∧ (∀ (s : State) (scope sl : Fin 8), s.me.task = none → Gives (.bar scope sl) s (fun t =>
    Commits 8 s t ∧ MemFrame s t ∧ OnlyStores s.me.stores s t ∧ Synced scope.val s t
      ∧ t.me = { s.me with pc := t.me.pc, vsx := 0, stores := [] }))
  ∧ (∀ (s : State) (scope sl : Fin 8) (k : Task) (l : Launch), s.me.task = some k → s.launchOf k.vfn k.seq = some l →
    let done := Map.getD l.barReleased (barKey k.grp scope.val (barUnit scope.val s.cur.core)) 0
    let arrived := s.me.barIn.testBit scope.val
    let synced (t : State) : Prop := MemFrame s t ∧ OnlyStores s.me.stores s t ∧ Synced scope.val s t
    (arrived = false → Gives (.bar scope sl) s (fun t => synced t
      ∧ t.me.barCount scope.val = s.me.barCount scope.val + 1 ∧ t.me.run = .waiting (.barrier scope.val)
      ∧ t.me = { s.me with
        stores := [], run := t.me.run, barIn := s.me.barIn ||| 2 ^ scope.val, barCore := t.me.barCore, barCluster := t.me.barCluster }
      ∧ t.arbs = (s.inject (.cls sl) (barHome scope.val s.cur.core, 5) .msg 0).arbs))
    ∧ (arrived = true → s.me.barCount scope.val ≤ done → Gives (.bar scope sl) s (fun t => synced t ∧ Commits 8 s t
      ∧ t.me.barIn = putBits s.me.barIn scope.val scope.val 0
      ∧ t.me = { s.me with stores := [], pc := t.me.pc, vsx := 0, barIn := t.me.barIn }))
    ∧ (arrived = true → done < s.me.barCount scope.val →
      Gives (.bar scope sl) s (fun t => t = s.setMe { s.me with run := .waiting (.barrier scope.val) })))
  ∧ (∀ (s : State) (vfn seq grp scope unit : Nat) (l : Launch), s.launchOf vfn seq = some l →
    let key := barKey grp scope unit
    let n := Map.getD l.barReleased key 0 + 1
    let ps := s.participants vfn seq grp scope unit
    let waits (p : Nat) : Prop := p ∈ ps ∧ (s.strand (p / 8) (p % 8)).run = .waiting (.barrier scope)
    (ps ≠ [] → ps.Nodup → (∀ p ∈ ps, s.arrivedAt scope n p = true) →
      Gives (.barRelease vfn seq grp scope unit) s (fun t => SameBytes s t
        ∧ (∀ p, waits p → t.strand (p / 8) (p % 8) = { (s.strand (p / 8) (p % 8)).leaveBar scope with
          pc := (s.strand (p / 8) (p % 8)).pc + 8, vsx := 0, run := .ready, readyAt := s.now })
        ∧ (∀ p, ¬waits p → t.strand (p / 8) (p % 8) = s.strand (p / 8) (p % 8))
        ∧ t.launchOf vfn seq = some { l with barReleased := Map.set l.barReleased key n }
        -- what participant q has released toward p is closed toward p
        ∧ (let uid (p : Nat) : Nat := (s.strand (p / 8) (p % 8)).uid
          ∀ p q a c, waits p → q ∈ ps → (∀ r ∈ ps, uid r = uid p → r = p) → uid q ≠ uid p → Map.get? s.agents (uid p) = some a → Map.get? s.agents (uid q) = some c →
            c.isTransfer = false → includesAgent scope a c = true → (∀ l, relAt c l ≤ c.region) →
            ∃ b, Map.get? t.agents (uid p) = some b ∧ relAt c (levelOf a c) ≤ Map.getD b.seen (uid q) 0)))
    ∧ (∀ p ∈ ps, s.arrivedAt scope n p = false → Gives (.barRelease vfn seq grp scope unit) s (fun t => t = s)))

/-- R188: WAIT reads the word; a value that satisfies the condition is placed and is the acquire, another makes the strand wait for a
write to that word; WAIT_REREAD executes it again. A read that fails drains the store buffer too: the model's choice, log 63. -/
def Obligations.WaitReadsUntilTheConditionHolds : Prop :=
  (∀ (s : State) (o : WaitOp),
    let ea := s.rS o.a
    let n := 2 ^ o.w.val
    let op := BitVec.ofNat (8 * n) (s.rS o.b).toNat
    if ea.toNat % n ≠ 0 then Traps (.wait o) cALIGN (effLocal s.cur.core o.sp.val o.loc ea) (memInfo o.sp.val .read) s
    else ∀ p u, permit s.drain s.who s.me.uid false o.sp.val o.loc ea n .read = .ok ([p], u) →
      let bs := (readPieces u [p]).1
      let v := BitVec.ofNat (8 * n) (leNat bs)
      let holds : Prop := match o.cond.val with
        | 0 => v = op
        | 1 => v ≠ op
        | 2 => op.toInt ≤ v.toInt
        | _ => op.toNat ≤ v.toNat
      OnlyStores s.me.stores s s.drain
        ∧ (holds → Gives (.wait o) s (fun t => SameBytes s.drain t ∧ MemFrame s t ∧ Commits 8 s t ∧ Synced o.scope.val u t
          ∧ t.rS o.d = (if o.d.val = 0 then 0 else v.setWidth 64) ∧ (∀ r, r ≠ o.d → t.rS r = s.rS r)
          ∧ t.me = { s.me with s := t.me.s, pc := t.me.pc, vsx := 0, stores := [] }))
        ∧ (¬holds → Gives (.wait o) s (fun t => SameBytes s.drain t ∧ MemFrame s t ∧ t.agents = s.agents
          ∧ t.me = { s.me with stores := [], run := .waiting (.mem p.loc.da n) })))
  ∧ (∀ (s : State) (core k da n w : Nat) (u : State) (o : WaitOp) (m : Nat), (s.strand core k).run = .waiting (.mem da n) →
    let s1 := (s.wake core k).actAs core k
    s1.fetchWord s1.me.pc = .ok (w, u) → decode w 0 = .ok (.one (.wait o) m) →
    ∃ t, exec (.waitReread core k) s = .next t ∧ exec (.wait o) { u with cur := { u.cur with word := BitVec.ofNat 64 w } } = .next t)

/-- R189, R346, R456: MARK counts its id among the first 64 of the task, whose other counts stay, sets MCNT, and pushes a record into the mark queue of
a core where a pricking is loaded, the oldest giving way in a full queue, which LAG of that core's own advice context counts; no other advice context and nothing else of a core's
contexts changes; while the trace of its partition runs it writes one 32-byte record into the ring, or
counts a drop in a full one. Otherwise nothing else changes. The layout of the trace's record is the model's choice (log 20), and so is that the record is
written without a key (log 47).
R190: SLK places EXS, then CLR clears it and SET gives the class its new slack from the old s_a. -/
def Obligations.MarksAndSlackState : Prop :=
  (∀ (s : State) (id : BitVec 16) (a b : SReg),
    let entry (l : List (Nat × Nat)) (i : Nat) : Option (Nat × Nat) := l.find? (fun c => c.1 = i)
    let counted : Prop := (entry s.me.occ id.toNat).isSome = true ∨ s.me.occ.length < 64
    let occ := match entry s.me.occ id.toNat with
      | some c => c.2 + 1
      | none => if s.me.occ.length < 64 then 1 else 0
    let bound := (s.pcore s.cur.pid s.cur.core).adv.bound ≠ 0
    let r : MarkRec := ⟨id.toNat, occ, s.rS a, s.rS b, s.relStrand, s.now⟩
    Gives (.mark id a b) s (fun t => Commits 8 s t ∧ t.me.mcntId = id.toNat ∧ t.me.mcntOcc = occ
      ∧ (counted → entry t.me.occ id.toNat = some (id.toNat, occ))
      ∧ (∀ i, i ≠ id.toNat ∨ ¬counted → entry t.me.occ i = entry s.me.occ i)
      ∧ (bound → s.me.marks.length < 64 → t.me.marks = s.me.marks ++ [r])
      ∧ (bound → 64 ≤ s.me.marks.length → t.me.marks = s.me.marks.drop 1 ++ [r])
      ∧ (bound → 64 ≤ s.me.marks.length →
        let c := s.pcore s.cur.pid s.cur.core
        t.pcores = (s.setPCore s.cur.pid s.cur.core { c with adv := { c.adv with cLag := Nat.min (c.adv.cLag + 1) (2 ^ 32 - 1) } }).pcores)
      ∧ (¬bound ∨ s.me.marks.length < 64 → t.pcores = s.pcores)
      ∧ (¬bound → t.me.marks = s.me.marks)
      ∧ t.me = { s.me with pc := t.me.pc, vsx := 0, occ := t.me.occ, mcntId := id.toNat, mcntOcc := occ, marks := t.me.marks }
      ∧ ((∀ addr size, s.tele.trace ≠ some (s.cur.pid, addr, size)) → SameBytes s t ∧ t = { s.setMe t.me with pcores := t.pcores })
      ∧ (∀ addr size, s.tele.trace = some (s.cur.pid, addr, size) →
        (size ≤ s.tele.traceLen → SameBytes s t ∧ t.tele = { s.tele with mtdrop := s.tele.mtdrop + 1 })
        ∧ (s.tele.traceLen < size → Memory.wf s.mem = true →
          StoresAt none (addr + 32 * s.tele.traceLen) (traceRecord s.now s.cur.core s.relStrand id.toNat occ) s t
          ∧ t.tele = { s.tele with traceLen := s.tele.traceLen + 1 })
        ∧ t = { s.setMe t.me with pcores := t.pcores, tele := t.tele, mem := t.mem, memKey := t.memKey, poison := t.poison })))
  ∧ (∀ (s : State) (d a : SReg) (cls : Fin 8) (set clr : Bool),
    Gives (.slk d a cls set clr) s (fun t => Commits 8 s t ∧ OnlyMe s t
      ∧ t.rS d = (if d.val = 0 then 0 else BitVec.ofNat 64 s.me.exs) ∧ (∀ r, r ≠ d → t.rS r = s.rS r)
      ∧ t.me.exs = (if clr then 0 else s.me.exs)
      ∧ (∀ c : Fin 8, t.me.slkt.get c = if set ∧ c = cls then (s.rS a).toNat % 4096 else s.me.slkt.get c)
      ∧ t.me = { s.me with s := t.me.s, pc := t.me.pc, vsx := 0, exs := t.me.exs, slkt := t.me.slkt }))

/-! ## System instructions, traps and events -/

/-- R67, R68, R71, R193, R334, R335: what MFS and FEATQ place. Leaf 0 is masked by the function; leaves other than 0, 1, 8 and 9 are 0.
R67, R68, R70, R78, R191: what MTS changes; read-only registers keep their value. VCP and VSX are for supervisor mode, RMODE 6 and 7
are ILLEGAL, and FMTn belongs to the whole partition. A 1 written to END of a slot in STRM clears it (R63). -/
def Obligations.ControlRegistersReadAndWritten : Prop :=
  (∀ (s : State) (d : SReg),
    let x := s.me
    let mfs (n : BitVec 12) (v : Word) : Prop := Gives (.mfs d n) s (SetsS d v 8 s)
    let nat (n : Nat) : Word := BitVec.ofNat 64 n
    mfs 0 (nat x.vl) ∧ mfs 1 (nat x.vg) ∧ mfs 2 x.pc ∧ mfs 3 (nat x.vsx) ∧ mfs 4 (nat x.rmode) ∧ mfs 5 (nat x.fpflags)
      ∧ mfs 6 (nat x.fpctl) ∧ mfs 7 (nat x.nbr) ∧ mfs 9 x.seed ∧ mfs 10 x.sbase ∧ mfs 12 (nat x.slkctl) ∧ mfs 13 (nat x.exs)
      ∧ mfs 14 x.ctb ∧ mfs 15 x.tshp
      ∧ (∃ v, mfs 8 v ∧ ∀ k : Fin 4, match streamAt x.streams k.val with
        | none => v.toNat / 2 ^ (8 * k.val) % 256 = 0
        | some b => v.toNat / 2 ^ (8 * k.val) % 256 = 128 + (if b.ended then 64 else 0) + (if b.dir then 32 else 0) + b.reg.val)
      ∧ (∃ v, mfs 11 v ∧ (x.mcntId < 2 ^ 16 → v.toNat / 2 ^ 48 = x.mcntId ∧ v.toNat % 2 ^ 48 = x.mcntOcc % 2 ^ 48))
      ∧ (∀ k : Fin 8, mfs (BitVec.ofNat 12 (0x10 + k.val)) (nat (x.slkt.get k)))
      ∧ (∀ k : Fin 16, mfs (BitVec.ofNat 12 (0x20 + k.val)) (s.myPart.fmt.get k))
      ∧ (∀ k : Fin 64, mfs (BitVec.ofNat 12 (0x40 + k.val)) (x.cts.get k))
      ∧ (∀ k : Fin 2, mfs (BitVec.ofNat 12 (0x80 + k.val)) (nat ((s.pcore s.cur.pid s.cur.core).accst.get k)))
      ∧ (let c := s.cluster (clusterOf s.cur.core)
        mfs 0x90 (nat (c.allow + 256 * c.ref + 65536 * c.temp)))
      ∧ (∀ leaf : Fin 64, ∃ v, Gives (.featq d leaf) s (SetsS d v 8 s)
        ∧ (leaf.val = 0 → let m := (s.vf s.myCtx.vfn).mask0.toNat
          v.toNat % 256 = (if m % 256 = 0 then 0 else 1) ∧ (∀ i, 8 ≤ i → v.toNat.testBit i = (decide (i < 16) && m.testBit i)))
        ∧ (leaf.val = 1 → v.toNat / 2 ^ 16 % 2 ^ 16 = 0
          ∧ ((s.vf s.myCtx.vfn).mask1 = BitVec.allOnes 64 → 1 ≤ v.toNat / 2 ^ 8 % 2 ^ 8))
        ∧ (leaf.val = 8 → s.cur.core < 1024 → s.cur.strand < 8 → s.g < 16 →
          v.toNat % 1024 = s.cur.core ∧ v.toNat / 2 ^ 10 % 8 = s.cur.strand ∧ v.toNat / 2 ^ 16 % 16 = s.g)
        ∧ (leaf.val = 9 → (s.myLaunch = none → v = 0) ∧ ∀ l, s.myLaunch = some l → (l.fr = 0 → v = 0) ∧ (l.fr < 2 ^ 32 → l.fr ≠ 0 →
          v.toNat % 2 ^ 32 = l.fr ∧ v.toNat / 2 ^ 32 = s.myCtx.vwlim / 4096 * 4096 % 2 ^ 32))
        ∧ (leaf.val ∉ [0, 1, 8, 9] → v = 0)))
  ∧ (∀ (s : State) (a : SReg),
    let v := (s.rS a).toNat
    let y : Strand := { s.me with pc := s.me.pc + 8, vsx := 0 }
    let mts (n : BitVec 12) (z : Strand) : Prop := Gives (.mts a n) s (fun t => t = s.setMe z ∧ SameBytes s t)
    (s.me.mode = .user → Traps (.mts a 2) cPRIV 0 s.cur.word s ∧ Traps (.mts a 3) cPRIV 0 s.cur.word s)
      ∧ (s.me.mode = .supervisor → mts 2 y ∧ mts 3 { y with vsx := v % 2 ^ 16 })
      ∧ (if v % 8 < 6 then mts 4 { y with rmode := v % 8 } else Traps (.mts a 4) cILLEGAL 0 s.cur.word s)
      ∧ Gives (.mts a 8) s (fun t => SameBytes s t ∧ t = s.setMe { y with streams := t.me.streams }
        ∧ ∀ k < 4, streamAt t.me.streams k = (streamAt s.me.streams k).map (fun b =>
          if v.testBit (8 * k + 6) then { b with ended := false } else b))
      ∧ mts 5 { y with fpflags := v % 32 } ∧ mts 6 { y with fpctl := v % 4 } ∧ mts 7 { y with nbr := v % 2 ^ 14 }
      ∧ mts 9 { y with seed := s.rS a } ∧ mts 10 { y with sbase := s.rS a } ∧ mts 12 { y with slkctl := v % 4 }
      ∧ mts 13 { y with exs := v % 2 ^ 32 }
      ∧ (∀ k : Fin 8, mts (BitVec.ofNat 12 (0x10 + k.val)) { y with slkt := y.slkt.set k.val (v % 4096) k.isLt })
      ∧ (∀ n ∈ [0, 1, 11, 14, 15, 0x80, 0x81, 0x90], mts (BitVec.ofNat 12 n) y)
      ∧ (∀ k : Fin 64, mts (BitVec.ofNat 12 (0x40 + k.val)) y)
      ∧ (∀ k : Fin 16,
        let n := BitVec.ofNat 12 (0x20 + k.val)
        if s.feature 8 = true ∧ fmtValueOk (s.rS a) = true then
          Gives (.mts a n) s (fun t => SameBytes s t ∧ t.me = y
            ∧ (∀ j : Fin 16, t.myPart.fmt.get j = if j = k then s.rS a &&& 0xFFFFFFFFFF0FF00F else s.myPart.fmt.get j)
            ∧ t.myPart = { s.myPart with fmt := t.myPart.fmt } ∧ t = { s with strands := t.strands, parts := t.parts })
        else Traps (.mts a n) cILLEGAL 0 s.cur.word s))

/-- R192, R407: SVC and BRK in user mode enter the handler: the record of Table 20.2 goes into the store buffer at TREC + 128k, s1–s4 name it, the
cause, the return address and ADDR, the mode is supervisor, pc is TVEC (its low bits dropped: log 28), VSX is 0, and nothing else of the strand changes.
R408: SVC or BRK in supervisor mode, or with TVEC 0, is unhandled: the launch is stopped with cause 0x0B, unless it is being stopped already, and no register
changes. While the context is being pre-empted neither is taken (R414): the strand stops at the instruction, and nothing else changes. That the record's stores have slack class
SLKT0 and that registers s1–s4 are sound after it is the model's choice (log 17). -/
def Obligations.TrapsAreEnteredOrUnhandled : Prop :=
  (∀ (s : State) (code : BitVec 16) (p : Piece) (u : State),
    s.me.mode = .user → s.myCtx.tvec ≠ 0 → s.cur.limit = none →
    let rec_ := s.myCtx.trec + BitVec.ofNat 64 (128 * s.cur.strand)
    resolve s s.who 0 false rec_ 128 .write = .ok ([p], u) → piecesPoisoned u [p] .write = none →
    let word0 (cause : Nat) : Word := BitVec.ofNat 64 (cause + (if s.cur.half then 512 else 0) + (if s.cur.word.toNat / 2 ^ 62 = 2 then 2048 else 0))
    let enter (cause : Nat) (epc : Word) (t : State) : Prop :=
      SameBytes s t ∧ (∃ u', AccessFrame s u' ∧ t = u'.setMe t.me)
        ∧ t.rS 1 = rec_ ∧ t.rS 2 = BitVec.ofNat 64 cause ∧ t.rS 3 = epc ∧ t.rS 4 = 0
        ∧ (∀ r : SReg, 5 ≤ r.val → t.rS r = s.rS r)
        ∧ t.me = { s.me with s := t.me.s, mode := .supervisor, pc := s.myCtx.tvec &&& ~~~7, vsx := 0, stores := t.me.stores, regErr := t.me.regErr }
        ∧ (∀ n, n ∈ t.me.regErr ↔ n ∈ s.me.regErr ∧ n ∉ [1, 2, 3, 4])
        -- CAUSE [7:0], PMODE 8 (user: 0), HALF 9, EVENT 10 (no event: 0) and XW 11 of word 0; then EPC, ADDR, INFO, VSX and s1–s4
        ∧ (∀ off v, (off, v) ∈ [(0x00, word0 cause), (0x08, epc), (0x10, 0), (0x18, code.setWidth 64), (0x20, BitVec.ofNat 64 s.me.vsx), (0x30, s.rS 1),
            (0x38, s.rS 2), (0x40, s.rS 3), (0x48, s.rS 4)] →
          ⟨cellsAt (p.loc.da + off) (leBytes 8 v.toNat), .whole, p.loc.mat⟩ ∈ t.me.stores)
        ∧ s.me.stores <+: t.me.stores
    Gives (.svc code) s (enter cSVC (s.me.pc + 8)) ∧ Gives (.brk code) s (enter cBRK s.me.pc))
  ∧ (∀ (s : State) (code : BitVec 16), s.me.mode = .supervisor ∨ s.myCtx.tvec = 0 → s.cur.limit = none →
    let stopped (t : State) : Prop := SameBytes s t ∧ t.me = { s.me with run := t.me.run }
      ∧ (s.me.task = none → t.me.run = .idle)
      ∧ (∀ k l, s.me.task = some k → s.launchOf k.vfn k.seq = some l →
        t.me.run = .halted
          ∧ t.launchOf k.vfn k.seq = some (if l.stopped then l else { l with stopped := true, stopCause := 0x0B })
          ∧ t.agenda = .launchStop k.vfn k.seq :: s.agenda)
    Gives (.svc code) s stopped ∧ Gives (.brk code) s stopped)
  ∧ (∀ (s : State) (code : BitVec 16) (n : Nat), s.cur.limit = some n →
    let stays (t : State) : Prop := t = s.setMe { s.me with run := .waiting .s2stop } ∧ SameBytes s t
    Gives (.svc code) s stays ∧ Gives (.brk code) s stays)

/-- R162, R196, R409: the supervisor instructions raise PRIV in user mode. ERET reads the record and restores s1–s4, VSX, the mode and pc from it; HALT
drains the store buffer and stops at pc + 8 unless an enabled event is pending. That ERET drops the low bits of the return address is the
model's choice (log 28). -/
def Obligations.SupervisorInstructions : Prop :=
  (∀ (s : State) (d a b : SReg) (kind scope sl : Fin 8), s.me.mode = .user →
    Traps .eret cPRIV 0 s.cur.word s ∧ Traps .halt cPRIV 0 s.cur.word s ∧ Traps (.tlbi a b kind scope) cPRIV 0 s.cur.word s
      ∧ Traps (.ctxsave d a b sl) cPRIV 0 s.cur.word s ∧ Traps (.ctxload d a b sl) cPRIV 0 s.cur.word s)
  ∧ (∀ (s : State) (ps : List Piece) (u : State), s.me.mode = .supervisor →
    permit s s.who s.me.uid true 0 false (s.myCtx.trec + BitVec.ofNat 64 (128 * s.cur.strand)) 0x50 .read = .ok (ps, u) →
    let bs := (loadPieces u ps).1
    let word (off : Nat) : Word := BitVec.ofNat 64 (leNat ((bs.drop off).take 8))
    TargetOk s (word 0x08 &&& ~~~7) →
    Gives .eret s (fun t => SameBytes s t ∧ (∃ u', AccessFrame s u' ∧ t = u'.setMe t.me)
      ∧ t.rS 1 = word 0x30 ∧ t.rS 2 = word 0x38 ∧ t.rS 3 = word 0x40 ∧ t.rS 4 = word 0x48
      ∧ (∀ r : SReg, 5 ≤ r.val → t.rS r = s.rS r)
      ∧ t.me = { s.me with
        s := t.me.s
        vsx := (word 0x20).toNat % 2 ^ 16
        mode := if (word 0).getLsbD 8 then .supervisor else .user
        pc := word 0x08 &&& ~~~7 }))
  ∧ (∀ (s : State), s.me.mode = .supervisor →
    Gives .halt s (fun t => OnlyStores s.me.stores s t ∧ MemFrame s t
      ∧ t.me = { s.me with
        stores := []
        pc := s.me.pc + 8
        vsx := 0
        run := if s.me.eventDue then s.me.run else .halted }))

/-- R194, R429: TLBI removes from every TLB of the package the translations its kind names and drains the strand's stores; it completes where no other
strand of the partition holds a store translated before, and no transfer of it part of a block, and else waits: TLBI_PERFORMED lets it past the instruction once
those stores are performed, and does nothing before. That these are the accesses it waits for is the model's choice (log 18), and so is how the TLBs are filled
(log 10). -/
def Obligations.TranslationsAreInvalidated : Prop :=
  (∀ (s : State) (a b : SReg) (kind scope : Fin 8), s.me.mode = .supervisor → Map.sorted s.strands = true →
    let page := (s.rS a).toNat / 65536
    let slot := (s.rS b).toNat
    let gone (e : TlbEntry) : Prop := e.pid = s.cur.pid ∧ (kind.val = 0
      ∨ (kind.val = 1 ∧ slot < 64 ∧ (e.page = page ∨ e.big = true ∧ e.page / 8192 = page / 8192)
        ∧ (if e.glob then e.vfn = s.myCtx.vfn else e.slot = slot))
      ∨ (2 ≤ kind.val ∧ e.glob = false ∧ e.slot = slot))
    let removed (t : State) : Prop := OnlyStores s.me.stores s t
      ∧ (∀ core e, e ∈ (t.coreOf core).tlb ↔ e ∈ (s.coreOf core).tlb ∧ ¬gone e)
      ∧ (∀ c e, e ∈ (t.cluster c).tlb ↔ e ∈ (s.cluster c).tlb ∧ ¬gone e)
      ∧ ∀ key, key ≠ skey s.cur.core s.cur.strand → Map.get? t.strands key = Map.get? s.strands key
    let others := ∀ c ∈ s.strands, c.1 = skey s.cur.core s.cur.strand ∨ c.2.stores = [] ∨ ownerOf s.parts (c.1 / 8) (c.1 % 8) ≠ some s.cur.pid
    let moved := ∀ c ∈ s.xfers, c.2.held = [] ∨ c.2.pid ≠ s.cur.pid
    (others → moved → Gives (.tlbi a b kind scope) s (fun t => removed t ∧ t.me = { s.me with stores := [], pc := s.me.pc + 8, vsx := 0 }))
    ∧ ((∃ key x, Map.get? s.strands key = some x ∧ key ≠ skey s.cur.core s.cur.strand ∧ x.stores ≠ []
        ∧ ownerOf s.parts (key / 8) (key % 8) = some s.cur.pid) ∨ ¬moved →
      Gives (.tlbi a b kind scope) s (fun t => removed t ∧ t.me = { s.me with stores := [], run := .waiting .tlbi })))
  ∧ (∀ (s : State) (core k : Nat), (s.strand core k).run = .waiting .tlbi →
    let pid := (ownerOf s.parts core k).getD 0
    ((∀ c ∈ s.strands, c.2.stores = [] ∨ ownerOf s.parts (c.1 / 8) (c.1 % 8) ≠ some pid) → (∀ c ∈ s.xfers, c.2.held = [] ∨ c.2.pid ≠ pid) →
      Gives (.tlbiPerformed core k) s (fun t =>
        t = s.setStrand core k { s.strand core k with pc := (s.strand core k).pc + 8, vsx := 0, run := .ready, readyAt := s.now }
          ∧ SameBytes s t))
    ∧ ((∃ c ∈ s.strands, c.2.stores ≠ [] ∧ ownerOf s.parts (c.1 / 8) (c.1 % 8) = some pid) ∨ (∃ c ∈ s.xfers, c.2.held ≠ [] ∧ c.2.pid = pid) →
      Gives (.tlbiPerformed core k) s (fun t => t = s)))

/-- R196, R410: EVACK clears the pending event of its cause and nothing else; HALT_WAKE lets a halted strand issue again, one of a stopped launch
excepted; EVENT_TAKEN enters the handler of a user strand with a pending enabled event, SLACKEX first, at its pc; what a YIELD waits for stays
(R178). R412: a load whose data are still under way is squashed first: pc, VSX, the vector registers and what else it wrote are as before it, its replies are abandoned and count nowhere, and
no byte of memory changes. Which halted strands a hypervisor's restart reaches is the model's choice (log 48), and so is which loads count as under way (log 19). -/
def Obligations.EventsAreTakenAndAcknowledged : Prop :=
  (∀ (s : State) (cause : BitVec 8), cause.toNat = cSLACKEX ∨ cause.toNat = cTHERMAL →
    Gives (.evack cause) s (fun t => OnlyMe s t ∧ t.me = { s.me with
      pc := s.me.pc + 8
      vsx := 0
      pendSlackex := s.me.pendSlackex && decide (cause.toNat ≠ cSLACKEX)
      pendThermal := s.me.pendThermal && decide (cause.toNat ≠ cTHERMAL) }))
  ∧ (∀ (s : State) (core k : Nat),
    let stopped := ∃ t l, (s.strand core k).task = some t ∧ s.launchOf t.vfn t.seq = some l ∧ l.stopped = true
    ((s.strand core k).run = .halted → ¬stopped →
      Gives (.haltWake core k) s (fun t =>
        t = s.setStrand core k { s.strand core k with run := .ready, readyAt := s.now } ∧ SameBytes s t))
    ∧ ((s.strand core k).run ≠ .halted ∨ stopped → Gives (.haltWake core k) s (fun t => t = s)))
  ∧ (∀ (s : State) (core k : Nat),
    let x0 := s.strand core k
    let z := s.squash core k
    let y := z.strand core k
    SameBytes s z ∧ (∀ key, key ≠ skey core k → Map.get? z.strands key = Map.get? s.strands key)
    ∧ (Map.get? s.flights (skey core k) = none ∨ s.awaitsData x0 = false → z = s)
    ∧ (∀ f, Map.get? s.flights (skey core k) = some f → f.x.uid = x0.uid → s.awaitsData x0 = true →
      y = { x0 with pc := f.x.pc, vsx := f.x.vsx, v := f.x.v, streams := f.x.streams, fpflags := f.x.fpflags, unsent := f.x.unsent, run := .ready
                    s := y.s, m := y.m, binds := y.binds }
      ∧ (∀ r : SReg, y.s.get r = if r ∈ f.sw then f.x.s.get r else x0.s.get r)
      ∧ (∀ r : MReg, if r ∈ f.mw then y.m.get r = f.x.m.get r ∧ y.binds.get r = f.x.binds.get r else y.m.get r = x0.m.get r ∧ y.binds.get r = x0.binds.get r)
      ∧ z.awaitsData y = false ∧ Map.get? z.flights (skey core k) = none
      ∧ ∀ pid, (z.part pid).late = (s.part pid).late))
  ∧ (∀ (s : State) (core k : Nat),
    let z := s.squash core k
    let x := z.strand core k
    let s1 := ((match x.run with
      | .waiting (.yield _ _) => z
      | _ => z.wake core k).actAs core k)
    let slackex := x.pendSlackex && x.slkctl.testBit 0
    let thermal := x.pendThermal && x.slkctl.testBit 1
    let s2 := ({ s1 with cur := { s1.cur with word := BitVec.ofNat 64 s1.peekWord } } : State).leaveQueue
    x.mode = .user → x.run.live = true → slackex = true ∨ thermal = true → s1.myCtx.tvec ≠ 0 →
    ∀ p u, resolve s2 s1.who 0 false s1.recordVa 128 .write = .ok ([p], u) → piecesPoisoned u [p] .write = none →
    Gives (.eventTaken core k) s (fun t => SameBytes s t
      ∧ (t.strand core k).pc = s1.myCtx.tvec &&& ~~~7 ∧ (t.strand core k).mode = .supervisor ∧ (t.strand core k).vsx = 0
      ∧ (t.strand core k).run = (match x.run with
        | .waiting (.yield due ks) => .waiting (.yield due ks)
        | _ => .ready)
      ∧ (t.strand core k).rS 2 = BitVec.ofNat 64 (if slackex then cSLACKEX else cTHERMAL)
      ∧ (t.strand core k).rS 3 = x.pc
      ∧ (t.strand core k).pendSlackex = x.pendSlackex ∧ (t.strand core k).pendThermal = x.pendThermal))

/-- R195, R419: CTXSAVE and CTXLOAD answer 3 for a slot out of range and 1 for a running context; an image address off its 4 KiB boundary raises ALIGN.
Else CTXSAVE copies the slot's image to s_a and answers its size; CTXLOAD copies a well-formed image whose features are all present into the save area
and answers 0, answers 2 for a malformed one, and raises CTXFEAT where a feature is missing. The model's choices: which checks make an image malformed (log 74), that save areas are
read and written under the firmware key (log 43), and when the copy happens (log 58). -/
def Obligations.ContextImagesAreCopied : Prop :=
  ∀ (s : State) (d a b : SReg) (sl : Fin 8), s.me.mode = .supervisor → Memory.wf s.mem = true →
    let ea := s.rS a
    let slot := (s.rS b).toNat
    let c := s.myPart.ctxAt slot
    let v := s.vf c.vfn
    let both (f : Instr → Prop) : Prop := f (.ctxsave d a b sl) ∧ f (.ctxload d a b sl)
    let answers (v : Nat) (t : State) : Prop := Commits 8 s t ∧ t.rS d = (if d.val = 0 then 0 else BitVec.ofNat 64 v)
      ∧ (∀ r, r ≠ d → t.rS r = s.rS r) ∧ MemFrame s t
    if ea.toNat % 4096 ≠ 0 then
      Traps (.ctxsave d a b sl) cALIGN ea (memInfo 0 .write) s ∧ Traps (.ctxload d a b sl) cALIGN ea (memInfo 0 .read) s
    else if 64 ≤ slot then both (fun i => Gives i s (SetsS d 3 8 s))
    else if s.myPart.running = some slot then both (fun i => Gives i s (SetsS d 1 8 s))
    else
      (let size := imgSize (s.readSave c 16).1
        ∀ ps u, admitBlocks s.drain .write (imageBlocks ea size) = .ok (ps, u) →
          Gives (.ctxsave d a b sl) s (fun t =>
            answers size t ∧ t.me.stores = [] ∧ OnlyStores (s.me.stores ++ storesOf ps (u.readSave c size).1) s t))
      ∧ ∀ hp u, admitBlocks s.drain .read (imageBlocks ea 4096) = .ok (hp, u) →
        let head := (readPieces u hp).1
        if headOk s.myPart v head = false then Gives (.ctxload d a b sl) s (SetsS d 2 8 s)
        else ∀ ps w, admitBlocks u .read (imageBlocks ea (imgSize head)) = .ok (ps, w) →
          let image := (readPieces w ps).1
          if recordsOk s.myPart image = false then Gives (.ctxload d a b sl) s (SetsS d 2 8 s)
          else if featMissing v image ≠ 0 then Traps (.ctxload d a b sl) cCTXFEAT ea (BitVec.ofNat 64 (featMissing v image)) s
          else Gives (.ctxload d a b sl) s (fun t =>
            answers 0 t ∧ t.me.stores = [] ∧ StoresAt s.fwKey (pkgAddr c.save) image s.drain t)

/-! ## Vector instructions -/

/-- R47, R59, R201–R203: an instruction of Table 8.2, of one, two or three sources, is ILLEGAL where a group is not aligned, VL exceeds the capacity, or B is a
scalar and the element is wider than 64 bits; sources of another format raise FMTTAG, and of the right format but another arity, or algebras that differ, ARITY. With none of
this and no stream bound, its operands are those of the strand. -/
def Obligations.VectorOperandChecks : Prop :=
  ∀ (s : State) (o : VOp) (i : Instr) (srcs : List Nat),
    let one := [.vabs o, .vneg o, .vclz o, .vpopc o, .vsqrt o, .vrsq o, .vrcp o, .vexp2 o, .vlog2 o]
    let two := [.vadd o, .vsub o, .vmul o, .vmulh o, .vdiv o, .vmin o, .vmax o, .vand o, .vor o, .vxor o, .vshl o, .vshr o, .vsra o]
    let b := match o.b with | .v r => [r.val] | .s _ => []
    (i ∈ one ∧ srcs = [o.a.val]) ∨ (i ∈ two ∧ srcs = o.a.val :: b) ∨ (i ∈ [.vfma o, .vfms o] ∧ srcs = o.a.val :: b ++ [o.d.val]) →
    s.rndAllowed o.rnd.val = true →
    let sz := s.size o.fmt.val o.ar.val
    let G := s.vgroup
    let group (r : Nat) : List VReg := (List.range G).map (fun k => vget s.me.v (r + k))
    let tagged := ∀ r ∈ srcs, ∀ q ∈ group r, q.shape ≠ .undef ∧ q.format = o.fmt.val
    let arity := ∀ r ∈ srcs, (∀ q ∈ group r, q.arity = o.ar.val ∧ q.alg = (vget s.me.v r).alg)
      ∧ (o.ar.val ≠ 0 → (vget s.me.v r).alg = (vget s.me.v o.a.val).alg)
    let illegal := o.d.val % G ≠ 0 ∨ (∃ r ∈ srcs, r % G ≠ 0) ∨ (i ∉ one ∧ (∃ r, o.b = .s r) ∧ 64 < sz)
    0 < sz → s.me.vg < 4 → (∀ k, streamAt s.me.streams k = none) →
      (illegal ∨ s.cap sz < s.me.vl → Traps i cILLEGAL 0 s.cur.word s)
      ∧ (¬illegal → s.me.vl ≤ s.cap sz →
        (¬tagged → Traps i cFMTTAG 0 s.cur.word s) ∧ (tagged → ¬arity → Traps i cARITY 0 s.cur.word s)
        ∧ (tagged → arity → s.cur.limit = none → ∃ od gs, s.opd o.d.val sz sz = some od ∧ srcs.map (fun r => s.opd r sz sz) = gs.map some
          ∧ s.prep s.me (s.cap sz) gs (some od) (gs.map (fun g => g.want o.fmt.val o.ar.val)) = .ok ⟨s, s.me.v, [], [], s.me.vl, none⟩))

/-- R21, R45, R51, R55, R76, R198, R212–R214: every instruction of Table 8.2 gives each active element its function of the operands' components, whatever
the shapes of the registers; other elements keep their bits; the flags of the active elements are joined. -/
def Obligations.ElementwiseInstructionsComplete : Prop :=
  ∀ (s : State) (o : VOp) (od oa : Opd),
    let sz := s.size o.fmt.val o.ar.val
    let E := venv s s.me o.fmt.val o.rnd.val
    let want (g : Opd) : Want := g.want o.fmt.val o.ar.val
    let go (i : Instr) (qb : Source) (useD : Bool) (f : CompFn) : Prop :=
      let gs := oa :: (qb.opds ++ if useD then [od] else [])
      ∀ p, s.prep s.me (s.cap sz) gs (some od) (gs.map want) = .ok p → p.stop = none → slotsIn s.me.streams [od] = [] →
        PutsVector i s p 8 od o.fmt.val o.ar.val (vget p.v oa.base).alg (Active s.me o.p) (fun e =>
          eachComp (2 ^ o.ar.val) (s.width o.fmt.val) (f E e) ((Source.group oa o.na).get s.me p.v e) (qb.get s.me p.v e)
            (if useD then od.get p.v e else 0))
    s.rndAllowed o.rnd.val = true → s.opd o.d.val sz sz = some od → s.opd o.a.val sz sz = some oa →
    (go (.vsqrt o) (.scalar 0) false cSqrt ∧ go (.vrsq o) (.scalar 0) false cRsq ∧ go (.vrcp o) (.scalar 0) false cRcp
      ∧ go (.vexp2 o) (.scalar 0) false cExp2 ∧ go (.vlog2 o) (.scalar 0) false cLog2 ∧ go (.vabs o) (.scalar 0) false cAbs
      ∧ go (.vneg o) (.scalar 0) false cNeg ∧ go (.vclz o) (.scalar 0) false cClz ∧ go (.vpopc o) (.scalar 0) false cPopc)
    ∧ ∀ qb, s.bSource s.me o.b o.nb sz sz = some qb →
      go (.vadd o) qb false (cAdd (o.xf.val == 1)) ∧ go (.vsub o) qb false (cSub (o.xf.val == 1)) ∧ go (.vmul o) qb false cMul
        ∧ go (.vmulh o) qb false cMulh ∧ go (.vfma o) qb true cFma ∧ go (.vfms o) qb true cFms ∧ go (.vdiv o) qb false cDiv
        ∧ go (.vmin o) qb false cMin ∧ go (.vmax o) qb false cMax ∧ go (.vand o) qb false cAnd ∧ go (.vor o) qb false cOr
        ∧ go (.vxor o) qb false cXor ∧ go (.vshl o) qb false cShl ∧ go (.vshr o) qb false cShr ∧ go (.vsra o) qb false cSra

/-- R214: the component functions of Table 8.2 on an integer format of w bits, as arithmetic on w-bit words without flags.
R73–R75, R82, R93, R212, R213: on every other format each rounds, once and at its element, the exact value of its operands, with the flags of the value and those of
signalling operands; VNEG and VABS change the sign bit alone where the format has one; a component of an algebra product rounds the exact sum of its terms, and is +0 where it
has none. The exact values: sums, products and quotients of finite values, and the special cases of R73. -/
def Obligations.LaneFunctions : Prop :=
  (∀ (E : VEnv) (sgn : Bool) (w e a b d : Nat), E.f = .int sgn w → 0 < w → a < 2 ^ w → b < 2 ^ w → d < 2 ^ w →
    let x := BitVec.ofNat w a
    let y := BitVec.ofNat w b
    let z := BitVec.ofNat w d
    let is (f : CompFn) (r : BitVec w) : Prop := f E e a b d = (r.toNat, 0)
    let less (p q : BitVec w) : Prop := if sgn then p.toInt < q.toInt else p.toNat < q.toNat
    is (cAdd false) (x + y) ∧ is (cSub false) (x - y) ∧ is cMul (x * y) ∧ is cFma (z + x * y) ∧ is cFms (z - x * y)
      ∧ is cAnd (x &&& y) ∧ is cOr (x ||| y) ∧ is cXor (x ^^^ y) ∧ is cNeg (-x)
      ∧ is cShl (x <<< (b % 64)) ∧ is cShr (x >>> (b % 64)) ∧ is cSra (if sgn then x.sshiftRight (b % 64) else x >>> (b % 64))
      ∧ is cAbs (if sgn = true ∧ x.toInt < 0 then -x else x)
      ∧ (∃ n ≤ w, is cClz (BitVec.ofNat w n) ∧ (∀ i < n, x.getLsbD (w - 1 - i) = false) ∧ (n < w → x.getLsbD (w - 1 - n) = true))
      ∧ is cPopc (BitVec.ofNat w ((List.range w).filter (fun i => x.getLsbD i)).length)
      ∧ (b = 0 → is cDiv (BitVec.allOnes w))
      ∧ (b ≠ 0 → is cDiv (if sgn then BitVec.ofInt w (x.toInt.tdiv y.toInt) else BitVec.ofNat w (a / b)))
      ∧ (∃ lo hi, is cMin lo ∧ is cMax hi ∧ (less x y → lo = x ∧ hi = y) ∧ (less y x → lo = y ∧ hi = x) ∧ (x = y → lo = x ∧ hi = x))
      ∧ (∃ v, is cMulh v ∧ (sgn = false → v.toNat = a * b / 2 ^ w) ∧ (sgn = true → v.toInt = x.toInt * y.toInt / 2 ^ w))
      ∧ (∃ v, is (cAdd true) v ∧
        (sgn = false → v.toNat = min (a + b) (2 ^ w - 1))
        ∧ (sgn = true → v.toInt = max (-2 ^ (w - 1)) (min (x.toInt + y.toInt) (2 ^ (w - 1) - 1))))
      ∧ (∃ v, is (cSub true) v ∧
        (sgn = false → v.toNat = a - b)
        ∧ (sgn = true → v.toInt = max (-2 ^ (w - 1)) (min (x.toInt - y.toInt) (2 ^ (w - 1) - 1)))))
  ∧ (∀ (E : VEnv) (e a b d : Nat), E.f.isInt = false →
    let x := E.read a
    let y := E.read b
    let z := E.read d
    let rounds (f : CompFn) (v : XV × Nat) (sigs : Nat) : Prop :=
      let r := roundFp E.ftz E.f E.mode (srDraw E.seed E.sbase e) v.1
      f E e a b d = (r.1, r.2 ||| v.2 ||| sigs)
    let two := sigFlag x ||| sigFlag y
    rounds (cAdd false) (addX E.rdn x y) two ∧ rounds (cSub false) (addX E.rdn x y.negate) two
      ∧ rounds cMul (mulX x y) two ∧ rounds cDiv (divX x y) two
      ∧ rounds cFma (let r := addX E.rdn z (mulX x y).1; (r.1, (mulX x y).2 ||| r.2)) (two ||| sigFlag z)
      ∧ rounds cFms (let r := addX E.rdn z (mulX x y).1.negate; (r.1, (mulX x y).2 ||| r.2)) (two ||| sigFlag z)
      ∧ rounds cSqrt (sqrtX x) (sigFlag x) ∧ rounds cRsq (rsqrtX x) (sigFlag x) ∧ rounds cRcp (divX (.fin false 1 1 false) x) (sigFlag x)
      ∧ rounds cExp2 (exp2X x) (sigFlag x) ∧ rounds cLog2 (log2X x) (sigFlag x)
      ∧ (∃ lo hi : XV, rounds cMin (lo, 0) two ∧ rounds cMax (hi, 0) two
        ∧ (x.isNan = true ∧ y.isNan = true → lo = .nan false ∧ hi = .nan false)
        ∧ (x.isNan = true ∧ y.isNan = false → lo = y ∧ hi = y)
        ∧ (x.isNan = false ∧ y.isNan = true → lo = x ∧ hi = x)
        ∧ (x.isNan = false ∧ y.isNan = false ∧ ltX x y = true → lo = x ∧ hi = y)
        ∧ (x.isNan = false ∧ y.isNan = false ∧ ltX y x = true → lo = y ∧ hi = x)
        ∧ (eqX x y = true ∧ x.isZero = false → lo = x ∧ hi = x)
        ∧ (x.isZero = true ∧ y.isZero = true ∧ x.neg = y.neg → (lo = x ∨ lo = y) ∧ (hi = x ∨ hi = y))
        ∧ (x.isZero = true ∧ y.isZero = true ∧ x.neg = true ∧ y.neg = false → lo = x ∧ hi = y)
        ∧ (x.isZero = true ∧ y.isZero = true ∧ x.neg = false ∧ y.neg = true → lo = y ∧ hi = x))
      ∧ (match E.f.signBit with
        | some n => cNeg E e a b d = ((a % 2 ^ E.f.patWidth + 2 ^ n) % 2 ^ (n + 1), 0) ∧ cAbs E e a b d = (a % 2 ^ E.f.patWidth % 2 ^ n, 0)
        | none => rounds cNeg (x.negate, 0) 0 ∧ rounds cAbs ((if x.neg then x.negate else x), 0) 0))
  ∧ (∀ (E : VEnv) (t : Alg) (c w e a b k : Nat), E.f.isInt = false →
    let used := (List.range c).flatMap (fun i => ((List.range c).filter (fun j => decide ((t.entry i j).1 = k) && decide ((t.entry i j).2 ≠ 0))).map (fun j => (i, j)))
    let term (q : Nat × Nat) : XV :=
      let m := (mulX (E.read (comp w q.1 a)) (E.read (comp w q.2 b))).1
      if (t.entry q.1 q.2).2 = 3 then m.negate else m
    (used = [] → algComp E t c w e a b k = (0, 0))
    ∧ ∀ vs : List (Bool × Nat × Nat), used ≠ [] → used.map term = vs.map (fun v => .fin v.1 v.2.1 v.2.2 false) → (∀ v ∈ vs, 0 < v.2.2) →
      let den : Nat := vs.foldl (fun p v => p * v.2.2) 1
      ∃ (s : Bool) (n d : Nat), 0 < d ∧ algComp E t c w e a b k = roundFp E.ftz E.f E.mode (srDraw E.seed E.sbase e) (.fin s n d false)
        ∧ (if s then -(n : Int) else (n : Int)) * (den : Int) = (d : Int) * (vs.map (fun v => (if v.1 then -(v.2.1 : Int) else (v.2.1 : Int)) * ((den / v.2.2 : Nat) : Int))).sum
        ∧ (n = 0 → s = (E.rdn || vs.all (fun v => v.1))))
  ∧ (∀ (rdn s s' : Bool) (n d n' d' : Nat), 0 < d → 0 < d' →
    let v := XV.fin s n d false
    let v' := XV.fin s' n' d' false
    let int (sg : Bool) (m : Nat) : Int := if sg then -(m : Int) else (m : Int)
    (∃ r m q, addX rdn v v' = (.fin r m q false, 0) ∧ 0 < q ∧ int r m * d * d' = q * (int s n * d' + int s' n' * d)
      ∧ (m = 0 → r = (rdn || (s && s'))))
    ∧ (∃ m q, mulX v v' = (.fin (s != s') m q false, 0) ∧ 0 < q ∧ m * (d * d') = q * (n * n'))
    ∧ (n' ≠ 0 → ∃ m q, divX v v' = (.fin (s != s') m q false, 0) ∧ 0 < q ∧ m * (d * n') = q * (n * d'))
    ∧ (n ≠ 0 → divX v (XV.zero s') = (.inf (s != s'), flagDZ)) ∧ divX (XV.zero s) (XV.zero s') = (.nan false, flagNV)
    ∧ addX rdn (.inf s) (.inf s') = (if s = s' then (.inf s, 0) else (.nan false, flagNV))
    ∧ mulX (.inf s) (XV.zero s') = (.nan false, flagNV) ∧ mulX (XV.zero s') (.inf s) = (.nan false, flagNV)
    ∧ divX (.inf s) (.inf s') = (.nan false, flagNV) ∧ divX v (.inf s') = (XV.zero (s != s'), 0)
    ∧ sqrtX (XV.zero s) = (XV.zero s, 0) ∧ rsqrtX (XV.zero s) = (.inf s, flagDZ) ∧ log2X (XV.zero s) = (.inf true, flagDZ)
    ∧ (n ≠ 0 → s = true → sqrtX v = (.nan false, flagNV) ∧ rsqrtX v = (.nan false, flagNV) ∧ log2X v = (.nan false, flagNV))
    ∧ sqrtX (.inf true) = (.nan false, flagNV) ∧ rsqrtX (.inf true) = (.nan false, flagNV) ∧ log2X (.inf true) = (.nan false, flagNV)
    ∧ sqrtX (.inf false) = (.inf false, 0) ∧ rsqrtX (.inf false) = (XV.zero false, 0) ∧ log2X (.inf false) = (.inf false, 0)
    ∧ exp2X (.inf true) = (XV.zero false, 0) ∧ exp2X (.inf false) = (.inf false, 0) ∧ exp2X (XV.zero s) = (.fin false 1 1 false, 0)
    ∧ (∀ f ∈ [sqrtX, rsqrtX, log2X, exp2X], f (.nan s) = (.nan false, 0)))

/-- R206–R211, R227: VSETL grants the smaller of the request and the capacity, VSETG sets G; VIDX, VBC, VRNG and MPSUM fill their group; VTAG keeps bits under new tags; VMOVS places
one element, and VMOVV copies. Algebra 0 on what VIDX, VBC, VRNG and MPSUM write, and what VTAG does to an affine register, are the model's choices (log 30), and so is
what happens at VL = 0 (log 75). In an FMTn narrower than its container the container bits that VBC leaves out are 0 (R80). -/
def Obligations.VectorConfiguration : Prop :=
  (∀ (s : State) (d a : SReg) (ew : Fin 8) (ar : Fin 4), ew.val < 5 →
    let bits := [64, 32, 16, 8, 4].getD ew.val 0
    let vl := min (s.rS a).toNat (s.vgroup * (s.lanes * 256 / (2 ^ ar.val * bits)))
    Gives (.vsetl d a ew ar) s (fun t => OnlyMe s t ∧ t.rS d = (if d.val = 0 then 0 else BitVec.ofNat 64 vl) ∧ (∀ r, r ≠ d → t.rS r = s.rS r)
      ∧ t.me = { s.me with s := t.me.s, vl := vl, pc := s.me.pc + 8, vsx := 0 }))
  ∧ (∀ (s : State) (g : Fin 4), Gives (.vsetg g) s (fun t => OnlyMe s t ∧ t.me = { s.me with vg := g.val, pc := s.me.pc + 8, vsx := 0 }))
  ∧ (∀ (s : State) (d : VNum) (a b : SReg) (P : MReg) (fmt : Fin 64) (ar : Fin 4) (od : Opd) (p : Prep),
    let w := s.width fmt.val
    let sz := s.size fmt.val ar.val
    s.opd d.val sz sz = some od → s.prep s.me (s.cap sz) [] (some od) [] = .ok p → p.stop = none → slotsIn s.me.streams [od] = [] →
    (ar.val = 0 → PutsVector (.vidx d a b P fmt) s p 8 od fmt.val 0 0 (Active s.me P)
        (fun e => (((s.rS a).toNat + (s.rS b).toNat * e) % 2 ^ w, 0)))
      ∧ (sz ≤ 64 → ∃ v < 2 ^ sz,
        (∀ j < 2 ^ ar.val, v / 2 ^ (w * j) % 2 ^ w = (s.rS a).toNat / 2 ^ (w * j) % 2 ^ w % 2 ^ (s.fmtC fmt.val).patWidth)
        ∧ PutsVector (.vbc d a P fmt ar) s p 8 od fmt.val ar.val 0 (Active s.me P) (fun _ => (v, 0)))
      ∧ (ar.val = 0 → s.feature 10 = true → PutsVector (.vrng d P fmt) s p 8 od fmt.val 0 0 (Active s.me P)
        (fun e => ((rndDraw s.me.seed (s.me.sbase + BitVec.ofNat 64 e)).toNat % 2 ^ w, 0)))
      ∧ (ar.val = 0 → ∀ m : MReg, PutsVector (.mpsum d m fmt) s p 8 od fmt.val 0 0 (Active s.me 0)
        (fun e => (((List.range e).filter (fun i => (s.me.m.get m).testBit i)).length % 2 ^ w, 0))))
  ∧ (∀ (s : State) (d : SReg) (a : VNum) (b : SReg) (fmt : Fin 64) (ar : Fin 4) (oa : Opd) (p : Prep),
    let sz := s.size fmt.val ar.val
    sz ≤ 64 → s.opd a.val sz sz = some oa → s.prep s.me (s.cap sz) [oa] none [oa.want fmt.val ar.val] = .ok p → p.stop = none →
    let e := oa.get p.v (s.rS b).toNat
    PutsScalar (.vmovs d a b fmt ar) s p d (if ar.val = 0 then placePattern (s.fmtC fmt.val) e else BitVec.ofNat 64 e) 0)
  ∧ (∀ (s : State) (d a : VNum) (fmt : Fin 64) (ar alg : Fin 4) (od oa : Opd) (p : Prep),
    let sz := s.size fmt.val ar.val
    s.opd d.val sz sz = some od → s.opd a.val sz sz = some oa → s.prep s.me s.me.vl [oa] (some od) [] = .ok p → p.stop = none →
    slotsIn s.me.streams [od] = [] →
    Gives (.vtag d a fmt ar alg) s (fun t => VecRest p 8 0 t ∧ t.me.s = p.s.me.s
      ∧ (∀ k < od.num,
        let r := vget p.v (oa.base + k)
        let q := vget t.me.v (od.base + k)
        let own := s.size r.format r.arity
        q.format = fmt.val ∧ q.arity = ar.val ∧ q.alg = alg.val ∧ q.len = min od.per ((r.len * own + sz - 1) / sz)
          ∧ (r.shape = .undef → q.shape = .undef)
          ∧ (r.shape = .uniform → sz = own → ar.val = 0 → q.shape = .uniform ∧ q.base = r.base)
          ∧ (r.shape = .affine → sz = own → isIntCode fmt.val = true → q.shape = .affine ∧ q.base = r.base ∧ q.stride = r.stride)
          ∧ (r.shape = .general → q.shape = .general ∧ q.bits = r.bits % 2 ^ (own * r.len) % 2 ^ (sz * q.len)))
      ∧ ∀ r, od.has r = false → vget t.me.v r = vget p.loaded.me.v r))
  ∧ (∀ (s : State) (d a : VNum) (P : MReg) (ca : Bool) (fmt : Fin 64) (ar : Fin 4) (od oa : Opd) (p : Prep),
    let sz := s.size fmt.val ar.val
    s.opd d.val sz sz = some od → s.opd a.val sz sz = some oa → slotsIn s.me.streams [od] = [] →
    s.prep s.me (s.cap sz) [oa] (some od) [{ oa.want fmt.val ar.val with loose := true }] = .ok p → p.stop = none →
    if P.val = 0 then
      Gives (.vmovv d a P ca fmt ar) s (fun t => VecRest p 8 0 t ∧ t.me.s = p.s.me.s
        ∧ (∀ k < od.num, vget t.me.v (od.base + k) = vget p.v (oa.base + k))
        ∧ ∀ r, od.has r = false → vget t.me.v r = vget p.loaded.me.v r)
    else PutsVector (.vmovv d a P ca fmt ar) s p 8 od fmt.val ar.val (vget p.v oa.base).alg (Active s.me P) (fun e => (oa.get p.v e, 0)))

/-- R215, R216, R218, R225, R226: VMWIDE, VDOT, VSEL, VCVT and VCVTS: each active element from its own operands, in its own formats; VCVTS is VCVT with
stochastic rounding. Where VDOT's sources have their right edge is the model's choice (log 24). -/
def Obligations.WideDotSelectConvert : Prop :=
  ∀ (s : State) (o : VOp) (od oa : Opd) (qb : Source) (p : Prep),
    let w := s.width o.fmt.val
    let sz := s.size o.fmt.val o.ar.val
    let qa := Source.group oa o.na
    let act := Active s.me o.p
    let alg := (vget p.v oa.base).alg
    let ready := p.stop = none ∧ slotsIn s.me.streams [od] = []
    let E := venv s s.me o.fmt.val o.rnd.val
    let X := venv s s.me o.xf.val o.rnd.val
    (s.rndAllowed o.rnd.val = true → s.opd o.d.val w w = some od → s.opd o.a.val w w = some oa →
      s.bSource s.me o.b o.nb (s.width o.xf.val) w = some qb →
      s.prep s.me (s.cap w) (oa :: qb.opds) (some od) (oa.want o.fmt.val 0 :: qb.opds.map (fun g => g.want o.xf.val 0)) = .ok p → ready →
      PutsVector (.vmwide o) s p 8 od o.fmt.val 0 alg act (fun e =>
        let a := qa.get s.me p.v e
        let b := qb.get s.me p.v e
        match E.f with
        | .int _ k => ((BitVec.ofInt k (E.f.toInt a * (s.fmtC o.xf.val).toInt b)).toNat, 0)
        | _ =>
          let x := E.read a
          let y := readVal E.daz (s.fmtC o.xf.val) b
          E.round e (mulX x y) (sigFlag x ||| sigFlag y)))
    ∧ (s.rndAllowed o.rnd.val = true → s.opd o.d.val 32 32 = some od → s.opd o.a.val w w = some oa → s.bSource s.me o.b o.nb w w = some qb →
      s.prep s.me (s.cap 32) (oa :: qb.opds ++ [od]) (some od) (od.want o.xf.val 0 :: (oa :: qb.opds).map (fun g => g.want o.fmt.val 0)) = .ok p →
      ready →
      let n := 32 / w
      let N := s.fmtC o.fmt.val
      let at_ (q : Source) (i : Nat) : Nat := q.get { s.me with vl := n * s.me.vl } p.v i
      PutsVector (.vdot o) s p 8 od o.xf.val 0 alg act (fun e =>
        let d := od.get p.v e
        match X.f with
        | .int _ k => ((BitVec.ofInt k (X.f.toInt d
          + ((List.range n).map (fun j => N.toInt (at_ qa (n * e + j)) * N.toInt (at_ qb (n * e + j)))).sum)).toNat, 0)
        | _ =>
          let term (j : Nat) : XV × Nat :=
            let x := readVal X.daz N (at_ qa (n * e + j))
            let y := readVal X.daz N (at_ qb (n * e + j))
            ((mulX x y).1, (mulX x y).2 ||| sigFlag x ||| sigFlag y)
          X.round e (sumX X.rdn ((List.range n).map term) (X.read d, 0)) (sigFlag (X.read d))))
    ∧ (s.opd o.d.val sz sz = some od → s.opd o.a.val sz sz = some oa → s.bSource s.me o.b o.nb sz sz = some qb →
      s.prep s.me (s.cap sz) (oa :: od :: qb.opds) (some od) ((od :: qb.opds).map (fun g => g.want o.fmt.val o.ar.val))
        (oa.regs.any (fun r => decide ((vget s.me.v r).shape = .undef) || decide ((vget s.me.v r).arity ≠ 0)
          || decide (s.width (vget s.me.v r).format ≠ sz))) = .ok p → ready →
      PutsVector (.vsel o) s p 8 od o.fmt.val o.ar.val (vget p.v od.base).alg act (fun e =>
        (if qa.get s.me p.v e ≠ 0 then qb.get s.me p.v e else od.get p.v e, 0)))
    ∧ (s.opd o.d.val sz sz = some od → s.opd o.a.val (s.size o.xf.val o.ar.val) sz = some oa →
      s.prep s.me (s.cap sz) [oa] (some od) [oa.want o.xf.val o.ar.val] = .ok p → ready →
      let convert (rnd : Nat) (e : Nat) : Nat × Nat :=
        let each := (List.range (2 ^ o.ar.val)).map (fun j =>
          let x := readVal E.daz (s.fmtC o.xf.val) (comp (s.width o.xf.val) j (qa.get s.me p.v e))
          finishFp s.me.ftz E.f (s.rmode rnd) (srDraw s.me.seed s.me.sbase e) (x, 0) (sigFlag x))
        (packBits w (each.map Prod.fst), (each.map Prod.snd).foldl (· ||| ·) 0)
      (s.rndAllowed o.rnd.val = true → PutsVector (.vcvt o) s p 8 od o.fmt.val o.ar.val alg act (convert o.rnd.val))
        ∧ (s.feature 10 = true → PutsVector (.vcvts o) s p 8 od o.fmt.val o.ar.val alg act (convert 5)))

/-- R217, R228: VCMP and VCLASS write the bits of the active elements of a mask. A comparison with a NaN holds under NE and UN alone. -/
def Obligations.VectorComparisons : Prop :=
  (∀ (s : State) (o : VMaskOp) (oa : Opd) (qb : Source) (p : Prep),
    let sz := s.width o.fmt.val
    s.opd o.a.val sz sz = some oa → s.bSource s.me o.b o.nb sz sz = some qb →
    s.prep s.me (s.cap sz) (oa :: qb.opds) none ((oa :: qb.opds).map (fun g => g.want o.fmt.val 0)) = .ok p → p.stop = none →
    o.xf.val < 7 →
    let E := venv s s.me o.fmt.val 0
    PutsMask (.vcmp o) s p o.d (Active s.me o.p) (fun e =>
      let x := cmpVal E ((Source.group oa o.na).get s.me p.v e)
      let y := cmpVal E (qb.get s.me p.v e)
      let nan := x.isNan || y.isNan
      ([!nan && eqX x y, nan || !eqX x y, !nan && ltX x y, !nan && (ltX x y || eqX x y), !nan && ltX y x, !nan && (ltX y x || eqX x y),
          nan].getD o.xf.val false,
        sigFlag x ||| sigFlag y ||| if nan && decide (2 ≤ o.xf.val ∧ o.xf.val ≤ 5) then flagNV else 0)))
  ∧ (∀ (s : State) (d : MReg) (a : VNum) (P : MReg) (ca : Bool) (fmt : Fin 64) (set : BitVec 10) (oa : Opd) (p : Prep),
    let sz := s.width fmt.val
    s.opd a.val sz sz = some oa → s.prep s.me (s.cap sz) [oa] none [oa.want fmt.val 0] = .ok p → p.stop = none →
    PutsMask (.vclass d a P ca fmt set) s p d (Active s.me P) (fun e =>
      (set.getLsbD (classOf (s.fmtC fmt.val) (oa.get p.v e)), 0)))

/-- R44, R125, R232: the mask instructions act on the bits below VL and end a chunk-mask binding of the mask written; MPOP counts, MFFS finds the
lowest set bit or answers all ones; MMV moves between masks and msm. -/
def Obligations.MaskInstructions : Prop :=
  ∀ (s : State) (d a b : MReg) (r : SReg),
    let bit (m : MReg) (e : Nat) : Bool := (s.me.m.get m).testBit e
    let mask (i : Instr) (f : Nat → Bool) : Prop := Gives i s (fun t => OnlyMe s t
      ∧ (∀ e, (t.me.m.get d).testBit e = if e < s.me.vl then f e else bit d e) ∧ (∀ m, m ≠ d → t.me.m.get m = s.me.m.get m)
      ∧ t.me = { s.me with m := t.me.m, binds := s.me.binds.set d.val none d.isLt, pc := s.me.pc + 8, vsx := 0 })
    mask (.mand d a b) (fun e => bit a e && bit b e) ∧ mask (.mor d a b) (fun e => bit a e || bit b e)
      ∧ mask (.mxor d a b) (fun e => bit a e ^^ bit b e) ∧ mask (.mandn d a b) (fun e => bit a e && !bit b e)
      ∧ mask (.mnot d a) (fun e => !bit a e) ∧ mask (.mset d) (fun _ => true) ∧ mask (.mclr d) (fun _ => false)
      ∧ mask (.mmv 0 d a) (bit a) ∧ mask (.mmv 1 d a) (fun e => s.me.msm.testBit e)
      ∧ Gives (.mmv 2 d a) s (fun t => OnlyMe s t ∧ (∀ e, t.me.msm.testBit e = if e < s.me.vl then bit a e else s.me.msm.testBit e)
        ∧ t.me = { s.me with msm := t.me.msm, pc := s.me.pc + 8, vsx := 0 })
      ∧ Gives (.mpop r a) s (SetsS r (BitVec.ofNat 64 ((List.range s.me.vl).filter (bit a)).length) 8 s)
      ∧ (∃ v, Gives (.mffs r a) s (SetsS r v 8 s) ∧ ((∀ e < s.me.vl, bit a e = false) → v = BitVec.allOnes 64)
        ∧ ∀ e < s.me.vl, bit a e = true → (∀ i < e, bit a i = false) → v = BitVec.ofNat 64 e)

/-- R91, R219, R220, R221: VRED reduces the active elements, floating formats by Tree and integers with wrapping; VSCAN writes running
values; VRECUR evaluates its recurrence and leaves the carry in sK. The flags are those of the roundings and of the signalling NaNs read. That DAZ acts on VSCAN's
elements alone and on VRECUR's carry at every step is the model's choice (log 75). -/
def Obligations.ReductionsAndRecurrences : Prop :=
  (∀ (s : State) (o : VScalOp) (oa : Opd) (p : Prep),
    let w := s.width o.fmt.val
    let E := venv s s.me o.fmt.val o.rnd.val
    let op := redOp o.xf.val
    let a (e : Nat) : Nat := (Source.group oa o.na).get s.me p.v e
    let on := (List.range s.me.vl).filter (fun e => s.me.active o.p e)
    ¬(isFloatCode o.fmt.val = true ∧ s.rmode o.rnd.val = .sr) → s.opd o.a.val w w = some oa →
    s.prep s.me (s.cap w) [oa] none [oa.want o.fmt.val 0] = .ok p → p.stop = none → s.me.vl < 2 ^ 16 →
    ∃ v fl, PutsScalar (.vred o) s p o.d (placePattern E.f v) fl
      ∧ (∀ sgn k, E.f = .int sgn k → fl = 0
        ∧ (op = .sum → v = (on.map a).sum % 2 ^ k) ∧ (op = .prod → 1 ≤ k → v = (on.map a).prod % 2 ^ k)
        ∧ (op = .min → (∀ e ∈ on, E.f.toInt v ≤ E.f.toInt (a e)) ∧ (on ≠ [] → ∃ e ∈ on, v = a e)
          ∧ (on = [] → 1 ≤ k → E.f.toInt v = if sgn then 2 ^ (k - 1) - 1 else 2 ^ k - 1))
        ∧ (op = .max → (∀ e ∈ on, E.f.toInt (a e) ≤ E.f.toInt v) ∧ (on ≠ [] → ∃ e ∈ on, v = a e)
          ∧ (on = [] → 1 ≤ k → E.f.toInt v = if sgn then -2 ^ (k - 1) else 0))
        ∧ (op = .xor → ∀ i, v.testBit i = decide ((on.filter (fun e => (a e).testBit i)).length % 2 = 1))
        ∧ (op = .or → ∀ i, v.testBit i = on.any (fun e => (a e).testBit i))
        ∧ (op = .and → ∀ i < k, v.testBit i = on.all (fun e => (a e).testBit i)))
      ∧ ((∀ sgn k, E.f ≠ .int sgn k) →
        let x (e : Nat) : Option XV := if e ∈ on then some (enterX (E.read (a e))) else none
        match tree E op x 16 0 with
        | (none, _) => v = (roundTo E.f .rne 0 (redIdX op)).1 ∧ fl = 0
        | (some y, g) => v = (E.round 0 (y, 0) 0).1
          ∧ fl = (on.map (fun e => sigFlag (E.read (a e)))).foldl (· ||| ·) 0 ||| g ||| (E.round 0 (y, 0) 0).2))
  ∧ (∀ (s : State) (o : VOp) (od oa : Opd) (p : Prep),
    let w := s.width o.fmt.val
    let E := venv s s.me o.fmt.val o.rnd.val
    let op := redOp o.xf.val
    let a (e : Nat) : Nat := (Source.group oa o.na).get s.me p.v e
    let act := Active s.me o.p
    let old := (lastActive s.me o.p (min s.me.vsx s.me.vl)).map (od.get p.v)
    s.rndAllowed o.rnd.val = true → s.opd o.d.val w w = some od → s.opd o.a.val w w = some oa →
    s.prep s.me (s.cap w) [oa] (some od) [oa.want o.fmt.val 0] = .ok p → p.stop = none → slotsIn s.me.streams [od] = [] →
    Gives (.vscan o) s (fun t => t.me.s = p.s.me.s ∧ ∃ (fl : Nat) (r : Nat → Nat × Nat), VecRest p 8 fl t
      ∧ JoinsFlags fl act (fun e => (r e).2)
      ∧ Puts od o.fmt.val 0 (vget p.v oa.base).alg act (fun e => (r e).1) p.loaded t
      ∧ ((∃ sgn k, E.f = .int sgn k) → Serial act (old.getD (redIdI op E.f), 0) (fun e c => (redI op E.f c.1 (a e), 0)) r)
      ∧ ((∀ sgn k, E.f ≠ .int sgn k) →
        let next (e : Nat) (c : XV) : Nat × Nat := E.round 0 (redX op E.rdn c (enterX (E.read (a e)))) (sigFlag (E.read (a e)))
        ∀ e, act e → ((∀ j < e, ¬act j) → r e = next e ((old.map E.f.value).getD (E.f.value (roundTo E.f .rne 0 (redIdX op)).1)))
          ∧ ∀ j < e, act j → (∀ i, j < i → i < e → ¬act i) → r e = next e (E.f.value (r j).1))))
  ∧ (∀ (s : State) (o : VOp) (od oa : Opd) (qb : Source) (p : Prep),
    let w := s.width o.fmt.val
    let E := venv s s.me o.fmt.val o.rnd.val
    let sK : SReg := Fin.ofNat 64 o.xf.val
    let a (e : Nat) : Nat := (Source.group oa o.na).get s.me p.v e
    let act := Active s.me o.p
    let c := (s.rS sK).toNat % 2 ^ E.f.patWidth
    s.rndAllowed o.rnd.val = true → s.opd o.d.val w w = some od → s.opd o.a.val w w = some oa → s.bSource s.me o.b o.nb w w = some qb →
    s.prep s.me (s.cap w) (oa :: qb.opds) (some od) ((oa :: qb.opds).map (fun g => g.want o.fmt.val 0)) = .ok p →
    p.stop = none → slotsIn s.me.streams [od] = [] →
    Gives (.vrecur o) s (fun t => (∀ r, r ≠ sK → t.rS r = p.s.rS r) ∧ ∃ (fl : Nat) (q : Nat → Nat × Nat), VecRest p 8 fl t
      ∧ JoinsFlags fl act (fun e => (q e).2) ∧ Serial act (c, 0) (fun e x => cFma E e (a e) x.1 (qb.get s.me p.v e)) q
      ∧ let r (e : Nat) : Nat := (q e).1
      Puts od o.fmt.val 0 (vget p.v oa.base).alg act r p.loaded t
      ∧ (sK.val ≠ 0 → (∀ e, ¬act e) → t.rS sK = placePattern E.f c)
      ∧ (sK.val ≠ 0 → ∀ e, act e → (∀ i, e < i → ¬act i) → t.rS sK = placePattern E.f (r e))))

/-- R222, R223, R224, R231: VSLIDE, VPERM, VAREV, VCOMPR and VEXPD move whole elements; elements that no rule names keep their bits. That VPERM, VCOMPR and VEXPD move elements of
arity above 1 is the model's choice (log 75). -/
def Obligations.ElementsMove : Prop :=
  ∀ (s : State) (o : VOp) (od oa : Opd),
    let sz := s.size o.fmt.val o.ar.val
    let vl := s.me.vl
    let on (e : Nat) : Prop := e < vl ∧ s.me.active o.p e = true
    let sel := (List.range vl).filter (s.me.active o.p)
    s.opd o.d.val sz sz = some od → s.opd o.a.val sz sz = some oa → slotsIn s.me.streams [od] = [] → ∀ p, p.stop = none →
    let a (e : Nat) : Nat := (Source.group oa o.na).get s.me p.v e
    let move (i : Instr) (act : Nat → Prop) (f : Nat → Nat) : Prop :=
      PutsVector i s p 8 od o.fmt.val o.ar.val (vget p.v oa.base).alg act (fun e => (f e, 0))
    (s.prep s.me (s.cap sz) [oa] (some od) [oa.want o.fmt.val o.ar.val] = .ok p →
      (∀ r, o.b = .s r →
        let n := (s.rS r).toNat
        (o.xf.val = 0 → move (.vslide o) on (fun e => if n ≤ e then a (e - n) else 0))
          ∧ (o.xf.val = 1 → move (.vslide o) on (fun e => if e + n < vl then a (e + n) else 0))
          ∧ move (.vperm o) on (fun _ => let k := (s.rS r).toInt; if 0 ≤ k ∧ k < vl then a k.toNat else 0))
        ∧ move (.vcompr o) (· < sel.length) (fun e => a (sel.getD e 0))
        ∧ move (.vexpd o) on (fun e => a (sel.filter (· < e)).length)
        ∧ (o.ar.val = 0 ∨ s.feature 11 = true → move (.varev o) on (fun e => a (vl - 1 - e))))
    ∧ (∀ b ob, o.b = .v b → s.opd b.val (s.width (vget s.me.v b.val).format) sz = some ob →
      isIntCode (vget s.me.v b.val).format = true →
      s.prep s.me (s.cap sz) [oa, ob] (some od) [oa.want o.fmt.val o.ar.val, ob.want (vget s.me.v b.val).format 0] = .ok p →
      move (.vperm o) on (fun e =>
        let k := (s.fmtC (vget s.me.v b.val).format).toInt ((Source.group ob o.nb).get s.me p.v e)
        if 0 ≤ k ∧ k < vl then a k.toNat else 0))

/-- R92–R94, R229, R230: VAMUL multiplies elements under the table of their algebra, VCONJ changes the signs that the table names, VNORM gives component 0
of an element times its conjugate; with no table of the arity, ARITY. What VCONJ does to a component of a format without a sign is the model's choice (log 75). -/
def Obligations.AlgebraElements : Prop :=
  ∀ (s : State) (o : VOp) (od oa : Opd) (p : Prep),
    let w := s.width o.fmt.val
    let c := 2 ^ o.ar.val
    let sz := s.size o.fmt.val o.ar.val
    let E := venv s s.me o.fmt.val o.rnd.val
    let alg := (vget p.v oa.base).alg
    let a (e : Nat) : Nat := (Source.group oa o.na).get s.me p.v e
    let act := Active s.me o.p
    let one : List Want := [oa.want o.fmt.val o.ar.val]
    let ready := p.stop = none ∧ slotsIn s.me.streams [od] = []
    let joined (rs : List (Nat × Nat)) : Nat × Nat := (packBits w (rs.map Prod.fst), (rs.map Prod.snd).foldl (· ||| ·) 0)
    let mul (t : Alg) (e x y k : Nat) : Nat × Nat :=
      match E.f with
      | .int _ n => ((BitVec.ofInt n (((List.range c).flatMap (fun i => (List.range c).map (fun j =>
          if (t.entry i j).1 = k ∧ (t.entry i j).2 ≠ 0 then
            (if (t.entry i j).2 = 3 then -1 else 1) * (E.f.toInt (comp w i x) * E.f.toInt (comp w j y))
          else 0))).sum)).toNat, 0)
      | _ => algComp E t c w e x y k
    let conj (E : VEnv) (t : Alg) (x : Nat) : Nat :=
      packBits w ((List.range c).map (fun k => if t.conj.testBit k then (cNeg E 0 (comp w k x) 0 0).1 else comp w k x))
    (o.ar.val = 0 ∨ s.feature 11 = true) → s.opd o.a.val sz sz = some oa →
    (s.rndAllowed o.rnd.val = true → s.opd o.d.val sz sz = some od → ∀ qb, s.bSource s.me o.b o.nb sz sz = some qb →
      s.prep s.me (s.cap sz) (oa :: qb.opds) (some od) ((oa :: qb.opds).map (fun g => g.want o.fmt.val o.ar.val)) = .ok p → ready →
      (tableFor s alg o.ar.val = none → Traps (.vamul o) cARITY 0 s.cur.word s)
        ∧ ∀ t, tableFor s alg o.ar.val = some t → PutsVector (.vamul o) s p 8 od o.fmt.val o.ar.val alg act (fun e =>
          joined ((List.range c).map (mul t e (a e) (qb.get s.me p.v e)))))
    ∧ (s.opd o.d.val sz sz = some od → s.prep s.me (s.cap sz) [oa] (some od) one = .ok p → ready →
      (o.ar.val = 0 → PutsVector (.vconj o) s p 8 od o.fmt.val 0 alg act (fun e => (a e, 0)))
        ∧ (o.ar.val ≠ 0 → tableFor s alg o.ar.val = none → Traps (.vconj o) cARITY 0 s.cur.word s)
        ∧ ∀ t, o.ar.val ≠ 0 → tableFor s alg o.ar.val = some t →
          PutsVector (.vconj o) s p 8 od o.fmt.val o.ar.val alg act (fun e => (conj (venv s s.me o.fmt.val 0) t (a e), 0)))
    ∧ (s.rndAllowed o.rnd.val = true → s.opd o.d.val w sz = some od → s.prep s.me (s.cap sz) [oa] (some od) one = .ok p → ready →
      (o.ar.val = 0 → PutsVector (.vnorm o) s p 8 od o.fmt.val 0 alg act (fun e => cMul E e (a e) (a e) 0))
        ∧ (o.ar.val ≠ 0 → tableFor s alg o.ar.val = none → Traps (.vnorm o) cARITY 0 s.cur.word s)
        ∧ ∀ t, o.ar.val ≠ 0 → tableFor s alg o.ar.val = some t →
          PutsVector (.vnorm o) s p 8 od o.fmt.val 0 alg act (fun e => mul t e (a e) (conj E t (a e)) 0))

/-- R123, R124, R234–R237, R240: where every active element can be loaded, VLD, VLDS, VLDX, VLDXF and VLDA write the loaded elements. VLDA and the .ACQ forms, which
drain the store buffer first (the model's choice, log 63; so is the algebra 0 of what a load writes, log 30), change no byte of memory but those of buffered stores, the others none. An acquire-gather leaves elements whose home lies outside its scope, and reports them in msm; VLDXF leaves elements that meet PAGE, PERM or SPACE, and
reports them in mF.
R98, R234, R236: a vector load of lane memory that meets no fault gives every active element the bytes at its address, lowest first. -/
def Obligations.VectorLoadsComplete : Prop :=
  (∀ (s : State) (o : VMem) (fm : MReg) (mode : AddrMode) (u : VSetup),
    let x := s.me
    let sz := s.size o.fmt.val o.ar.val
    vmSetup o mode false x s = .ok u → u.p.stop = none → slotsIn x.streams [u.od] = [] →
    let base := (x.rS o.a + o.disp.signExtend 64).toNat
    let loads (i : Instr) (s0 : State) (f : Nat → State → Except Stop ElemRes) (report : MemRun → State → State) : Prop :=
      let r := u.run u.p x o.p f s0
      r.stop = none → AccessFrame s0 r.s
        ∧ PutsVector i s { u.p with s := (report r r.s).requestVec o.slk r.ps false } (slackBytes o.slk) u.od o.fmt.val o.ar.val 0
          (fun e => Active x o.p e ∧ (r.outs.getD (e - x.vsx) none).isSome = true) (fun e => ((r.outs.getD (e - x.vsx) none).getD 0, 0))
    let keep (_ : MemRun) (t : State) : State := t
    AccessFrame s u.p.s
      ∧ (∀ k, OnlyStores x.stores s (u.p.s.syncVec x o.p k) ∧ ((u.p.s.syncVec x o.p k).chunkClose x o.p).mem = (u.p.s.syncVec x o.p k).mem)
      ∧ (∀ e, mode = .unit → u.nib e = 2 * (base : Int) + ((e * (sz / 4) : Nat) : Int))
      ∧ (∀ e r, mode = .stride → o.b = .s r → u.nib e = 2 * (base : Int) + (e : Int) * (x.rS r).toInt)
      ∧ (∀ e r, mode = .index → o.b = .v r → u.nib e = 2 * (base : Int) + (s.fmtC (vget x.v r.val).format).toInt
          (((s.opd r.val (s.width (vget x.v r.val).format) sz).map (fun g => g.get u.p.v e)).getD 0) * (if 8 ≤ sz then 2 else 1))
      ∧ (o.acq = false →
        (mode = .unit → loads (.vld o) u.p.s (loadElem o u sz) keep) ∧ (mode = .stride → loads (.vlds o) u.p.s (loadElem o u sz) keep)
          ∧ (mode = .index → loads (.vldx o) u.p.s (loadElem o u sz) keep))
      ∧ (o.acq = true → let s0 := (u.p.s.syncVec x o.p 1).chunkClose x o.p
        (mode = .unit → loads (.vld o) s0 (loadElem o u sz) keep) ∧ (mode = .stride → loads (.vlds o) s0 (loadElem o u sz) keep))
      ∧ (o.acq = true → mode = .index →
        let s1 := u.p.s.syncVec x o.p o.scope.val
        loads (.vldx o) (if o.p.val ≠ 0 then s1.chunkClose x o.p else s1) (gatherElem o u sz) (fun r t => t.setMsm x.vsx r.marks))
      ∧ (mode = .index →
        loads (.vldxf o fm) u.p.s (fun e t => match loadElem o u sz e t with
          | .ok r => .ok r
          | .error c => if softStop c then .ok ⟨none, true, [], t⟩ else .error c)
          (fun r t => t.setMask fm (setBits (t.me.m.get fm) x.vsx r.marks)))
      ∧ (mode = .unit →
        let s1 := u.p.s.syncVec x o.p (if o.acq then max 1 o.scope.val else o.scope.val)
        loads (.vlda o) (if o.acq then s1.chunkClose x o.p else s1) (fun e t =>
          match alignStop t o.sp.val o.loc (u.nib e) sz .read with
          | some c => .error c
          | none =>
            match t.elemLoad false o.sp.val o.loc (u.nib e) sz with
            | .error c => .error c
            | .ok (v, ps, t1) => .ok ⟨some v, false, ps, t1⟩) keep))
  ∧ (∀ (s : State) (o : VMem) (mode : AddrMode) (i : Instr) (u : VSetup) (da : Nat → Nat),
    let x := s.me
    let sz := s.size o.fmt.val o.ar.val
    (mode, i) ∈ [(.unit, Instr.vld o), (.stride, .vlds o), (.index, .vldx o)] → o.acq = false → o.sp.val = 1 → 8 ≤ sz → s.cur.limit = none →
    (∀ k, streamAt x.streams k = none) → vmSetup o mode false x s = .ok u → x.stores = [] →
    (∀ e, Active x o.p e → lmPlace s.myPart s.cur.core o.loc (BitVec.ofInt 64 (u.nib e / 2)) (sz / 8) = some (da e)
      ∧ s.poisoned (da e) (sz / 8) = none
      ∧ conflictOf s x.uid [⟨⟨da e, none, true, false, 0⟩, sz / 8⟩] false = none
      ∧ ∀ j < sz / 8, s.keyAt (da e + j) = none) →
    Gives i s (fun t => SameBytes s t ∧ Commits (slackBytes o.slk) s t
      ∧ Puts u.od o.fmt.val o.ar.val 0 (Active x o.p) (fun e => leNat (Memory.readN s.mem (da e) (sz / 8))) s t
      ∧ t.me = { x with v := t.me.v, pc := t.me.pc, vsx := 0, unsent := [] }))

/-- R181, R234, R238, R371: VST, VSTS and VSTX of lane memory that meet no fault commit one store for each active element, in element order, into the store
buffer; of stores of a scatter to one byte the last keeps it. No byte of memory changes yet. R239: VSCADD on lane memory merges the active elements of each address
in increasing index, each merge rounded at index 0 or wrapped, and adds the merged value to what the address holds; FPFLAGS takes the flags of the merges and of the updates.
R181, R239, R240: stores in any space: VST, VSTS, VSTX, VSTL and VSCADD complete where their elements are performed. VSTL performs them at once after
draining and synchronising; VSCADD is ILLEGAL under stochastic rounding, raises DETATOM for an FP format in a DET launch and else adds each distinct address's elements once.
The model's choices: VSCADD's drain (log 63) and its FTZ and DAZ (log 35), and that VSTL's elements are performed at once (log 73). -/
def Obligations.VectorStoresComplete : Prop :=
  (∀ (s : State) (o : VMem) (mode : AddrMode) (i : Instr) (u : VSetup) (da : Nat → Nat),
    let x := s.me
    let sz := s.size o.fmt.val o.ar.val
    (mode, i) ∈ [(.unit, Instr.vst o), (.stride, .vsts o), (.index, .vstx o)] → o.sp.val = 1 → 8 ≤ sz → s.cur.limit = none →
    (∀ k, streamAt x.streams k = none) → vmSetup o mode true x s = .ok u →
    (∀ e, Active x o.p e → lmPlace s.myPart s.cur.core o.loc (BitVec.ofInt 64 (u.nib e / 2)) (sz / 8) = some (da e)
      ∧ conflictOf s x.uid [⟨⟨da e, none, true, false, 0⟩, sz / 8⟩] true = none) →
    let on := (List.range x.vl).filter (fun e => decide (x.vsx ≤ e) && x.active o.p e)
    let new : List PStore := on.map (fun e => ⟨cellsAt (da e) (leBytes (sz / 8) (u.od.get x.v e)), .whole, none⟩)
    Gives i s (fun t => SameBytes s t ∧ Commits (slackBytes o.slk) s t
      ∧ t.me.stores = x.stores ++ (if mode = .unit then new else lastWins new)
      ∧ (s.inDet = false → t.me.digest = x.digest)
      ∧ t.me = { x with pc := t.me.pc, vsx := 0, stores := t.me.stores, digest := t.me.digest, nstores := t.me.nstores, unsent := [] }))
  ∧ (∀ (s : State) (o : VMem) (rnd : Fin 8) (u : VSetup) (da : Nat → Nat),
    let x := s.me
    let sz := s.size o.fmt.val o.ar.val
    let n := sz / 8
    s.rmode rnd.val ≠ .sr → (isFpCode o.fmt.val = true → s.inDet = false) → o.sp.val = 1 → 8 ≤ sz → s.cur.limit = none → x.stores = [] →
    Memory.wf s.mem = true → (∀ k, streamAt x.streams k = none) → vmSetup o .index true x s = .ok u →
    (∀ e, Active x o.p e → lmPlace s.myPart s.cur.core o.loc (BitVec.ofInt 64 (u.nib e / 2)) n = some (da e)
      ∧ s.poisoned (da e) n = none ∧ ∀ j < n, s.keyAt (da e + j) = none) →
    (∀ e e', Active x o.p e → Active x o.p e' → (u.nib e = u.nib e' ∧ da e = da e') ∨ (u.nib e ≠ u.nib e' ∧ (da e + n ≤ da e' ∨ da e' + n ≤ da e))) →
    let E := venv s x o.fmt.val rnd.val
    let sum (a b : Nat) : Nat × Nat :=
      match E.f with
      | .int _ k => ((a + b) % 2 ^ k, 0)
      | _ =>
        let v := addX E.rdn (E.read a) (E.read b)
        let r := roundFp E.ftz E.f E.mode (srDraw E.seed E.sbase 0) v.1
        (r.1, r.2 ||| v.2 ||| sigFlag (E.read a) ||| sigFlag (E.read b))
    -- q e: the merged addend of e's address up to e, with the flags of that merge; e' is the active element before e at that address
    let before (e' e : Nat) : Prop := Active x o.p e' ∧ e' < e ∧ u.nib e' = u.nib e ∧ ∀ i, e' < i → i < e → Active x o.p i → u.nib i ≠ u.nib e
    let final (e : Nat) : Prop := Active x o.p e ∧ ∀ i, Active x o.p i → u.nib i = u.nib e → i ≤ e
    let old (e : Nat) : Nat := leNat (Memory.readN s.mem (da e) n)
    ∃ q : Nat → Nat × Nat,
      (∀ e, Active x o.p e → ((∀ e', ¬before e' e) → q e = (u.od.get x.v e, 0)) ∧ ∀ e', before e' e → q e = sum (q e').1 (u.od.get x.v e))
      ∧ Gives (.vscadd o rnd) s (fun t => Commits (slackBytes o.slk) s t
        ∧ (∀ e, final e → leNat (Memory.readN t.mem (da e) n) = (sum (old e) (q e).1).1 % 2 ^ (8 * n))
        ∧ (∀ a, (∀ e, Active x o.p e → a < da e ∨ da e + n ≤ a) → Memory.read t.mem a = Memory.read s.mem a)
        ∧ (∃ fl, t.me.fpflags = x.fpflags ||| fl ∧ ∀ k, fl.testBit k = true ↔
          (∃ e, Active x o.p e ∧ (q e).2.testBit k = true) ∨ ∃ e, final e ∧ (sum (old e) (q e).1).2.testBit k = true)
        ∧ (s.inDet = false → t.me.digest = x.digest)
        ∧ t.me = { x with pc := t.me.pc, vsx := 0, fpflags := t.me.fpflags, digest := t.me.digest, nstores := t.me.nstores, unsent := [] }))
  ∧ (∀ (s : State) (o : VMem) (rnd : Fin 8) (mode : AddrMode) (u : VSetup),
    let x := s.me
    let sz := s.size o.fmt.val o.ar.val
    vmSetup o mode true x s = .ok u → u.p.stop = none →
    let ends (i : Instr) (t1 : State) (ps : List Piece) (ack : Bool) (fl : Nat) : Prop := Gives i s (fun t =>
      VecRest { u.p with s := t1.requestVec o.slk ps ack } (slackBytes o.slk) fl t ∧ t.mem = t1.mem ∧ t.me.stores = t1.me.stores ∧ t.me.s = x.s
        ∧ t.me.v = u.p.loaded.me.v)
    let plain (i : Instr) : Prop :=
      let r := u.run u.p x o.p (fun e t => match t.elemStore o.sp.val o.loc (u.nib e) sz (u.od.get u.p.v e) (u.fullBlocks x o.p sz e) with
        | .error c => .error c
        | .ok (ps, t1) => .ok ⟨none, false, ps, t1⟩) (u.p.s.setMe { u.p.s.me with stores := [] })
      r.stop = none → ends i (r.s.setMe { r.s.me with
        stores := u.p.s.me.stores ++ (if mode = .unit then r.s.me.stores else lastWins r.s.me.stores) }) r.ps true 0
    (mode = .unit → plain (.vst o)) ∧ (mode = .stride → plain (.vsts o)) ∧ (mode = .index → plain (.vstx o))
      ∧ (mode = .unit →
        let r := u.run u.p x o.p (fun e t =>
          let n := u.nib e
          let v := u.od.get u.p.v e
          match alignStop t o.sp.val o.loc n sz .write with
          | some c => .error c
          | none =>
            match permit t t.who t.me.uid false o.sp.val o.loc (BitVec.ofInt 64 (n / 2)) (if sz = 4 then 1 else sz / 8) .write with
            | .error c => .error c
            | .ok (ps, t1) =>
              let old := readPieces t1 ps
              let bytes := if sz = 4 then leBytes 1 (if n % 2 = 1 then v % 16 * 16 + leNat old.1 % 16 else leNat old.1 / 16 * 16 + v % 16)
                else leBytes (sz / 8) v
              .ok ⟨none, false, ps, ((if sz = 4 then old.2 else t1).performFrom t.cur.core ps bytes).foldElem o.sp.val o.loc n sz v⟩)
          (u.p.s.syncVec x o.p o.scope.val)
        r.stop = none → ends (.vstl o) r.s r.ps true 0)
      ∧ (mode = .index → s.rmode rnd.val = .sr → Traps (.vscadd o rnd) cILLEGAL 0 s.cur.word s)
      ∧ (mode = .index → s.rmode rnd.val ≠ .sr → isFpCode o.fmt.val = true → s.inDet = true → Traps (.vscadd o rnd) cDETATOM 0 s.cur.word s)
      ∧ (mode = .index → s.rmode rnd.val ≠ .sr → (isFpCode o.fmt.val = true → s.inDet = false) →
        let E := venv s x o.fmt.val rnd.val
        let c := scaddCollect o u x E sz (x.vl - x.vsx) x.vsx [] 0 u.p.s.drain
        let r := scaddPerform E sz c.1 c.2.1 c.2.2.1
        c.2.2.2 = none → (c.1.map Addend.n).Nodup
          ∧ (∀ n, (∃ a ∈ c.1, a.n = n) ↔ ∃ e, Active x o.p e ∧ u.nib e = n)
          ∧ ∃ fl, ends (.vscadd o rnd) r.2 (c.1.flatMap Addend.ps) false fl))

/-- R241: VSPILL puts the tags and then the data words of its group, in increasing address, into the store buffer; VFILL reads tags and words back. A misaligned
group, a write-bound register spilled or a read-bound one filled is ILLEGAL; else an area off its 64-byte boundary raises ALIGN, and a saved tag that is invalid FMTTAG. -/
def Obligations.SpillsAndFills : Prop :=
  ∀ (s : State) (o : VMem),
    let x := s.me
    let base := s.rS o.a + o.disp.signExtend 64
    let G := s.vgroup
    let nw := 4 * s.lanes
    let sp := o.sp.val
    let group : Opd := ⟨o.d.val, G, s.perReg 8, 8⟩
    let bound (dir : Bool) : Prop := ∃ k b, streamAt x.streams k = some b ∧ group.has b.reg.val = true ∧ b.dir = dir
    (o.d.val % G ≠ 0 ∨ bound true → Traps (.vspill o) cILLEGAL 0 s.cur.word s)
    ∧ (o.d.val % G ≠ 0 ∨ bound false → Traps (.vfill o) cILLEGAL 0 s.cur.word s)
    ∧ (o.d.val % G = 0 → base.toNat % 64 ≠ 0 →
      (¬bound true → Traps (.vspill o) cALIGN (effLocal s.cur.core sp o.loc base) (memInfo sp .write) s)
        ∧ (¬bound false → Traps (.vfill o) cALIGN (effLocal s.cur.core sp o.loc base) (memInfo sp .read) s))
    ∧ (o.d.val % G = 0 → base.toNat % 64 = 0 → x.vsx = 0 → (∀ k, streamAt x.streams k = none) →
      (let word (k : Nat) : Nat :=
          let r := vget x.v (o.d.val + k / nw)
          r.packed (s.size r.format r.arity) / 2 ^ (64 * (k % nw)) % 2 ^ 64
        let tags := group.regs.flatMap (fun r => leBytes 4 (vget x.v r).tag)
        ∀ ps s0 qs s1, permit s s.who x.uid true sp o.loc base 64 .write = .ok (ps, s0) →
          spillWords o base word (G * nw) 0 ps
            (s0.setMe { s0.me with stores := x.stores ++ storesOf ps (tags ++ List.replicate (64 - tags.length) 0) }) = (qs, s1, none) →
          Gives (.vspill o) s (fun t => SameBytes s t
            ∧ t.me = { x with pc := x.pc + BitVec.ofNat 64 (slackBytes o.slk), stores := s1.me.stores, unsent := t.me.unsent }))
      ∧ (∀ ps s0, permit s s.who x.uid true sp o.loc base 64 .read = .ok (ps, s0) →
        let l := loadPieces s0 ps
        let saved (k : Nat) : Nat := leNat ((l.1.drop (4 * k)).take 4)
        let made (k : Nat) : Option VReg :=
          let r := vget x.v (o.d.val + k)
          fillReg s (saved k) (r.packed (s.size r.format r.arity))
        if (List.range G).any (fun k => (made k).isNone) then Traps (.vfill o) cFMTTAG 0 s.cur.word s
        else ∀ qs s1, fillWords o base group nw (G * nw) 0 ps (l.2.putRegs o.d.val ((List.range G).filterMap made)) = (qs, s1, none) →
          Gives (.vfill o) s (fun t => SameBytes s t ∧ t.me = { x with pc := x.pc + BitVec.ofNat 64 (slackBytes o.slk), v := s1.me.v, unsent := t.me.unsent }
            ∧ (G ≤ 8 → ∀ k < G, let r := vget t.me.v (o.d.val + k)
              r.format = bits (saved k) 5 0 ∧ r.arity = bits (saved k) 11 10 ∧ r.alg = bits (saved k) 13 12 ∧ r.len = bits (saved k) 28 16
                ∧ (r.shape = .undef ↔ bits (saved k) 9 8 = 0)))))
    ∧ (∀ (dh : Nat) (da : Nat → Nat), sp = 1 → x.vg < 4 → o.d.val % G = 0 → base.toNat % 64 = 0 → s.cur.limit = none → (∀ k, streamAt x.streams k = none) →
      let free (write : Bool) (ea : Word) (n a : Nat) : Prop := lmPlace s.myPart s.cur.core o.loc ea n = some a
        ∧ conflictOf s x.uid [⟨⟨a, none, true, false, 0⟩, n⟩] write = none
        ∧ (write = false → s.poisoned a n = none ∧ ∀ j < n, s.keyAt (a + j) = none)
      let area (write : Bool) : Prop := (x.vsx = 0 → free write base 64 dh)
        ∧ ∀ k, x.vsx ≤ k → k < G * nw → free write (base + BitVec.ofNat 64 (64 + 8 * k)) 8 (da k)
      let done (t : State) : Prop := SameBytes s t ∧ Commits (slackBytes o.slk) s t
        ∧ t.me = { x with pc := t.me.pc, vsx := 0, v := t.me.v, stores := t.me.stores, unsent := [] }
      -- word k of the group stands at base + 64 + 8k; bit j of register n is bit j mod 64 of word n · nw + j / 64
      (area true →
        let word (k : Nat) : Nat :=
          let r := vget x.v (o.d.val + k / nw)
          r.packed (s.size r.format r.arity) / 2 ^ (64 * (k % nw)) % 2 ^ 64
        let tags := group.regs.flatMap (fun r => leBytes 4 (vget x.v r).tag)
        let header : List PStore := if x.vsx = 0 then [⟨cellsAt dh (tags ++ List.replicate (64 - tags.length) 0), .whole, none⟩] else []
        let words := ((List.range (G * nw)).filter (fun k => decide (x.vsx ≤ k))).map (fun k => (⟨cellsAt (da k) (leBytes 8 (word k)), .whole, none⟩ : PStore))
        Gives (.vspill o) s (fun t => done t ∧ t.me.v = x.v ∧ t.me.stores = x.stores ++ header ++ words))
      ∧ (area false → x.stores = [] →
        let mem (k : Nat) : Nat := leNat (Memory.readN s.mem (da k) 8)
        let tag (k : Nat) : Nat := leNat (Memory.readN s.mem (dh + 4 * k) 4)
        let len (k : Nat) : Nat := bits (tag k) 28 16
        let size (k : Nat) : Nat := s.size (bits (tag k) 5 0) (bits (tag k) 11 10)
        (x.vsx = 0 → (∀ k < G, isCode (bits (tag k) 5 0) = true ∧ len k ≤ s.perReg (size k)) →
          Gives (.vfill o) s (fun t => done t ∧ t.me.stores = [] ∧ (∀ r, group.has r = false → vget t.me.v r = vget x.v r)
            ∧ ∀ k < G, let r := vget t.me.v (o.d.val + k)
              r.format = bits (tag k) 5 0 ∧ r.arity = bits (tag k) 11 10 ∧ r.alg = bits (tag k) 13 12 ∧ r.len = len k
                ∧ r.shape = (if bits (tag k) 9 8 = 0 then .undef else .general)
                ∧ (r.shape = .general → ∀ j < size k * len k, r.bits.testBit j = (mem (k * nw + j / 64)).testBit (j % 64))))
        ∧ (x.vsx ≠ 0 →
          Gives (.vfill o) s (fun t => done t ∧ t.me.stores = [] ∧ (∀ r, group.has r = false → vget t.me.v r = vget x.v r)
            ∧ ∀ k < G, let r := vget x.v (o.d.val + k)
              let r1 := vget t.me.v (o.d.val + k)
              (r.shape = .undef → r1 = r) ∧ r1 = { r with bits := r1.bits }
              ∧ (r.shape ≠ .undef → ∀ j, j < 64 * nw → j < s.size r.format r.arity * r.len →
                r1.bits.testBit j = if k * nw + j / 64 < x.vsx then r.bits.testBit j else (mem (k * nw + j / 64)).testBit (j % 64))))))

/-- R61–R63, R242, R243: VBIND takes the lowest free slot with position 0 and makes a read-bound group general; no free slot, a bound register or a chunk above the
capacity is ILLEGAL. VUNBIND frees the slot and leaves everything else; a register that no group starts at is ILLEGAL. A chunk fetched ahead changes no register, and the position moves, and END is set, as
a chunk passes. That a group just bound for reading has LEN 0 and general contents is the model's choice (log 12). -/
def Obligations.StreamsAreBoundAndPass : Prop :=
  (∀ (s : State) (o : BindOp),
    let sz := s.size o.fmt.val o.ar.val
    let clen := o.clenM1.toNat + 1
    ∀ od, s.opd o.d.val sz sz = some od →
      ((∀ k < 4, (streamAt s.me.streams k).isSome = true) ∨ slotsIn s.me.streams [od] ≠ [] ∨ s.cap sz < clen →
        Traps (.vbind o) cILLEGAL 0 s.cur.word s)
      ∧ ∀ k < 4, streamAt s.me.streams k = none → (∀ j < k, (streamAt s.me.streams j).isSome = true) →
        slotsIn s.me.streams [od] = [] → clen ≤ s.cap sz →
        Gives (.vbind o) s (fun t => SameBytes s t ∧ (∃ b, streamAt t.me.streams k = some b ∧ b.reg = o.d ∧ b.dir = o.dir ∧ b.sp = o.sp.val
            ∧ b.loc = o.loc ∧ b.base = s.rS o.a ∧ b.stride = s.rS o.b ∧ b.clen = clen ∧ b.count = o.count.toNat ∧ b.fmt = o.fmt.val
            ∧ b.ar = o.ar.val ∧ b.slit = o.slit.toNat ∧ b.pos = 0 ∧ b.ended = false ∧ b.fetched = 0)
          ∧ (∀ j, j ≠ k → streamAt t.me.streams j = streamAt s.me.streams j)
          ∧ (∀ r, vget t.me.v r = if o.dir = false ∧ od.has r = true ∧ r < 32 then ⟨0, 0, o.ar.val, .general, o.fmt.val, 0, 0, 0⟩
            else vget s.me.v r)
          ∧ t.me = { s.me with v := t.me.v, streams := t.me.streams, pc := s.me.pc + 16, vsx := 0 }))
  ∧ (∀ (s : State) (d : VNum),
    if d.val % s.vgroup = 0 then Gives (.vunbind d) s (fun t => OnlyMe s t
      ∧ (∀ k b, streamAt t.me.streams k = some b ↔ streamAt s.me.streams k = some b ∧ b.reg ≠ d)
      ∧ t.me = { s.me with streams := t.me.streams, pc := s.me.pc + 8, vsx := 0 })
    else Traps (.vunbind d) cILLEGAL 0 s.cur.word s)
  ∧ (∀ (s : State) (core k slot : Nat) (b : Stream) (ps : List Piece) (u : State),
    let s1 := s.actAs core k
    streamAt s1.me.streams slot = some b → b.dir = false → b.pos + b.fetched < b.count → 0 < b.clen →
    let sz := s1.size b.fmt b.ar
    resolve s1 s1.who b.sp b.loc (BitVec.ofInt 64 (b.nib sz (b.pos + b.fetched) 0 / 2)) (if sz = 4 then 1 else sz / 8) .read = .ok (ps, u) →
    Gives (.streamChunkFetch core k slot) s (fun t => SameBytes s t
      ∧ streamAt (t.strand core k).streams slot = some { b with fetched := b.fetched + 1 }
      ∧ t.strand core k = { s.strand core k with streams := (t.strand core k).streams }))
  ∧ (∀ (x : Strand) (k : Nat) (b : Stream), streamAt x.streams k = some b →
    (b.pos < b.count → ∃ c, streamAt (x.passSlot k).streams k = some c ∧ c.pos = b.pos + 1 ∧ (c.ended = true ↔ b.ended = true ∨ b.pos + 1 = b.count)
      ∧ (x.passSlot k).m = x.m)
    ∧ (b.count ≤ b.pos → b.dir = false → (x.passSlot k).m = x.m.set 0 0 ∧ (x.passSlot k).streams = x.streams))

/-! ## Matrix unit -/

/-- R246–R248, R263, R264: MMODE.enter takes matrix mode where it is free, and sets up the tiles it names; where another strand holds it or waits for it, the
strand waits, and MATRIX_MODE_GRANT gives it to the strand that waited longest. MMODE.leave gives it up. MZERO clears the partition's rows, MSTAT places the
status; without matrix mode both are ILLEGAL. -/
def Obligations.MatrixModeIsHeldByOneStrand : Prop :=
  ∀ (s : State), Map.sorted (s.coreOf s.cur.core).cells = true →
    let c := s.pcore s.cur.pid s.cur.core
    let mine := c.holder = some s.cur.strand
    let own (t : Acc) (key : Nat) : Prop := cellKey t (8 * s.myPart.k0 s.cur.core) 0 ≤ key ∧ key < cellKey t (8 * s.myPart.k0 s.cur.core + 8 * s.g) 0
    let cell (t : State) (key : Nat) : Nat := Map.getD (t.coreOf s.cur.core).cells key 0
    let pcore (t : State) : PCore := t.pcore s.cur.pid s.cur.core
    let past (t : State) : Prop := SameBytes s t ∧ t.me = { s.me with pc := s.me.pc + 8, vsx := 0 }
    (∀ tmask xm : Fin 4, xm.val ≠ 0 → s.feature 9 = false → Traps (.mmodeEnter tmask xm) cILLEGAL 0 s.cur.word s)
    ∧ (∀ tmask xm : Fin 4, (xm.val = 0 ∨ s.feature 9 = true) → mine ∨ (c.holder = none ∧ c.mmWait = []) →
      Gives (.mmodeEnter tmask xm) s (fun t => past t ∧ (pcore t).holder = some s.cur.strand
        ∧ (∀ a : Acc, if tmask.val.testBit a.val then
            (pcore t).accst.get a = c.accst.get a % 8 + (if xm.val.testBit a.val then 8 else 0)
              ∧ ∀ key, own a key → cell t key = 0
          else (pcore t).accst.get a = c.accst.get a)
        ∧ ∀ key, (∀ a : Acc, tmask.val.testBit a.val = true → ¬own a key) → cell t key = cell s key))
    ∧ (∀ tmask xm : Fin 4, (xm.val = 0 ∨ s.feature 9 = true) → ¬mine → (c.holder ≠ none ∨ c.mmWait ≠ []) →
      Gives (.mmodeEnter tmask xm) s (fun t => SameBytes s t ∧ t.me = { s.me with run := .waiting .mmode }
        ∧ (pcore t).mmWait = (if s.cur.strand ∈ c.mmWait then c.mmWait else c.mmWait ++ [s.cur.strand])
        ∧ (pcore t).holder = c.holder ∧ ∀ key, cell t key = cell s key))
    ∧ Gives .mmodeLeave s (fun t => past t ∧ (pcore t).holder = (if mine then none else c.holder) ∧ ∀ key, cell t key = cell s key)
    ∧ (∀ (core pid k : Nat) (ks : List Nat), (s.pcore pid core).holder = none → (s.pcore pid core).mmWait = k :: ks →
      Gives (.matrixModeGrant core pid) s (fun t => SameBytes s t
        ∧ t.pcore pid core = { s.pcore pid core with holder := some k, mmWait := ks }
        ∧ t.strand core k = { s.strand core k with run := .ready, readyAt := s.now }))
    ∧ (∀ (d : SReg) (a : Acc) (clr : Bool), if mine then
        Gives (.mzero a) s (fun t => past t ∧ ∀ key, cell t key = if own a key then 0 else cell s key)
        ∧ Gives (.mstat d a clr) s (fun t => SameBytes s t ∧ t.rS d = (if d.val = 0 then 0 else BitVec.ofNat 64 (c.accst.get a))
          ∧ (∀ r, r ≠ d → t.rS r = s.rS r) ∧ t.me = { s.me with s := t.me.s, pc := s.me.pc + 8, vsx := 0 }
          ∧ (pcore t).accst.get a = (if clr then c.accst.get a / 8 * 8 else c.accst.get a))
      else Traps (.mzero a) cILLEGAL 0 s.cur.word s ∧ Traps (.mstat d a clr) cILLEGAL 0 s.cur.word s)

/-- R251: TSHAPE grants min(M, 8g/c), min(N, 64/c) and what K the capacity leaves, all 0 where M or N is, in TSHP and in s_d. -/
def Obligations.TileShapesAreGranted : Prop :=
  ∀ (s : State) (d a b : SReg) (fmt : Fin 64) (ar : Fin 4),
    let c := 2 ^ ar.val
    let cap := s.vgroup * s.lanes * 256 / (c * s.width fmt.val)
    let m := min ((s.rS a).toNat % 256) (8 * s.g / c)
    let n := min ((s.rS a).toNat / 256 % 256) (64 / c)
    let k := min (s.rS b).toNat (cap / max m n)
    Gives (.tshape d a b fmt ar) s (fun t => OnlyMe s t ∧ t.rS d = (if d.val = 0 then 0 else t.me.tshp) ∧ (∀ r, r ≠ d → t.rS r = s.rS r)
      ∧ t.me = { s.me with s := t.me.s, tshp := t.me.tshp, pc := s.me.pc + 8, vsx := 0 }
      ∧ (m = 0 ∨ n = 0 → t.me.tshp = 0) ∧ t.me.tshp.toNat / 2 ^ 48 = 0
      ∧ (m ≠ 0 → n ≠ 0 → k < 2 ^ 32 → tshpM t.me.tshp = m ∧ tshpN t.me.tshp = n ∧ tshpK t.me.tshp = k))
      ∧ (fmt.val ∈ [1, 2, 3, 10, 11, 14, 15] ∨ 16 ≤ fmt.val ∧ fmt.val < 32 → ∀ next,
        decode (0x381 * 2 ^ 52 + d.val * 2 ^ 45 + a.val * 2 ^ 38 + b.val * 2 ^ 31 + fmt.val * 2 ^ 16 + ar.val * 2 ^ 14) next
          = .ok (.one (.tshape d a b fmt ar) 8))

/-- R86, R89, R252, R253, R256: MOP and MOPS add to each cell of the tile, in k order, the product of the elements that name it, rounded in FP32 mode and exact in
exact mode; cells outside the shape stay, and ACCSTAT takes the flags of the updates. MOPS leaves out the steps whose mask bit is clear, and its columns of A are dense. -/
def Obligations.OuterProductsUpdateTheTile : Prop :=
  ∀ (s : State) (o : MopOp) (oa ob : Opd) (p : Prep) (tab : Alg), Map.sorted (s.coreOf s.cur.core).cells = true →
    let x := s.me
    let c := 2 ^ o.ar.val
    let w := s.width o.fmta.val
    let fa := s.fmtC o.fmta.val
    let fb := s.fmtC o.fmtb.val
    let M := tshpM x.tshp
    let N := tshpN x.tshp
    let K := tshpK x.tshp
    let cap := s.vgroup * s.lanes * 256 / (c * w)
    let row0 := 8 * s.myPart.k0 s.cur.core
    let cell (t : State) (key : Nat) : Nat := Map.getD (t.coreOf s.cur.core).cells key 0
    let acc (t : State) : Nat := (t.pcore s.cur.pid s.cur.core).accst.get o.acc
    let step (v i j q pa k : Nat) : Nat × Nat :=
      let e := oa.get p.v (pa * M + i)
      let f := ob.get p.v (k * N + j)
      let y := if c = 1 then (mulX (fa.decode e) (fb.decode f)).1 else algTerm tab fa fb c w e f q
      if s.exm o.acc then cellAdd (fa.stepExp + fb.stepExp) v y else cellFma v y
    let updates (i : Instr) (cols : Nat) (pos : Nat → Option Nat) : Prop :=
      8 * s.g / c ≥ M → 64 / c ≥ N → cols * M ≤ cap → K * N ≤ cap →
      (∀ k < K, x.vsx ≤ k → ∀ pa, pos k = some pa → (∀ i < M, 96 + oa.base + (pa * M + i) / oa.per ∉ x.regErr)
        ∧ ∀ j < N, 96 + ob.base + (k * N + j) / ob.per ∉ x.regErr) →
      (M = 0 ∨ N = 0 ∨ (∀ k < K, x.vsx ≤ k → pos k = none) ∨ s.tileBad (inRows o.acc (s.physRow 0) c M (c * N)) = false) →
      -- component q of element (i, j) after the first n of the steps that are left
      let val (i j q n : Nat) : Nat := (List.range n).foldl (fun v n => match pos (x.vsx + n) with
        | some pa => (step v i j q pa (x.vsx + n)).1
        | none => v) (cell p.s (cellKey o.acc (row0 + c * i) (c * j + q)))
      Gives i s (fun t => SameBytes s t ∧ t.me = { p.slots.foldl Strand.passSlot p.loaded.me with pc := s.me.pc + 8, vsx := 0 }
        ∧ (∀ i < M, ∀ j < N, ∀ q < c, cell t (cellKey o.acc (row0 + c * i) (c * j + q)) = val i j q (K - x.vsx))
        ∧ (∀ b, (acc t).testBit b = true ↔ (acc s).testBit b = true ∨ ∃ i < M, ∃ j < N, ∃ q < c, ∃ n < K - x.vsx, ∃ pa,
          pos (x.vsx + n) = some pa ∧ (step (val i j q n) i j q pa (x.vsx + n)).2.testBit b = true)
        ∧ (∀ key, (∀ i < M, ∀ j < N, ∀ q < c, key ≠ cellKey o.acc (row0 + c * i) (c * j + q)) → cell t key = cell p.s key))
    (s.pcore s.cur.pid s.cur.core).holder = some s.cur.strand → w = s.width o.fmtb.val →
    s.opd o.a.val (c * w) (c * w) = some oa → s.opd o.b.val (c * w) (c * w) = some ob →
    s.prep x x.vl [oa, ob] none [oa.want o.fmta.val o.ar.val, ob.want o.fmtb.val o.ar.val] false .step = .ok p → p.stop = none →
    s.cur.limit = none →
    (c ≠ 1 → tableFor s (vget p.v oa.base).alg o.ar.val = some tab) → (s.exm o.acc = true → exactEligible fa fb = true) →
    updates (.mop o) K some
      ∧ ∀ mk : MReg, updates (.mops o mk) ((List.range K).filter (fun k => (x.m.get mk).testBit k)).length
        (fun k => if (x.m.get mk).testBit k then some ((List.range k).filter (fun i => (x.m.get mk).testBit i)).length else none)

/-- R90, R250, R258–R262, R265, R266: MDRAIN places rounded cells, leaves them, and sets INX where it rounds; MFILL sets cells; MSCL scales the partition's rows by a power of two
and sets OVF where a cell overflows;
MLD and MLDP place a panel of lane memory, and ALGLD loads a table for the partition. -/
def Obligations.TilesAreMovedAndScaled : Prop :=
  ∀ (s : State), Map.sorted (s.coreOf s.cur.core).cells = true →
    let x := s.me
    let N := tshpN x.tshp
    let row0 := 8 * s.myPart.k0 s.cur.core
    let cell (t : State) (key : Nat) : Nat := Map.getD (t.coreOf s.cur.core).cells key 0
    let mine := (s.pcore s.cur.pid s.cur.core).holder = some s.cur.strand
    let acc (t : State) (a : Acc) : Nat := (t.pcore s.cur.pid s.cur.core).accst.get a
    (∀ (o : DrainOp) (od : Opd) (p : Prep),
      let c := 2 ^ o.ar.val
      let w := s.width o.t.val
      let i0 := (s.rS o.b).toNat % 256
      let R := (s.rS o.b).toNat / 256 % 256
      mine → s.rndAllowed o.rnd.val = true → s.opd o.d.val (c * w) (c * w) = some od → c * (i0 + R) ≤ 8 * s.g →
      R * N ≤ s.groupCap o.t.val o.ar.val → s.tileBad (inRows o.acc (s.physRow (c * i0)) c R (c * N)) = false →
      s.prep x x.vl [] (some od) [] false .step = .ok p → slotsIn x.streams [od] = [] →
      ∃ (u : State) (f : Nat → Nat), u.me = s.me ∧ u.mem = s.mem ∧ (∀ key, cell u key = cell s key)
        ∧ PutsVector (.mdrain o) s { p with s := u } 8 od o.t.val o.ar.val o.alg.val (· < R * N) (fun e => (f e, 0))
        ∧ (let comp (e q : Nat) : Nat × Nat :=
            drainCell (s.exm o.acc) (s.fmtC o.fa.val) (s.fmtC o.fb.val) (s.fmtC o.t.val) (s.rmode o.rnd.val)
              (srDraw x.seed x.sbase e) (cell s (cellKey o.acc (row0 + c * (i0 + e / N)) (c * (e % N) + q)))
          c * N ≤ 64 → (∀ e < R * N, f e = packBits w ((List.range c).map (fun q => (comp e q).1)))
            ∧ ∀ b, (acc u o.acc).testBit b = true ↔ (acc s o.acc).testBit b = true ∨ ∃ e < R * N, ∃ q < c, (comp e q).2.testBit b = true))
    ∧ (∀ (o : FillOp) (oa : Opd) (p : Prep),
      let c := 2 ^ o.ar.val
      let w := s.width o.src.val
      let i0 := (s.rS o.b).toNat % 256
      let R := (s.rS o.b).toNat / 256 % 256
      let key (e q : Nat) : Nat := cellKey o.acc (row0 + c * i0 + c * (e / N)) (c * (e % N) + q)
      mine → s.opd o.a.val (c * w) (c * w) = some oa → c * (i0 + R) ≤ 8 * s.g → R * N ≤ s.groupCap o.src.val o.ar.val →
      s.prep x x.vl [oa] none [{ oa.want o.src.val o.ar.val with anyAlg := decide (c = 1) }]
        (decide (o.src.val ≠ (if s.exm o.acc then 8 else 1))) .step = .ok p → p.stop = none →
      (c = 1 ∨ (vget x.v oa.base).alg = 0) → (∀ e < R * N, 96 + oa.base + e / oa.per ∉ x.regErr) →
      Gives (.mfill o) s (fun t => SameBytes s t ∧ t.me = { p.slots.foldl Strand.passSlot p.loaded.me with pc := x.pc + 8, vsx := 0 } ∧ t.pcores = s.pcores
        ∧ (c * N ≤ 64 → ∀ e < R * N, ∀ q < c, cell t (key e q) = fillCell (s.exm o.acc) (comp w q (oa.get p.v e)))
        ∧ (∀ k, (∀ e < R * N, ∀ q < c, k ≠ key e q) → cell t k = cell p.s k)))
    ∧ (∀ (a : Acc) (r : SReg),
      let n := (BitVec.ofNat 8 (s.rS r).toNat).toInt
      let own (key : Nat) : Prop := cellKey a row0 0 ≤ key ∧ key < cellKey a (row0 + 8 * s.g) 0
      mine → (s.exm a = true → 0 ≤ n) → s.tileBad (s.ownCell a) = false →
      Gives (.mscl a r) s (fun t => SameBytes s t ∧ t.me = { x with pc := x.pc + 8, vsx := 0 }
        ∧ (∀ b, (acc t a).testBit b = true ↔ (acc s a).testBit b = true ∨ ∃ key, own key ∧ (Map.get? (s.coreOf s.cur.core).cells key).isSome = true
          ∧ (scaleCell (s.exm a) n (cell s key)).2.testBit b = true)
        ∧ ∀ key, cell t key = if own key ∧ (Map.get? (s.coreOf s.cur.core).cells key).isSome = true then (scaleCell (s.exm a) n (cell s key)).1
          else cell s key))
    ∧ (∀ (o : MldOp) (gang : Bool) (od : Opd) (p : Prep),
      let c := 2 ^ o.ar.val
      let w := s.width o.fmt.val
      let K := tshpK x.tshp
      let n := if o.dir then tshpM x.tshp else N
      let base := s.rS o.a
      let place (e : Nat) : Nat × Nat := mldPlace o.dir ((s.rS o.b).toNat % 64) ((s.rS o.b).toNat / 64 % 64) n e
      let r := memLoop x 0 (fun e t =>
        let off := (64 * (place e).1 + c * (place e).2) * w / 4
        if 2 ^ 22 ≤ base.toNat % 2 ^ 22 + off / 2 then
          .error (.trap cSPACE (effLocal s.cur.core 1 o.loc (base + BitVec.ofNat 64 (off / 2))) (memInfo 1 .read))
        else match t.elemLoad true 1 o.loc (2 * (base.toNat : Int) + (off : Nat)) (c * w) with
        | .error f => .error f
        | .ok (v, ps, t1) => .ok ⟨some v, false, ps, t1⟩) (K * n - x.vsx) x.vsx [] [] [] p.s
      s.opd o.d.val (c * w) (c * w) = some od → (0 < K * n → (place (K * n - 1)).1 < 64 ∧ (place (K * n - 1)).2 < 64 / c) →
      K * n ≤ s.groupCap o.fmt.val o.ar.val → s.cur.limit = none → s.prep x x.vl [] (some od) [] false .step = .ok p → slotsIn x.streams [od] = [] → base.toNat % 256 = 0 →
      (gang = true → (namedCore s.cur.core o.loc (bits base.toNat 31 22)).map clusterOf = some (clusterOf s.cur.core)) → r.stop = none →
      AccessFrame p.s r.s ∧ PutsVector (if gang then .mldp o else .mld o) s { p with s := r.s.requestVec o.slk r.ps false } (slackBytes o.slk) od
        o.fmt.val o.ar.val o.alg.val (fun e => x.vsx ≤ e ∧ e < K * n) (fun e => ((r.outs.getD (e - x.vsx) none).getD 0, 0)))
    ∧ (∀ (o : AlgldOp) (bs : List Byte) (u : State) (tab : Alg),
      let ea := s.rS o.a + o.disp.signExtend 64
      s.feature 11 = true → ea.toNat % 128 = 0 → s.load true o.slk o.sp.val o.loc ea 128 = .ok (bs, u) → algOf bs = some tab →
      Gives (.algld o) s (fun t => SameBytes s t ∧ t.me = { x with pc := x.pc + BitVec.ofNat 64 (slackBytes o.slk), vsx := 0 }
        ∧ (∀ j : Fin 4, t.myPart.alg.get j = if j = o.n then some tab else s.myPart.alg.get j)))

/-! ## Engines -/

/-- R124, R125, R271–R275, R279, R282, R288–R292: COPY and SEQGO drain the store buffer (the model's choice, log 63) and start a transfer: its chunk mask is cleared and bound, its tag is
entered, its status destination is pending. They wait for a pending destination and a free entry, and raise ILLEGAL, ALIGN or SPACE as R275 says. SEQ
writes a level and waits, as SEQGO does, while the slot runs; SEQSTOP stops the run with code 0xF0. A slot beyond g is ILLEGAL. -/
def Obligations.TransfersStart : Prop :=
  ∀ (s : State) (d a b : SReg) (slot level : Fin 8) (countM1 : BitVec 32),
    let x := s.me
    let key := s.myPart.k0 s.cur.core + slot.val
    let q := s.seqSlot s.cur.core key
    let waits (w : Wait) (i : Instr) : Prop := Gives i s (fun t => t = s.setMe { x with run := .waiting w })
    let starts (i : Instr) (op : XferOp) (bar : Word) (bytes n : Nat) (e : Nat → Xfer) (kind : AgentKind) (run : State → Prop) : Prop :=
      let tooMany := op.cm.val ≠ 0 ∧ 4096 * s.g < n
      let place := lmPlace s.myPart s.cur.core op.bloc bar 8
      let at_ := effLocal s.cur.core 1 op.bloc bar
      (x.pendStat.getLsbD d.val = true → waits .status i)
      ∧ (x.pendStat.getLsbD d.val = false → 64 ≤ s.outstanding x.uid → waits .entry i)
      ∧ (x.pendStat.getLsbD d.val = false → s.outstanding x.uid < 64 →
        (tooMany → Traps i cILLEGAL 0 s.cur.word s)
        ∧ (¬tooMany → op.be = true → bar.toNat % 8 ≠ 0 → Traps i cALIGN at_ (memInfo 1 .atomic) s)
        ∧ (¬tooMany → op.be = true → bar.toNat % 8 = 0 → place = none → Traps i cSPACE at_ (memInfo 1 .atomic) s)
        ∧ (¬tooMany → (op.be = true → bar.toNat % 8 = 0 ∧ place.isSome = true) →
          Gives i s (fun t => OnlyStores x.stores s t ∧ run t
            ∧ t = { s with mem := t.mem, memKey := t.memKey, poison := t.poison, strands := t.strands, agents := t.agents, xfers := t.xfers
                           fresh := s.fresh + 1, cores := t.cores }
            ∧ t.xfers = Map.set s.xfers s.fresh (e (if op.be then place.getD 0 else 0))
            ∧ (∃ g, Map.get? t.agents s.fresh = some g ∧ g.kind = kind ∧ g.issuer = x.uid ∧ g.region = 0)
            ∧ (∀ id, id ≠ s.fresh → Map.get? t.agents id = Map.get? s.agents id)
            ∧ (∀ k, k ≠ skey s.cur.core s.cur.strand → Map.get? t.strands k = Map.get? s.strands k)
            ∧ t.me = { x with m := t.me.m, binds := t.me.binds, ctb := t.me.ctb, cts := t.me.cts, pend := t.me.pend, stores := [], vsx := 0
                              pc := x.pc + BitVec.ofNat 64 bytes, pendStat := if d.val = 0 then x.pendStat else x.pendStat ||| (1 : Word) <<< d.val }
            ∧ (∀ r : MReg, if r = op.cm ∧ r.val ≠ 0 then t.me.m.get r = x.m.get r / 2 ^ n * 2 ^ n ∧ t.me.binds.get r = some s.fresh
              else t.me.m.get r = x.m.get r ∧ t.me.binds.get r = x.binds.get r)
            ∧ ∀ n : Fin 64, if op.te = true ∧ n = op.tag then
                t.me.ctb.getLsbD n.val = false ∧ t.me.pend.get n = x.pend.get n + 1 ∧ t.me.cts.get n = (if x.pend.get n = 0 then 0 else x.cts.get n)
              else t.me.ctb.getLsbD n.val = x.ctb.getLsbD n.val ∧ t.me.pend.get n = x.pend.get n ∧ t.me.cts.get n = x.cts.get n)))
    (∀ op : XferOp, starts (.copy d a b op) op (s.rS op.breg) 16 (copyChunks op)
      (fun da => ⟨x.uid, s.cur.core, s.cur.strand, s.cur.pid, x.task, op, s.rS a, s.rS (nextReg a), s.rS b, s.rS (nextReg b), false, none, [], [],
        [], da, d, s.issuedSlack (.lit op.slit), 1, 0, none, 0, false, [], none,
        [s.issuedSlack (.lit op.slit)], false, [], []⟩) .transfer (fun t => t.cores = s.cores))
    ∧ (s.g ≤ slot.val → Traps (.seqLevelWrite a b level slot countM1) cILLEGAL 0 s.cur.word s ∧ Traps (.seqstop slot) cILLEGAL 0 s.cur.word s
      ∧ ∀ f, Traps (.seqgo d a b slot f) cILLEGAL 0 s.cur.word s)
    ∧ (slot.val < s.g → q.run.isSome = true → waits .entry (.seqLevelWrite a b level slot countM1) ∧ ∀ f, waits .entry (.seqgo d a b slot f))
    ∧ (slot.val < s.g → q.run = none →
      (level.val < 6 → Gives (.seqLevelWrite a b level slot countM1) s (fun t => SameBytes s t ∧ t.me = { x with pc := x.pc + 16, vsx := 0 }
        ∧ (let r := t.seqSlot s.cur.core key
          r = { q with levels := r.levels }
            ∧ ∀ l : Fin 6, r.levels.get l = if l.val = level.val then ⟨countM1.toNat + 1, s.rS a, s.rS b⟩ else q.levels.get l)
        ∧ ∀ k, k ≠ key → t.seqSlot s.cur.core k = s.seqSlot s.cur.core k))
      ∧ (∀ sl, q.tmpl = none → Traps (.seqgo d a b slot (.full sl)) cILLEGAL 0 s.cur.word s)
      ∧ (let go (i : Instr) (m : Template) (slk : Slack) : Prop :=
          let counts := q.levels.toList.map (·.count)
          starts i m.x (BitVec.ofNat 64 m.bar) (slackBytes slk) (copiesOf counts * copyChunks m.x)
            (fun da => ⟨x.uid, s.cur.core, s.cur.strand, s.cur.pid, x.task, m.x, s.rS a, m.ss, s.rS b, m.ds, m.ordered, some key, counts,
              q.levels.toList.map (·.ss), q.levels.toList.map (·.ds), da, d, s.issuedSlack slk, 0, 0, none, 0, false, [], none, [], false, [], []⟩) .seqRun
            (fun t => t.seqSlot s.cur.core key = { q with run := some s.fresh, tmpl := some m }
              ∧ ∀ k, k ≠ key → t.seqSlot s.cur.core k = s.seqSlot s.cur.core k)
        (∀ sl m, q.tmpl = some m → go (.seqgo d a b slot (.full sl)) m (.cls sl))
          ∧ ∀ ordered op, go (.seqgo d a b slot (.ext ordered op))
            ⟨op, s.rS (nextReg a), s.rS (nextReg b), ordered, (s.rS op.breg).toNat⟩ (.lit op.slit)))
    ∧ (slot.val < s.g → Gives (.seqstop slot) s (fun t =>
      let y : Strand := { x with pc := x.pc + 8, vsx := 0 }
      t.me.pc = x.pc + 8 ∧ t.me.vsx = 0
      ∧ (q.run = none → SameBytes s t ∧ t = s.setMe y)
      ∧ ∀ tid e, q.run = some tid → Map.get? s.xfers tid = some e →
        let ended := e.complete = true ∨ e.stop.isSome = true ∨ e.next = copiesOf e.counts * copyChunks e.x
        (∀ k, k ≠ tid → Map.get? t.xfers k = Map.get? s.xfers k)
        ∧ (ended → SameBytes s t ∧ t = s.setMe y)
        ∧ (¬ended → ∃ z, Map.get? t.xfers tid = some z ∧ z.stop = some (0xF0, false) ∧ z.next = e.next ∧ z.complete = false ∧ z.held = [])
        ∧ (¬ended → e.held = [] → SameBytes s t ∧ t = { s.setMe y with xfers := t.xfers }
          ∧ Map.get? t.xfers tid = some { e with stop := some (0xF0, false), seen := [] })))

/-- R276–R279, R282, R285, R287, R291: a run emits its copies in order, at most two in flight. The next chunk copies its bytes, sets its mask bit while the mask is
bound to the transfer, and arrives at the barrier; a chunk that fails a check ends the transfer with that cause and side and writes nothing. When nothing is left, the
transfer makes its final arrival, leaves its tag and writes its status. That chunks are copied in order is the model's choice (R272 allows any order), as is which version a
source byte in a block that the transfer itself has overwritten is of, the older one (log 40); and that each completion is an event of its own (log 45). -/
def Obligations.TransfersRunAndComplete : Prop :=
  ∀ (s : State) (tid : Nat) (x : Xfer), Map.get? s.xfers tid = some x → Memory.wf s.mem = true → s.present x = true →
    let y := s.strand x.core x.strand
    let total := copiesOf x.counts * copyChunks x.x
    let w : Who := ⟨x.pid, (s.part x.pid).slot, x.core⟩
    let c := x.chunk x.next
    let live := x.complete = false ∧ x.stop = none
    let plain (da : Nat) (t : State) : Prop := ∀ i < 8, t.keyAt (da + i) = none
    let waits := if (x.next + 1) % copyChunks x.x = 0 then x.waits.tail else x.waits
    (live → x.stalled = false → x.slot.isSome = true → x.emitted < copiesOf x.counts → x.emitted < x.next / copyChunks x.x + 2 →
      Gives (.sequencerCopyEmit tid) s (fun t =>
        t = { s with xfers := Map.set s.xfers tid { x with emitted := x.emitted + 1, waits := x.waits ++ [x.slack] } }))
    ∧ (live → x.stalled = false → x.held = [] → x.next < total → x.next / copyChunks x.x < x.emitted → s.queueHead tid x = true →
      (∀ p q u v, s.chunkSide tid w x.x.ssp.val x.x.sloc c.src c.n .read = .ok ([p], u) → u.chunkSide tid w x.x.dsp.val x.x.dloc c.dst c.n .write = .ok ([q], v) →
        -- the bytes moved: those of the source, but as they stood in the blocks that earlier chunks saw or overwrote; each copy of an ORDERED run reads anew (R127)
        let raw := (readPieces v [p]).1
        let bs := seenBytes x.seen [p] raw
        let saw (b : SeenBlock) (u : State) : Prop := ∀ i < 32, u.keyAt (32 * b.da + i) = none ∨ u.keyAt (32 * b.da + i) = b.mat →
          b.bytes[i]? = some (Memory.read u.mem (32 * b.da + i))
        let keeps (seen : List SeenBlock) : Prop :=
          (∀ b ∈ seen, (∃ o ∈ x.seen, o.da = b.da ∧ o.mat = b.mat ∧ o.bytes = b.bytes) ∨ saw b s)
          ∧ (x.ordered = true → (x.next + 1) % copyChunks x.x = 0 → seen = [])
          ∧ (x.next + 1 < total → x.ordered = false ∨ (x.next + 1) % copyChunks x.x ≠ 0 → ∀ i < q.n, ∃ b ∈ seen, b.own = true ∧ b.da = (q.loc.da + i) / 32 ∧ b.mat = q.loc.mat)
        ((∀ o ∈ x.seen, ∀ i < p.n, o.da = (p.loc.da + i) / 32 → o.mat ≠ p.loc.mat) → raw.length = p.n → bs = raw)
        ∧ ((∀ b ∈ edgeBlocks c.src c.n [p], x.later x.next Chunk.src b.1 = false) →
        (∀ b ∈ edgeBlocks c.dst c.n [q], x.later x.next Chunk.dst b.1 = false) →
        Gives (.chunkWritten tid) s (fun t =>
          (x.x.be = false → StoresAt q.loc.mat q.loc.da bs s t
            ∧ ∃ seen, keeps seen ∧ Map.get? t.xfers tid = some { x with next := x.next + 1, waits := waits, seen := seen })
          ∧ (x.x.be = true → (x.bar + 8 ≤ q.loc.da ∨ q.loc.da + c.n ≤ x.bar) → plain x.bar s →
            (q.loc.mat = none ∨ (x.bar + 7) / 64 < q.loc.da / 64 ∨ (q.loc.da + c.n - 1) / 64 < x.bar / 64) →
            (∀ i (h : i < bs.length), Memory.read t.mem (q.loc.da + i) = bs[i])
            ∧ Arrives (barWord s x.bar) c.n false (barWord t x.bar)
            ∧ (∀ a, (a < q.loc.da ∨ q.loc.da + bs.length ≤ a) → (a < x.bar ∨ x.bar + 8 ≤ a) →
              s.keyAt a = none ∨ s.keyAt a = q.loc.mat ∨ a / 64 < q.loc.da / 64 ∨ (q.loc.da + bs.length - 1) / 64 < a / 64 →
              Memory.read t.mem a = Memory.read s.mem a)
            ∧ ∃ seen, keeps seen ∧ Map.get? t.xfers tid = some { x with
              next := x.next + 1, waits := waits, seen := seen, arrived := (x.next, Map.getD s.barFlips x.bar 0) :: x.arrived })
          ∧ (∀ k, k ≠ tid → Map.get? t.xfers k = Map.get? s.xfers k)
          ∧ t.strand x.core x.strand = { y with m := (t.strand x.core x.strand).m }
          ∧ (∀ r : MReg, (t.strand x.core x.strand).m.get r =
            if r = x.x.cm ∧ r.val ≠ 0 ∧ y.binds.get r = some tid then y.m.get r ||| 2 ^ x.next else y.m.get r))))
      ∧ (∀ cause a i, s.chunkSide tid w x.x.ssp.val x.x.sloc c.src c.n .read = .error (.trap cause a i) →
        Gives (.chunkWritten tid) s (fun t => SameBytes s t ∧ t.strands = s.strands ∧ Map.get? t.xfers tid = some { x with stop := some (cause, false), seen := [] }))
      ∧ (∀ ps u cause a i, s.chunkSide tid w x.x.ssp.val x.x.sloc c.src c.n .read = .ok (ps, u) →
        u.chunkSide tid w x.x.dsp.val x.x.dloc c.dst c.n .write = .error (.trap cause a i) →
        Gives (.chunkWritten tid) s (fun t => SameBytes s t ∧ t.strands = s.strands ∧ Map.get? t.xfers tid = some { x with stop := some (cause, true), seen := [] })))
    ∧ (x.complete = false → (x.next = total ∨ x.stop.isSome = true) → s.quiet (16 + tid) = true →
      ∃ st : Word, (x.stop = none → st = BitVec.ofNat 64 (copiesOf x.counts * copyBytes x.x % 2 ^ 48))
        ∧ (∀ code side, x.stop = some (code, side) → code < 256 → st.toNat / 2 ^ 56 = code ∧ st.getLsbD 55 = side ∧ st.toNat % 2 ^ 55 = x.before x.next % 2 ^ 48)
        ∧ Gives (.transferComplete tid) s (fun t =>
          let z := t.strand x.core x.strand
          (x.x.be = true → x.stop.isSome = true → plain x.bar s →
            (∃ v, v < 2 ^ 64 ∧ Arrives (barWord s x.bar) (x.before total - x.before x.next) true v ∧ StoresAt none x.bar (leBytes 8 v) s t)
              ∧ Map.get? t.xfers tid = some { x with complete := true, final := some (Map.getD s.barFlips x.bar 0) })
          ∧ (x.x.be = false ∨ x.stop = none → SameBytes s t ∧ Map.get? t.xfers tid = some { x with complete := true, final := none })
          ∧ (∀ k, k ≠ tid → Map.get? t.xfers k = Map.get? s.xfers k)
          ∧ (∀ k, k ≠ skey x.core x.strand → Map.get? t.strands k = Map.get? s.strands k)
          ∧ (∀ key, x.slot = some key → (s.seqSlot x.core key).run = some tid → (t.seqSlot x.core key).run = none)
          ∧ z = { y with s := z.s, pend := z.pend, cts := z.cts, ctb := z.ctb, exs := z.exs, pendSlackex := z.pendSlackex
                         pendStat := if x.stat.val = 0 then y.pendStat else y.pendStat &&& ~~~((1 : Word) <<< x.stat.val) }
          ∧ (∀ r : SReg, z.rS r = if r = x.stat ∧ r.val ≠ 0 then st else y.rS r)
          ∧ (∀ n : Fin 64, if x.x.te = true ∧ n = x.x.tag then
              z.pend.get n = y.pend.get n - 1 ∧ z.ctb.getLsbD n.val = (decide (y.pend.get n ≤ 1) || y.ctb.getLsbD n.val)
                ∧ z.cts.get n = (if statusCode (y.cts.get n) ≠ 0 then y.cts.get n
                  else if statusCode st = 0 then BitVec.ofNat 64 (((y.cts.get n).toNat + st.toNat) % 2 ^ 48) else st)
            else z.pend.get n = y.pend.get n ∧ z.ctb.getLsbD n.val = y.ctb.getLsbD n.val ∧ z.cts.get n = y.cts.get n)
          ∧ z.exs = (if x.late = 0 then y.exs else Nat.min (y.exs + x.late) (2 ^ 32 - 1))))

/-- R270, R280–R283, R302: CTWALL waits for every tag of its mask and CTWANY for one of them, whose lowest it places; both are acquires that observe the completed transfers of
the tags they waited for. CTFFR, CTST and CTCLR do not wait. TAG_WAIT_WAKE lets a strand in an engine's wait issue again. DGST places a digest, 0 outside a DET launch.
The model's choices are that CTWALL and CTWANY drain the store buffer before they acquire (log 63), and which waits the event TAG_WAIT_WAKE ends (log 36). -/
def Obligations.TagsAndDigests : Prop :=
  (∀ (s : State) (d a : SReg),
    let x := s.me
    let mask := s.rS a
    let got := x.ctb &&& mask
    let waits (i : Instr) : Prop := Gives i s (fun t => t = s.setMe { x with run := .waiting .tags })
    let past (v : Option Word) (seen : Word) (t : State) : Prop := OnlyStores x.stores s t
      ∧ t.me = { x with s := t.me.s, stores := [], pc := x.pc + 8, vsx := 0 }
      ∧ (∀ r : SReg, t.rS r = match v with
        | some v => if r = d ∧ r.val ≠ 0 then v else s.rS r
        | none => s.rS r)
      ∧ (Map.sorted s.xfers = true → Map.sorted s.agents = true → Map.get? s.xfers x.uid = none →
        Synced 1 s t ∧ ∀ tid e, Map.get? s.xfers tid = some e →
          Map.get? t.xfers tid = if e.uid = x.uid ∧ e.complete = true ∧ e.x.te = true ∧ seen.getLsbD e.x.tag.val = true then none else some e)
    (if got = mask then Gives (.ctwall a) s (past none mask) else waits (.ctwall a))
    ∧ (if mask = 0 then Gives (.ctwany d a) s (past (some (BitVec.allOnes 64)) 0)
      else if got = 0 then waits (.ctwany d a)
      else ∀ n < 64, got.getLsbD n = true → (∀ i < n, got.getLsbD i = false) → Gives (.ctwany d a) s (past (some (BitVec.ofNat 64 n)) got))
    ∧ (got = 0 → Gives (.ctffr d a) s (SetsS d (BitVec.allOnes 64) 8 s))
    ∧ (∀ n < 64, got.getLsbD n = true → (∀ i < n, got.getLsbD i = false) → Gives (.ctffr d a) s (SetsS d (BitVec.ofNat 64 n) 8 s))
    ∧ Gives (.ctclr a) s (fun t => OnlyMe s t ∧ t.me = { x with cts := t.me.cts, ctb := x.ctb &&& ~~~mask, pc := x.pc + 8, vsx := 0 }
      ∧ ∀ n : Fin 64, t.me.cts.get n = if mask.getLsbD n.val = true ∧ x.pend.get n = 0 then 0 else x.cts.get n)
    ∧ Gives (.ctst d a) s (SetsS d (x.cts.get (Fin.ofNat 64 mask.toNat)) 8 s)
    ∧ (∀ sel : Fin 4,
      let dgst (v : Word) : Prop := Gives (.dgst d sel) s (SetsS d v 8 s)
      (s.myLaunch = none → dgst 0)
      ∧ ∀ l, s.myLaunch = some l → (l.det = false → dgst 0) ∧ (l.det = true → (sel.val = 0 → dgst x.digest)
        ∧ (sel.val = 1 → dgst (if l.digv then l.digest else 0)) ∧ (sel.val = 2 → dgst (BitVec.ofNat 64 x.nstores)))))
  ∧ (∀ (s : State) (core k : Nat),
    (∀ w, (s.strand core k).run = .waiting w → w ∈ [.tags, .status, .entry, .slices, .collw, .exit] ∨ (∃ da, w = .bword da) ∨ (∃ cs, w = .mcast cs) →
      Gives (.tagWaitWake core k) s (fun t => t = s.setStrand core k { s.strand core k with run := .ready, readyAt := s.now }))
    ∧ ((∀ w, (s.strand core k).run ≠ .waiting w) → Gives (.tagWaitWake core k) s (fun t => t = s)))

/-- R284–R286: BINIT, which checks its operand first, gives the word phase 0 and its TARGET; BARR places the old word and arrives with s_b[30:0] bytes; BTRY compares the phase; BWAIT waits for it, and its
read that finds it is an acquire. That BINIT, BARR and BWAIT, also one whose read fails, drain the store buffer first is the model's choice (log 63). -/
def Obligations.BarriersCountArrivals : Prop :=
  ∀ (s : State) (d a b : SReg) (loc : Bool) (scope sl : Fin 8), Memory.wf s.mem = true →
    let x := s.me
    let ea := s.rS a
    let op := s.rS b
    let target := op.toNat % 2 ^ 30
    let at_ := effLocal s.cur.core 1 loc ea
    let place := lmPlace s.myPart s.cur.core loc ea 8
    let bad (c : Nat) : Prop :=
      (target ≠ 0 → Traps (.binit a b loc sl) c at_ (memInfo 1 .write) s) ∧ Traps (.barr d a b loc sl) c at_ (memInfo 1 .atomic) s
        ∧ Traps (.bwait d a b loc scope sl) c at_ (memInfo 1 .read) s ∧ Traps (.btry d a b loc sl) c at_ (memInfo 1 .read) s
    let sets (v : Word) (t : State) : Prop := ∀ r : SReg, t.rS r = if r = d ∧ r.val ≠ 0 then v else s.rS r
    (target = 0 → Traps (.binit a b loc sl) cILLEGAL 0 s.cur.word s)
    ∧ (ea.toNat % 8 ≠ 0 → bad cALIGN) ∧ (ea.toNat % 8 = 0 → place = none → bad cSPACE)
    ∧ (∀ da, ea.toNat % 8 = 0 → place = some da → OnlyStores x.stores s s.drain
      ∧ (target ≠ 0 → Gives (.binit a b loc sl) s (fun t => StoresAt none da (leBytes 8 (target * 2 ^ 31)) s.drain t ∧ MemFrame s t ∧ t.agents = s.agents
        ∧ t.me = { x with stores := [], pc := x.pc + 8, vsx := 0 }))
      ∧ (s.poisoned da 8 = none → (∀ i < 8, s.keyAt (da + i) = none) →
        let own := leNat (s.loadBytes da none 8).1
        Gives (.btry d a b loc sl) s (fun t => SameBytes s t ∧ AccessFrame (s.setMe t.me) t ∧ sets (if own.testBit 63 = op.getLsbD 0 then 1 else 0) t
          ∧ t.me = { x with s := t.me.s, pc := x.pc + 8, vsx := 0 }))
      ∧ (s.drain.poisoned da 8 = none → (∀ i < 8, s.drain.keyAt (da + i) = none) →
        let w := barWord s.drain da
        (∃ v, v < 2 ^ 64 ∧ Arrives w (op.toNat % 2 ^ 31) false v
          ∧ Gives (.barr d a b loc sl) s (fun t => StoresAt none da (leBytes 8 v) s.drain t ∧ MemFrame s { t with barFlips := s.barFlips } ∧ t.agents = s.agents
            ∧ sets (BitVec.ofNat 64 w) t ∧ t.me = { x with s := t.me.s, stores := [], pc := x.pc + 8, vsx := 0 }))
        ∧ (w.testBit 63 ≠ op.getLsbD 0 → Gives (.bwait d a b loc scope sl) s (fun t => SameBytes s.drain t ∧ MemFrame s t ∧ t.agents = s.agents
          ∧ t.me = { x with stores := [], run := .waiting (.bword da) }))
        ∧ (w.testBit 63 = op.getLsbD 0 → Gives (.bwait d a b loc scope sl) s (fun t => SameBytes s.drain t ∧ sets (BitVec.ofNat 64 w) t
          ∧ t.me = { x with s := t.me.s, stores := [], pc := x.pc + 8, vsx := 0 }
          ∧ ((∀ c ∈ s.xfers, c.2.uid = x.uid → c.2.x.be = true → c.2.bar ≠ da) → MemFrame s t ∧ Synced scope.val s t)
          ∧ (Map.sorted s.xfers = true → ∀ tid e, Map.get? s.xfers tid = some e → Map.get? t.xfers tid =
            if e.uid = x.uid ∧ e.x.be = true ∧ e.bar = da ∧ e.complete = true ∧ e.finalCounted (Map.getD s.barFlips da 0) = true then none else some e)))))

/-- R293–R301: a multicast send does what the load does and puts the strip into the inbox of every member, and waits while one of them has four
or lacks free slices; a receive takes the oldest strip. COLL takes a free slot of
a known group; COLLW waits for the collectives of its mask, places their first failure, merges their flags and frees their slots. COLLECTIVE_COMPLETE refuses members that disagree and else writes
the result: the reduction of each element over the members in rank order, the concatenation of their sources, the share of the reduction that belongs to the member's rank, or the source of rank 0.
That COLL performs the older stores, how a contribution travels and what the event brings from the other packages are the model's choices (log 38); the order in which waiting strands get slices is
read from R28 as log 76 says. -/
def Obligations.MulticastAndCollectives : Prop :=
  (∀ (s : State) (o : McastOp) (u : VSetup), vmSetup (mcastLoad o) .unit false s.me s = .ok u →
    let cs := s.members ((s.rS o.b).toNat % 2 ^ 16)
    s.cur.strand < 8 → (∀ c ∈ cs, s.peer c < 8) →
    (∀ c ∈ cs, c ≠ s.cur.core ∧ s.myPart.owns c = true)
    ∧ (let full (c : Nat) : Prop := 4 ≤ (s.strand c (s.peer c)).inbox.length
      let lacks (c : Nat) : Prop := s.freeSlices s.cur.pid c < s.vgroup
        ∨ s.sliceTurn s.cur.pid c (skey s.cur.core s.cur.strand) (skey c (s.peer c)) = false
      let waits (lack : List Nat) : Prop := Gives (.mcastSend o) s (fun t => t = s.setMe { s.me with run := .waiting (.mcast lack) })
    ((∃ c ∈ cs, full c) → waits [])
    ∧ ((∀ c ∈ cs, ¬full c) → (∃ c ∈ cs, lacks c) → ∃ l, (∀ c, c ∈ l ↔ c ∈ cs ∧ lacks c) ∧ waits l)
    ∧ ((∀ c ∈ cs, ¬full c ∧ ¬lacks c) → ∀ v, mLoad (mcastLoad o) .unit s.me s = .ok v →
      ∃ t1, exec (.vld (mcastLoad o)) s = .next t1 ∧ Gives (.mcastSend o) s (fun t => t.mem = t1.mem ∧ t.me = t1.me
        ∧ (cs.Nodup → ∀ c ∈ cs, t.strand c (s.peer c) = { s.strand c (s.peer c) with inbox := (s.strand c (s.peer c)).inbox ++ [v.strip o] })
        ∧ t = { t1 with strands := t.strands, arbs := t.arbs }))))
  ∧ (∀ (s : State) (d : VNum) (fmt : Fin 64) (ar : Fin 4),
    let x := s.me
    let sz := s.size fmt.val ar.val
    (x.inbox = [] → Gives (.mcastRecv d fmt ar) s (fun t => t = s.setMe { x with run := .waiting (.mcast []) }))
    ∧ ∀ strip rest od p, x.inbox = strip :: rest → s.opd d.val sz sz = some od →
      (strip.vg ≠ x.vg → Traps (.mcastRecv d fmt ar) cILLEGAL 0 s.cur.word s)
      ∧ (strip.vg = x.vg → strip.fmt ≠ fmt.val → Traps (.mcastRecv d fmt ar) cFMTTAG 0 s.cur.word s)
      ∧ (strip.vg = x.vg → strip.fmt = fmt.val → strip.ar ≠ ar.val → Traps (.mcastRecv d fmt ar) cARITY 0 s.cur.word s)
      ∧ (strip.vg = x.vg → strip.fmt = fmt.val → strip.ar = ar.val → slotsIn x.streams [od] = [] → s.prep x x.vl [] (some od) [] = .ok p →
        p.stop = none →
        Gives (.mcastRecv d fmt ar) s (fun t => SameBytes s t ∧ t = { s with strands := t.strands, parts := t.parts }
          ∧ (∀ key, key ≠ skey s.cur.core s.cur.strand → Map.get? t.strands key = Map.get? s.strands key)
          ∧ (∀ q, t.part q = { s.part q with expansions := (t.part q).expansions })
          ∧ t.me = { x with v := t.me.v, inbox := rest, pc := x.pc + 8, vsx := 0 }
          ∧ (∀ k (h : k < strip.regs.length), d.val + k < 32 → vget t.me.v (d.val + k) = strip.regs[k])
          ∧ ∀ r, (r < d.val ∨ d.val + strip.regs.length ≤ r) → vget t.me.v r = vget x.v r)))
  ∧ (∀ (s : State) (o : CollOp),
    let x := s.me
    let n := match o.slk with | .cls _ => (s.rS o.d).toNat % 2 ^ 40 | .lit _ => o.count.toNat
    if s.feature 13 = true ∧ x.collSlots.get o.slot = none ∧ (Map.get? s.myPart.groups o.grp.toNat).isSome = true then
      Gives (.coll o) s (fun t => OnlyStores x.stores s t
        ∧ t.colls = Map.set s.colls s.fresh ⟨x.uid, s.cur.core, s.cur.strand, s.cur.pid, o.slot.val, o.kind.val, o.rop.val, o.fmt.val, o.grp.toNat, n, s.rS o.a, s.rS o.b, none,
          s.issuedSlack o.slk, false, s.myPart.slot⟩
        ∧ (∃ g, Map.get? t.agents s.fresh = some g ∧ g.kind = .collective ∧ g.issuer = x.uid)
        ∧ t = { s with mem := t.mem, memKey := t.memKey, poison := t.poison, strands := t.strands, agents := t.agents, colls := t.colls, arbs := t.arbs, fresh := s.fresh + 1 }
        ∧ t.me = { x with stores := [], pc := x.pc + BitVec.ofNat 64 (slackBytes o.slk), vsx := 0, collSlots := x.collSlots.set o.slot.val (some s.fresh) o.slot.isLt })
    else Traps (.coll o) cILLEGAL 0 s.cur.word s)
  ∧ (∀ (s : State) (d a : SReg), Map.sorted s.colls = true →
    let x := s.me
    let named (k : Fin 4) (cid : Nat) : Prop := (s.rS a).getLsbD k.val = true ∧ x.collSlots.get k = some cid
    let done (cid code fl : Nat) : Prop := ∃ c, Map.get? s.colls cid = some c ∧ c.done = some (code, fl)
    (s.feature 13 = false → Traps (.collw d a) cILLEGAL 0 s.cur.word s)
    ∧ (s.feature 13 = true → (∃ k cid, named k cid ∧ ∀ code fl, ¬done cid code fl) → Gives (.collw d a) s (fun t => t = s.setMe { x with run := .waiting .collw }))
    ∧ (s.feature 13 = true → (∀ k cid, named k cid → ∃ code fl, code < 256 ∧ done cid code fl) → (∀ j k cid, named j cid → named k cid → j = k) →
      ∃ v : Word, (∀ k : Fin 4, v.getLsbD k.val = true ↔ ∃ cid, named k cid)
        ∧ ((∀ k cid fl code, named k cid → done cid code fl → code = 0) → v.toNat < 16)
        ∧ (∀ k cid code fl, named k cid → done cid code fl → code ≠ 0 → (∀ j cid' c' f', j < k → named j cid' → done cid' c' f' → c' = 0) → v.toNat / 2 ^ 56 = code)
        ∧ Gives (.collw d a) s (fun t => SameBytes s t
          ∧ (∀ r : SReg, t.rS r = if r = d ∧ r.val ≠ 0 then v else s.rS r)
          ∧ (∀ b, t.me.fpflags.testBit b = true ↔ x.fpflags.testBit b = true ∨ ∃ k cid code fl, named k cid ∧ done cid code fl ∧ fl.testBit b = true)
          ∧ (∀ k : Fin 4, t.me.collSlots.get k = if (s.rS a).getLsbD k.val then none else x.collSlots.get k)
          ∧ t.me = { x with s := t.me.s, fpflags := t.me.fpflags, collSlots := t.me.collSlots, pc := x.pc + 8, vsx := 0 })))
  ∧ (∀ (s : State) (cid : Nat) (others : List Contribution) (c : Coll) (g : GroupEntry),
    Map.get? s.colls cid = some c → c.done = none → c.stalled = false → s.quietFor cid = true → (s.part c.pid).running = some c.ctx → Map.get? (s.part c.pid).groups c.grp = some g →
    let ends (code fl : Nat) (t : State) : Prop := t.colls = Map.set s.colls cid { c with done := some (code, fl) }
    let w : Who := ⟨c.pid, (s.part c.pid).slot, c.core⟩
    let f := (fmtOf (s.part c.pid).fmt c.fmt).getD (.int false 8)
    let es := f.width / 8
    let pm := g.members.length
    let agree := (∀ o ∈ others, o.kind = c.kind ∧ o.rop = c.rop ∧ o.fmt = c.fmt ∧ o.n = c.n ∧ o.members = g.members) ∧ others.length + 1 = pm ∧ ∀ r < pm, r ≠ g.rank → ∃ o ∈ others, o.rank = r
    (¬agree → Gives (.collectiveComplete cid others) s (fun t => SameBytes s t ∧ t.strands = s.strands ∧ ends 0xF3 0 t))
    ∧ (agree → ∀ sp dp u v, s.rangeSide cid w .read (rangePages c.src (c.srcBytes es pm g.rank)) = .ok (sp, u) →
      u.rangeSide cid w .write (rangePages c.dst (c.dstBytes es pm)) = .ok (dp, v) →
      let mine := (readPieces v sp).1
      let srcs := (List.range pm).map (fun r => if r = g.rank then mine else ((others.find? (fun o => o.rank == r)).map (·.data)).getD [])
      ((∃ o ∈ others, o.readable = false) → Gives (.collectiveComplete cid others) s (fun t => SameBytes s t ∧ ends 0xF3 0 t))
      ∧ ((∀ o ∈ others, o.readable = true) → ∃ out fl, Gives (.collectiveComplete cid others) s (fun t => ends 0 fl t ∧ t.strands = s.strands
          ∧ OnlyStores (storesOf dp out) s t ∧ (Memory.wf s.mem = true → ∀ q, dp = [q] → out.length = q.n → StoresAt q.loc.mat q.loc.da out s t))
        ∧ (c.kind = 1 → out = srcs.flatten ∧ fl = 0) ∧ (c.kind = 3 → out = srcs.headD [] ∧ fl = 0)
        ∧ (let red (e : Nat) : Nat × Nat := reduce ⟨f, .rne, false, false, 0, 0⟩ (ropOp c.rop) (srcs.map (fun bs => some (elemOf es e bs)))
          (c.kind = 0 → JoinsFlags fl (fun e => e < c.n) (fun e => (red e).2)
            ∧ (0 < es → ∀ e < c.n, elemOf es e out = (red e).1 % 2 ^ (8 * es)))
          ∧ (c.kind = 2 → JoinsFlags fl (fun e => e < c.n * pm) (fun e => (red e).2)
            ∧ (0 < es → ∀ e < c.n, elemOf es e out = (red (g.rank * c.n + e)).1 % 2 ^ (8 * es)))))))

/-! ## Advice -/

/-- R348–R361, R366: the advice instructions act on the advice context of their partition and core alone. h0 reads as 0 and discards writes. AWAIT drops the records of its id below its
occurrence, takes the next record of its id, matching or stale, resynchronises at another id, or waits. Actions are skipped once while STALE is set; they move the bias, the
priority, prefetches and residency within their budgets and change no byte of memory. The model's choices: the size of a line, which the budgets of APIN count in (log 21); what a
prefetch and a residency class act on, and which parts are dropped (log 46); and that bias and priority stay with the strand between tasks (log 54). -/
def Obligations.AdviceFollowsMarks : Prop :=
  ∀ (s : State),
    let sat (n k : Nat) : Nat := Nat.min (n + k) (2 ^ 32 - 1)
    let strand (s : State) (k : Nat) : Nat := s.myPart.k0 s.cur.core + k
    let queue (s : State) (k : Nat) : List MarkRec := (s.strand s.cur.core (strand s k)).marks
    let gives (o : Out) (P : State → Prop) : Prop := ∃ t, o = .next t ∧ P t
    -- the context goes on from a popped record of another id
    let resyncs (s : State) (c : Advice) (r : MarkRec) (k : Nat) (rs : List MarkRec) (t : State) : Prop :=
      match (Map.get? s.pricks c.bound).bind (fun p => (p.index.find? (fun e => e.1 == r.id)).map (·.2)) with
      | some b => t = (s.setQueue k rs).setAdv { c with cur := r, stale := false, apc := b, run := .running, cResync := sat c.cResync 1 }
      | none => t = (s.setQueue k rs).setAdv { c with run := .idle, cIdle := sat c.cIdle 1 }
    let awaits (s : State) (o : Out) (k id n : Nat) (d : HReg) : Prop :=
      let old : MarkRec → Bool := fun r => decide (r.id = id ∧ r.occ < n)
      let q := (queue s k).dropWhile old
      let gone := ((queue s k).takeWhile old).length
      let c : Advice := { s.adv with cDiscard := if gone = 0 then s.adv.cDiscard else sat s.adv.cDiscard gone }
      let takes (r : MarkRec) (hit : Bool) (rs : List MarkRec) (t : State) : Prop :=
        t = (s.setQueue k rs).setAdv t.adv ∧ (∀ h : HReg, t.adv.rH h = if h = d ∧ h.val ≠ 0 then (if hit then 0 else 1) else c.rH h)
          ∧ t.adv = { c with h := t.adv.h, cur := r, run := .running, stale := !hit, apc := c.apc + 1
                             cMatch := if hit then sat c.cMatch 1 else c.cMatch, cStale := if hit then c.cStale else sat c.cStale 1 }
      match q with
      | r :: rs => if r.id = id then gives o (takes r (decide (r.occ = n)) rs) else gives o (resyncs s c r k rs)
      | [] =>
        let occ := (((s.strand s.cur.core (strand s k)).occ.find? (fun e => e.1 == id)).map (·.2)).getD 0
        if n ≤ occ then gives o (takes ⟨id, occ, 0, 0, k, 0⟩ false [])
        else gives o (fun t => t = (s.setQueue k []).setAdv { c with run := .await k id n d })
    let syncs (s : State) (o : Out) (k : Nat) : Prop :=
      match queue s k with
      | [] => gives o (fun t => t = s.setAdv { s.adv with run := .async k })
      | r :: rs => gives o (resyncs s s.adv r k rs)
    let a := s.adv
    let fault := s.setAdv { a with run := .idle, cIdle := sat a.cIdle 1, cAfault := sat a.cAfault 1 }
    let becomes (i : Instr) (b : Advice) : Prop := Gives i s (fun t => t = s.setAdv b)
    let sets (i : Instr) (d : HReg) (v : Word) : Prop := Gives i s (fun t => t = s.setAdv t.adv
      ∧ (∀ h : HReg, t.adv.rH h = if h = d ∧ h.val ≠ 0 then v else a.rH h) ∧ t.adv = { a with h := t.adv.h, apc := a.apc + 1 })
    let goes (off : Int) : Advice := { a with apc := (((a.apc : Int) + off) % 4294967296).toNat }
    (∀ (d r : HReg) (imm : BitVec 18) (n : Fin 64), sets (.aaddi d r imm) d (a.rH r + imm.signExtend 64) ∧ sets (.aadd d r) d (a.rH d + a.rH r)
      ∧ sets (.aand d r) d (a.rH d &&& a.rH r) ∧ sets (.amul d r) d (a.rH d * a.rH r)
      ∧ sets (.ashl d r false n) d (a.rH r <<< n.val) ∧ sets (.ashl d r true n) d (a.rH r >>> n.val)
      ∧ sets (.amark d 0) d (BitVec.ofNat 64 a.cur.id) ∧ sets (.amark d 1) d (BitVec.ofNat 64 a.cur.occ) ∧ sets (.amark d 2) d a.cur.sa
      ∧ sets (.amark d 3) d a.cur.sb ∧ sets (.amark d 4) d (BitVec.ofNat 64 a.cur.strand))
    ∧ (∀ (d r : HReg) (off : BitVec 15),
      let x := a.rH d
      let y := a.rH r
      let br (c : Fin 8) (holds : Bool) : Prop := becomes (.abr d r c off) (if holds then goes off.toInt else { a with apc := a.apc + 1 })
      br 0 (decide (x = y)) ∧ br 1 (decide (x ≠ y)) ∧ br 2 (decide (x.toInt < y.toInt)) ∧ br 3 (decide (y.toInt ≤ x.toInt))
        ∧ br 4 (decide (x.toNat < y.toNat)) ∧ br 5 (decide (y.toNat ≤ x.toNat)))
    ∧ (∀ off, becomes (.ajmp off) (goes off.toInt)) ∧ becomes .aend { a with run := .idle, cIdle := sat a.cIdle 1 } ∧ becomes .anop { a with apc := a.apc + 1 }
    ∧ (∀ (d r : HReg) (id : BitVec 16),
      let n := (a.rH r).toNat % 2 ^ 48
      let k := (a.rH r).toNat / 2 ^ 48 % 8
      (n = 0 ∨ s.g ≤ k → Gives (.await d r id) s (fun t => t = fault))
      ∧ (n ≠ 0 → k < s.g → awaits s (exec (.await d r id) s) k id.toNat n d))
    ∧ (∀ k : Fin 8, (s.g ≤ k.val → Gives (.async k) s (fun t => t = fault)) ∧ (k.val < s.g → syncs s (exec (.async k) s) k.val))
    ∧ (∀ (core pid : Nat),
      let s1 := s.actAdvice core pid
      let o := exec (.awaitRecord core pid) s
      (∀ k id n d, s1.adv.run = .await k id n d → n ≠ 0 → awaits s1 o k id n d) ∧ (∀ k, s1.adv.run = .async k → syncs s1 o k)
      ∧ (s1.adv.run = .running ∨ s1.adv.run = .idle ∨ s1.adv.run = .ended → o = .next s)
      ∧ (s1.adv.run ≠ .idle → exec (.adviceIdleRecord core pid) s = .next s)
      ∧ (∀ k r rs, s1.adv.run = .idle → k < s1.g → queue s1 k = r :: rs →
        (∀ j < s1.g, ∀ q qs, queue s1 j = q :: qs → r.time < q.time ∨ (r.time = q.time ∧ k ≤ j)) →
        let b := (Map.get? s1.pricks s1.adv.bound).bind (fun p => (p.index.find? (fun e => e.1 == r.id)).map (·.2))
        Gives (.adviceIdleRecord core pid) s (fun t => if 0xF000 ≤ r.id ∧ b.isSome = true then resyncs s1 s1.adv r k rs t
          else t = (s1.setQueue k rs).setAdv { s1.adv with cDiscard := sat s1.adv.cDiscard 1 }))
      ∧ Gives (.prefetchComplete core pid) s (fun t => t = s.setPCore pid core { s.pcore pid core with
          adv := { (s.pcore pid core).adv with pfInFlight := (s.pcore pid core).adv.pfInFlight.drop 1 } }))
    ∧ (∀ (d r : HReg) (sp cls prio : Fin 4) (loc : Bool) (k : Fin 8) (bias : BitVec 10),
      let skip := { a with stale := false, cSkip := sat a.cSkip 1, apc := a.apc + 1 }
      let next := { a with apc := a.apc + 1 }
      let y := s.strand s.cur.core (strand s k.val)
      let m : Int := s.myPart.biasMax
      let b := if bias.toInt < -m then -m else if m < bias.toInt then m else bias.toInt
      let len := (a.rH r).toNat % 2 ^ 32
      let room := s.myPart.pfb - a.pfInFlight.foldl (· + ·) 0
      (a.stale = true → becomes (.apf d r sp loc) skip ∧ becomes (.apin d r cls) skip ∧ becomes (.aslk k bias) skip ∧ becomes (.aord k prio) skip)
      ∧ (a.stale = false → s.g ≤ k.val → becomes (.aslk k bias) { next with cDrop := sat a.cDrop 1 } ∧ becomes (.aord k prio) { next with cDrop := sat a.cDrop 1 })
      ∧ (a.stale = false → k.val < s.g →
        Gives (.aslk k bias) s (fun t => t = (s.setStrand s.cur.core (strand s k.val) { y with bias := b }).setAdv
          { next with cTrim := if b = bias.toInt then a.cTrim else sat a.cTrim 1 })
        ∧ Gives (.aord k prio) s (fun t => t = (s.setStrand s.cur.core (strand s k.val) { y with prio := prio.val }).setAdv next))
      ∧ (a.stale = false → Gives (.apf d r sp loc) s (fun t => SameBytes s t ∧ t.strands = s.strands
        ∧ t.adv = { next with pfInFlight := t.adv.pfInFlight, cPfbytes := t.adv.cPfbytes, cDrop := t.adv.cDrop, cTrim := t.adv.cTrim }
        ∧ ∃ n ≤ Nat.min len room, t.adv.pfInFlight = (if n = 0 then a.pfInFlight else a.pfInFlight ++ [n])
          ∧ t.adv.cPfbytes = (if n = 0 then a.cPfbytes else sat a.cPfbytes n)
          ∧ ((a.rH d).toNat % 65536 + len ≤ 65536 → ∀ r, s.pfPlace (decide (sp.val = 2)) loc (a.rH d) len = some r →
            r.2.poisoned r.1.da (Nat.min len room) = none → n = Nat.min len room)))
      ∧ (a.stale = false → Gives (.apin d r cls) s (fun t => SameBytes s t ∧ t.strands = s.strands
        ∧ t.adv = { next with pins := t.adv.pins, cDrop := t.adv.cDrop, cTrim := t.adv.cTrim }
        ∧ (a.pins.length * Config.lineBytes ≤ s.myPart.pinb → t.adv.pins.length * Config.lineBytes ≤ s.myPart.pinb)
        ∧ (∀ j, j ≠ clusterOf s.cur.core → (t.cluster j).lines = (s.cluster j).lines)
        ∧ (∀ p u, Map.sorted (s.cluster (clusterOf s.cur.core)).lines = true → cls.val = 0 ∨ cls.val = 2 → 0 < len →
          (a.rH d).toNat % 65536 + len ≤ 65536 → s.advicePage (a.rH d) = some (p, u) → daPlace p.da = .far →
          ∀ l ∈ linesAt p.da len, (Map.getD (t.cluster (clusterOf s.cur.core)).lines l Line.reset).cls = cls.val
            ∧ ∀ core, clusterOf core = clusterOf s.cur.core → core < 1024 → l ∉ (t.pcore s.cur.pid core).adv.pins))))

/-! ## Network -/

/-- R133, R134, R137–R141, R143–R145: slack falls every fourth cycle, that of a waiting packet and that of a copy that has yet to start. A switch is a tree of arbiters of at most five inputs; each
chooses a carried candidate first, then the owner's class, in it the packets without slack by age, else the least slack; the last one's choice leaves the switch, that of another becomes a candidate of the
next stage where its input there is free. A request goes in x, then in y, then to its slice, which answers over the reply bus; a reply goes in y, then in x; one that reaches its core is delivered, and late
ones are counted. Spans begin by the time base, and a new span table at the frame announced for it. None of these changes a byte of memory. The model's choices: the numbering of the switches and their
inputs, and the start of a rotation (log 49); what a delivered reply does (log 72); which slice serves a place (log 11); that service at a slice takes no time (log 75); and that a message ends where it
reaches its slice, is counted there if it is late, and leaves its slack to its collective (logs 32, 38). -/
def Obligations.NetworkStepsServePackets : Prop :=
  ∀ (s : State),
    let tick (p : Packet) : Packet := { p with slack := p.slack - 1 }
    -- the partition in whose telemetry a late packet counts: an advice sequencer's (8) carries it, a collector's (9) is its collective's
    let owed (p : Packet) : Option Nat := if p.strand = 8 then some p.uid else if p.strand = 9 then (Map.get? s.colls p.uid).map (·.pid) else ownerOf s.parts p.core p.strand
    Gives .slackDecrement s (fun t => t = { s with arbs := t.arbs, xfers := t.xfers }
      ∧ (∀ key, Map.get? t.arbs key = if s.now % 4 = 0 then
          (Map.get? s.arbs key).map (fun a => { a with nodes := a.nodes.map (fun n => (n.1, n.2.map (·.map tick))) }) else Map.get? s.arbs key)
      ∧ ∀ tid, Map.get? t.xfers tid = (Map.get? s.xfers tid).map (fun x =>
          if s.now % 4 = 0 ∧ s.present x = true ∧ x.complete = false ∧ x.stop = none then
            { x with waits := x.waits.mapIdx (fun i w => if i = 0 ∧ x.next % copyChunks x.x ≠ 0 then w else w - 1) }
          else x))
    ∧ (∀ (a : Arb) (o : Option Nat) (now : Nat),
      let queues (a : Arb) (t j : Nat) : List (List Packet) := Map.getD a.nodes (nodeKey t j) []
      let head (t j i : Nat) (p : Packet) : Prop := ∃ q, (queues a t j)[i]? = some (p :: q)
      let own (t j : Nat) (p : Packet) : Prop := o = none ∨ o = some p.cls ∨ ∀ i q, head t j i q → o ≠ some q.cls
      let serves (t j i : Nat) (p : Packet) : Prop := head t j i p
        ∧ if p.carried then ∀ k q, head t j k q → q.carried = true → p.age ≤ q.age
          else (∀ k q, head t j k q → q.carried = false) ∧ own t j p
            ∧ (if p.slack = 0 then ∀ k q, head t j k q → own t j q → q.slack = 0 → p.age ≤ q.age
              else ∀ k q, head t j k q → own t j q → p.slack < q.slack ∨ (p.slack = q.slack ∧ p.age ≤ q.age))
      let rest (i : Nat) (qs : List (List Packet)) : List (List Packet) :=
        qs.set i (match qs.getD i [] with | _ :: q :: l => { q with age := now } :: l | _ => [])
      let last := treeStages a.size - 1
      (∀ t j, (a.pick o t j = none ↔ ∀ i p, ¬head t j i p) ∧ ∀ i p, a.pick o t j = some (i, p) → serves t j i p)
      -- an arbiter below the last stage
      ∧ (∀ t j, j < 25 →
        let b := a.pass o now t j
        let free := (queues a (t + 1) (j / 5)).getD (j % 5) [] = []
        (¬free ∨ a.pick o t j = none → b = a)
        ∧ (free → ∀ i p, a.pick o t j = some (i, p) → b = { a with nodes := b.nodes, last := Map.set a.last (nodeKey t j) i }
          ∧ queues b t j = rest i (queues a t j)
          ∧ (queues b (t + 1) (j / 5)).getD (j % 5) [] = [{ p with age := now, carried := false }]
          ∧ (∀ k, k ≠ j % 5 → (queues b (t + 1) (j / 5)).getD k [] = (queues a (t + 1) (j / 5)).getD k [])
          ∧ ∀ k, k ≠ nodeKey t j → k ≠ nodeKey (t + 1) (j / 5) → Map.get? b.nodes k = Map.get? a.nodes k))
      -- the last stage, whose choice leaves the switch; then each arbiter of the stages before it passes once
      ∧ (a.forward o now).1 = (a.pick o last 0).map (·.2)
      ∧ (∀ i p, a.pick o last 0 = some (i, p) → ∃ b : Arb, (a.forward o now).2 = b.passAll o now last last
        ∧ b = { a with nodes := b.nodes, last := Map.set a.last (nodeKey last 0) i } ∧ queues b last 0 = rest i (queues a last 0)
        ∧ ∀ k, k ≠ nodeKey last 0 → Map.get? b.nodes k = Map.get? a.nodes k)
      ∧ (a.pick o last 0 = none → (a.forward o now).2 = a.passAll o now last last)
      ∧ (a.size ≤ 5 → ∀ b : Arb, b.passAll o now last last = b))
    ∧ (∀ arb a, Map.get? s.arbs arb = some a →
      let core := arb / 64
      let out := arb % 64
      let left := (a.forward s.owner s.now).2
      let queue (s : State) (key i : Nat) : List Packet := (Map.getD (Map.getD s.arbs key Arb.empty).nodes (nodeKey 0 (i / 5)) []).getD (i % 5) []
      ((a.forward s.owner s.now).1 = none → Gives (.packetForward arb) s (fun t => t = { s with arbs := Map.set s.arbs arb left }))
      ∧ ∀ p, (a.forward s.owner s.now).1 = some p →
        -- what leaves the switch waits at input i of switch key
        let enters (key i : Nat) (ps : List Packet) : Prop := key ≠ arb → Gives (.packetForward arb) s (fun t => t = { s with arbs := t.arbs }
          ∧ Map.get? t.arbs arb = some left ∧ queue t key i = queue s key i ++ ps.map (fun r => { r with age := s.now, carried := false })
          ∧ ∀ k, k ≠ arb → k ≠ key → Map.get? t.arbs k = Map.get? s.arbs k)
        let late := if p.slack = 0 then 1 else 0
        (out < 4 →
          let c := neighbour core out
          enters (64 * c + if coreX p.target < coreX c then 0 else if coreX c < coreX p.target then 1 else if coreY p.target < coreY c then 2
            else if coreY c < coreY p.target then 3 else 4 + p.slice) (1 + out) [p])
        ∧ (4 ≤ out → out < 16 → p.kind ≠ .msg → enters (64 * core + 16 + p.slice) (2 * p.cls) [p])
        ∧ (4 ≤ out → out < 16 → p.kind = .msg → Gives (.packetForward arb) s (fun t =>
          t = { s with arbs := Map.set s.arbs arb left, colls := t.colls, parts := t.parts }
          ∧ (∀ k, k ≠ p.uid → Map.get? t.colls k = Map.get? s.colls k)
          ∧ Map.get? t.colls p.uid = (Map.get? s.colls p.uid).map (fun c => { c with slack := Nat.min c.slack p.slack })
          ∧ (∀ pid, t.part pid = { s.part pid with late := (s.part pid).late
            + if (owed p = some pid) then late else 0 })))
        ∧ (16 ≤ out → out < 24 →
          (p.kind = .ack → enters (64 * core + 24) (out - 16) [p])
          ∧ (p.kind = .data → ∃ ps, enters (64 * core + 24) (out - 16) ps ∧ ps.length = Nat.max 1 ((p.bytes + 511) / 512)
            ∧ (ps.map (·.bytes)).foldl (· + ·) 0 = p.bytes ∧ ∀ r ∈ ps, r = { p with bytes := r.bytes } ∧ r.bytes ≤ 512))
        ∧ ((out = 24 ∨ (32 ≤ out ∧ out < 36)) →
          let c := if out = 24 then core else neighbour core (out - 32)
          enters (64 * c + 32 + if coreY p.core < coreY c then 2 else if coreY c < coreY p.core then 3 else if coreX p.core < coreX c then 0
            else if coreX c < coreX p.core then 1 else 4) (if out = 24 then 0 else 1 + (out - 32)) [p])
        ∧ (out = 36 → Gives (.packetForward arb) s (fun t =>
          t = { s with arbs := Map.set s.arbs arb left, agenda := s.agenda ++ [.replyDelivery p.core p.strand (decide (p.slack = 0)) (decide (p.kind = .data))],
                       parts := t.parts }
          ∧ ∀ pid, t.part pid = { s.part pid with late := (s.part pid).late + if (p.strand = 8 ∨ p.strand = 9) ∧ owed p = some pid then late else 0 })))
    ∧ (∀ core k late consumed,
      let x := s.strand core k
      (k < 8 → Gives (.replyDelivery core k late consumed) s (fun t => t = { s with strands := t.strands, parts := t.parts, flights := t.flights }
        ∧ (Map.sorted s.flights = true → ∀ key, Map.get? t.flights key =
          if key = skey core k ∧ consumed = true ∧ s.awaitsData x = false then none else Map.get? s.flights key)
        ∧ t.strand core k = { x with
          readyAt := if consumed then s.now else x.readyAt, exs := if late then Nat.min (x.exs + 1) (2 ^ 32 - 1) else x.exs
          pendSlackex := x.pendSlackex || (late && x.slkctl.testBit 0) }
        ∧ (∀ key, key ≠ skey core k → Map.get? t.strands key = Map.get? s.strands key)
        ∧ ∀ pid, (t.part pid).late = (s.part pid).late + if late = true ∧ ownerOf s.parts core k = some pid then 1 else 0))
      ∧ (8 ≤ k → (late = false ∨ k < 16 ∨ Map.get? s.xfers (k - 16) = none) → Gives (.replyDelivery core k late consumed) s (fun t => t = s))
      ∧ (late = true → ∀ e, 16 ≤ k → Map.get? s.xfers (k - 16) = some e → Gives (.replyDelivery core k late consumed) s (fun t =>
        t = { s with xfers := Map.set s.xfers (k - 16) { e with late := e.late + 1 }, parts := t.parts }
        ∧ ∀ pid, (t.part pid).late = (s.part pid).late + if e.pid = pid then 1 else 0)))
    ∧ (s.now % 256 ≠ 0 → Gives .spanBoundary s (fun t => t = s))
    ∧ (s.now % 256 = 0 → Gives .spanBoundary s (fun t => t = { s with arbs := t.arbs, span := s.now / 256 % 32 }
      ∧ ∀ key, Map.get? t.arbs key = match s.owner with
        | none => Map.get? s.arbs key
        | some c => (Map.get? s.arbs key).map (fun a => { a with nodes := a.nodes.map (fun n => (n.1, n.2.map (fun q => match q with
          | [] => []
          | p :: ps => { p with carried := p.carried || decide (p.cls = c) } :: ps))) })))
    ∧ Gives .spanTableSwitch s (fun t => match s.nextTab with
      | some (frame, tab) => t = if s.now % 8192 = 0 ∧ frame ≤ s.now / 8192 then { s with spanTab := tab, nextTab := none } else s
      | none => t = s)

/-! ## Commands and launches -/

/-- R383–R390, R398: a command write is refused with a reply alone, or receives the next number, a reply and a journal entry, which is FAILED where a check of R387 fails, and ABORTED where it depends on a
command that ended badly (R391). An ABORT acts at once: it ends an ACCEPTED command, and stops a DISPATCHED launch, for whose end it waits. Where no port is, a write is ignored. Queue
words 0 and 1 are writable. No command write changes a byte of memory. That a function which is not enabled refuses as a disabled queue does is the model's choice (log 56). -/
def Obligations.CommandsAreJournaled : Prop :=
  ∀ (s : State) (vfn q kind : Nat) (c : List Byte) (i : Instr),
    let v := s.vf vfn
    let seq := v.seqNext
    let full := ∃ e, Map.get? v.journal (seq % 4096) = some e ∧ e.state ≠ .retired ∧ e.state ≠ .failed ∧ e.state ≠ .aborted
    let replies (code n : Nat) (t : State) : Prop := t.out = s.out ++ [⟨1, vfn, leBytes 8 (n % 2 ^ 60 + code * 2 ^ 60)⟩]
    let refused (code : Nat) : Prop := Gives i s (fun t => t = { s with out := t.out } ∧ replies code 0 t)
    let badDep := ∃ d ∈ cmdDeps c, seq < d + 4096 ∧ d % 4096 ≠ seq % 4096 ∧ ∃ f, v.entry d = some f ∧ (f.state = .failed ∨ f.state = .aborted)
    -- every command that depended on one that ended badly has ended with it
    let settled := ∀ n f, v.entry n = some f → f.state = .accepted → v.depBad f = false
    (kind, i) ∈ [(0, Instr.nopCommand vfn q c), (1, .launch vfn q c), (2, .signal vfn q c), (3, .abort vfn q c), (4, .group vfn q c)] →
    (q ≥ 16 → Gives i s (fun t => t = s) ∧ Gives (.commandWriteRefused vfn q c) s (fun t => t = s))
    ∧ (q < 16 → cmdKind c ≠ kind ∨ writeOk c = false → refused 1)
    ∧ (q < 16 → writeOk c = false → Gives (.commandWriteRefused vfn q c) s (fun t => t = { s with out := t.out } ∧ replies 1 0 t))
    ∧ (q < 16 → cmdKind c = kind → writeOk c = true →
      (v.en = false ∨ (v.queue q).en = false → refused 3 ∧ Gives (.commandWriteRefused vfn q c) s (fun t => t = { s with out := t.out } ∧ replies 3 0 t))
      ∧ (v.en = true → (v.queue q).en = true → full → refused 2 ∧ Gives (.commandWriteRefused vfn q c) s (fun t => t = { s with out := t.out } ∧ replies 2 0 t))
      ∧ (v.en = true → (v.queue q).en = true → ¬full → Gives (.commandWriteRefused vfn q c) s (fun t => t = s)
        ∧ Gives i s (fun t =>
          let w := t.vf vfn
          replies 0 seq t ∧ SameBytes s t ∧ t.strands = s.strands ∧ w.seqNext = seq + 1 ∧ (w.queue q).lastSeq = seq
            ∧ ∃ e, Map.get? w.journal (seq % 4096) = some e ∧ e.seq = seq ∧ e.kind = kind ∧ e.queue = q ∧ e.cmd = c ∧ e.ctag = numAt c 8 8
              ∧ e.cdig = leNat ((sha512 c).take 8) ∧ e.tacc = s.now ∧ e.res = 0 ∧ e.met = none
              ∧ e.prio = (v.queue q).prio ∧ e.coal = (v.queue q).coal ∧ e.naddr = (v.queue q).naddr
              ∧ (acceptCause s vfn seq c ≠ 0 → e.state = .failed ∧ e.cause = acceptCause s vfn seq c ∧ e.tend = s.now)
              ∧ (acceptCause s vfn seq c = 0 → kind ≠ 3 → badDep → e.state = .aborted ∧ e.cause = 0x05)
              ∧ (acceptCause s vfn seq c = 0 → kind ≠ 3 → settled → ¬badDep → e.state = .accepted ∧ e.cause = 0)
              ∧ (acceptCause s vfn seq c = 0 → kind = 3 → settled → ∀ target, target = numAt c 0x40 8 → target ≠ seq → target % 4096 ≠ seq % 4096 →
                ((v.entry target).isNone = true → e.state = .failed ∧ e.cause = 0x0D)
                ∧ ∀ o, v.entry target = some o →
                  (o.state = .retired ∨ o.state = .failed ∨ o.state = .aborted → e.state = .retired ∧ e.cause = 0x0C)
                  ∧ (Map.sorted s.launches = true → 0 < target → o.state = .dispatched → ∀ l, s.launchOf vfn target = some l →
                    e.state = .dispatched ∧ e.cause = 0 ∧ Map.get? w.journal (target % 4096) = some o
                    ∧ t.launchOf vfn target = some (if l.stopped then l else { l with stopped := true, stopCause := 0x09 })
                    ∧ t.agenda = s.agenda ++ if l.stopped then [] else [.launchStop vfn target])
                  ∧ (o.state = .accepted ∨ (Map.sorted s.launches = true ∧ o.state = .dispatched ∧ s.launchOf vfn target = none) →
                    e.state = .retired ∧ e.cause = 0
                    ∧ ∃ o2, Map.get? w.journal (target % 4096) = some o2 ∧ o2.state = .aborted ∧ o2.cause = 0x09)))))
    ∧ (∀ (word : Nat) (b : Word), Gives (.queueConfigWrite vfn q word b) s (fun t =>
      if q < 16 then t = { s with vfs := t.vfs } ∧ (∀ k, k ≠ vfn → t.vf k = s.vf k) ∧ (t.vf vfn) = { v with queues := (t.vf vfn).queues }
        ∧ (∀ k, k ≠ q → (t.vf vfn).queue k = v.queue k)
        ∧ (t.vf vfn).queue q = (if word = 0 then { v.queue q with en := b.getLsbD 63, naddr := b.toNat % 2 ^ 57 }
          else if word = 1 then { v.queue q with coal := b.toNat / 2 ^ 16 % 2 ^ 16, prio := b.toNat % 4 } else v.queue q)
      else t = s))

/-- R38, R366, R391–R397, R400, R401: a failed dependence aborts a command with cause 0x05; a command that may start is DISPATCHED at the time base, NOP retires, and no command waits for it any
longer; SIGNAL writes its value, and LAUNCH makes ceil(N/Z) ranges and clears the advice counters. A GROUP reads its list as it starts and writes its entry once no collective of the group is
incomplete. A notification writes 32 bytes, at the place of its commands, once its window has closed; its SEQ never falls. The model's choices: which commands one notification covers, that its
SEQ never falls and how it is written (log 47); what the acquire of an event dependence closes (log 55); when a GROUP reads its list and what a refused one leaves (log 56); that a SIGNAL whose
write needs a block that cannot be read fails as one that does not translate (log 57). -/
def Obligations.CommandsStart : Prop :=
  ∀ (s : State) (vfn seq : Nat) (e : JEntry), (s.vf vfn).entry seq = some e →
    let v := s.vf vfn
    let entry (t : State) (n : Nat) : Option JEntry := (t.vf vfn).entry n
    let bad := v.depBad e
    let slot := cmdCtx e.cmd
    let d : JEntry := { e with state := .dispatched, tdis := s.now }
    let ends (f : JEntry) (st : JState) (cause : Nat) (t : State) : Prop := ∃ g, entry t seq = some g
      ∧ g = { f with state := st, cause := cause, tend := s.now, deps := g.deps, members := g.members }
    (bad = true ↔ ∃ n ∈ e.deps, ∃ f, v.entry n = some f ∧ (f.state = .failed ∨ f.state = .aborted))
    ∧ (e.state ≠ .accepted → Gives (.dependenceMet vfn seq) s (fun t => t = s))
    ∧ (e.state = .accepted → bad = true → Gives (.dependenceMet vfn seq) s (fun t => SameBytes s t ∧ ends e .aborted 0x05 t))
    ∧ (e.state = .accepted → bad = false → e.met.isSome = true ∨ e.deps ≠ [] → Gives (.dependenceMet vfn seq) s (fun t => t = s))
    ∧ (e.state = .accepted → bad = false → e.met = none → e.deps = [] →
      (cmdEvdep e.cmd = 0 → Gives (.dependenceMet vfn seq) s (fun t => SameBytes s t ∧ entry t seq = some { e with met := some [] }))
      ∧ (cmdEvdep e.cmd ≠ 0 → ∀ bs u, s.hostRead v.pid slot (cmdEvaddr e.cmd) 8 = some (bs, u) →
        Gives (.dependenceMet vfn seq) s (fun t => SameBytes s t ∧ ((∃ f, entry t seq = some f ∧ f.met.isSome = true) ↔ cmdEvval e.cmd ≤ leNat bs))))
    -- R392: the conditions of a start, over the commands of its queue before it
    ∧ (let before (f : JEntry) : Prop := (∃ c ∈ v.journal, c.2 = f) ∧ f.queue = e.queue ∧ f.seq < e.seq
      let running := s.launches.filter (fun c => decide (c.2.pid = v.pid ∧ c.2.slot = slot) && ((s.vf (c.1 % 1024)).entry (c.1 / 1024)).any (fun f => decide (f.state = .dispatched)))
      (∀ c ∈ v.journal, ∀ d ∈ v.journal, c.2.seq = d.2.seq → c = d) →
      (s.mayStart v e = true ↔ e.state = .accepted ∧ e.met.isSome = true ∧ (∀ f, before f → f.state ≠ .accepted)
        ∧ (flagOrdered e.cmd = true ∨ (∃ f, before f ∧ (∀ g, before g → g.seq ≤ f.seq) ∧ flagOrdered f.cmd = true) →
          ∀ f, before f → f.state = .retired ∨ f.state = .failed ∨ f.state = .aborted)
        ∧ (e.kind = 1 → running.length < 16)))
    ∧ (s.mayStart v e = false → ¬(e.kind = 4 ∧ e.state = .dispatched) → Gives (.commandStart vfn seq) s (fun t => t = s))
    ∧ (s.mayStart v e = true →
      (e.kind = 0 → Gives (.commandStart vfn seq) s (fun t => SameBytes s t ∧ ends d .retired 0 t ∧ ∀ n f, entry t n = some f → seq ∉ f.deps))
      ∧ (e.kind = 1 → Gives (.commandStart vfn seq) s (fun t => SameBytes s t ∧ entry t seq = some d
        ∧ (∀ core ∈ (s.part v.pid).cores, core < 1024 → (t.pcore v.pid core).adv = (s.pcore v.pid core).adv.clear)
        ∧ ∃ l, t.launchOf vfn seq = some l
        ∧ l.pid = v.pid ∧ l.slot = slot ∧ l.entry = dEntry e.cmd ∧ l.n0 = dN0 e.cmd ∧ l.n1 = dN1 e.cmd ∧ l.n2 = dN2 e.cmd ∧ l.size = dS e.cmd
        ∧ l.z = dZ e.cmd ∧ l.level = dLevel e.cmd ∧ l.flags = dFlags e.cmd ∧ l.units = [] ∧ l.retired = [] ∧ l.stopped = false
        ∧ (s.liveDies (s.part v.pid) ≠ [] → l.dists.flatMap (·.ranges) = List.range ((dN e.cmd + dZ e.cmd - 1) / dZ e.cmd))))
      ∧ (e.kind = 2 →
        let va := BitVec.ofNat 64 (numAt e.cmd 0x40 8)
        let bs := leBytes 8 (numAt e.cmd 0x48 8)
        let unread (ps : List Piece) : Bool := (piecesPoisoned s ps .write).isSome
        (s.hostPieces v.pid slot va 8 .write = none ∨ (∃ ps, s.hostPieces v.pid slot va 8 .write = some ps ∧ unread ps = true) →
          Gives (.commandStart vfn seq) s (fun t => SameBytes s t ∧ ends d .failed 0x04 t))
        ∧ ∀ p, s.hostPieces v.pid slot va 8 .write = some [p] → unread [p] = false → Memory.wf s.mem = true → p.n = 8 →
          Gives (.commandStart vfn seq) s (fun t => StoresAt p.loc.mat p.loc.da bs s t ∧ ends d .retired 0 t)))
    ∧ (e.kind = 4 →
      let grp := numAt e.cmd 0x40 2
      let pm := numAt e.cmd 0x42 2
      let rank := numAt e.cmd 0x44 2
      let busy := s.groupBusy v.pid grp
      let installs (f : JEntry) (ms : List Nat) (t : State) : Prop := SameBytes s t ∧ ends f .retired 0 t
        ∧ t.part v.pid = { s.part v.pid with groups := if ms = [] then Map.erase (s.part v.pid).groups grp else Map.set (s.part v.pid).groups grp ⟨rank, ms⟩ }
      let starts (ms : List Nat) : Prop := Gives (.commandStart vfn seq) s (fun t =>
        if busy then SameBytes s t ∧ t.parts = s.parts ∧ entry t seq = some { d with members := some ms } else installs d ms t)
      (s.mayStart v e = true → (pm = 0 → starts [])
        ∧ ∀ bs u, pm ≠ 0 → s.hostRead v.pid slot (BitVec.ofNat 64 (numAt e.cmd 0x48 8)) pm = some (bs, u) →
          let ms := bs.map (·.toNat)
          (badMembers ms rank = true → Gives (.commandStart vfn seq) s (fun t => SameBytes s t ∧ ends d .failed 0x01 t))
          ∧ (badMembers ms rank = false → starts ms))
      ∧ (e.state = .dispatched → busy = true → Gives (.commandStart vfn seq) s (fun t => t = s))
      ∧ (∀ ms, e.state = .dispatched → busy = false → e.members = some ms → Gives (.commandStart vfn seq) s (installs e ms)))
    ∧ (∀ q w, (v.queue q).window = some w →
      let x := v.queue q
      (s.now < w → Gives (.notificationSend vfn q) s (fun t => t = s))
      ∧ (w ≤ s.now → (∀ m ∈ x.finals, m.naddr = 0) →
        Gives (.notificationSend vfn q) s (fun t => SameBytes s t ∧ t.out = s.out ∧ (t.vf vfn).queue q = { x with window := none }))
      ∧ (∀ n, w ≤ s.now → x.finals.find? (fun m => decide (m.naddr ≠ 0)) = some n → (∀ m ∈ x.finals, 0 < m.seq) →
        -- the commands it covers, the highest number so far, and the lowest-numbered that ended badly
        let here (m : Final) : Prop := m ∈ x.finals ∧ (m.naddr = n.naddr ∨ m.naddr = 0)
        ∃ (ns : List Final) (high cause bad : Nat), n ∈ ns ∧ (∀ m ∈ ns, here m)
          ∧ (n.coal ≠ 0 ∨ (∃ m, here m ∧ m.bad.isSome = true) → ∀ m, here m → m ∈ ns)
          ∧ (n.coal = 0 → (∀ m, here m → m.bad = none) → ∀ m ∈ ns, m = n ∨ m.naddr = 0)
          ∧ x.notified ≤ high ∧ (∀ m ∈ ns, m.seq ≤ high) ∧ (high = x.notified ∨ ∃ m ∈ ns, m.seq = high)
          ∧ ((∀ m ∈ ns, m.bad = none) → cause = 0 ∧ bad = 0)
          ∧ ((∃ m ∈ ns, m.bad.isSome = true) → (∃ m ∈ ns, m.bad = some cause ∧ m.seq = bad) ∧ ∀ m ∈ ns, m.bad.isSome = true → bad ≤ m.seq)
          ∧ (let rest := x.finals.filter (fun m => !ns.contains m)
            let text := leBytes 8 high ++ leBytes 4 ns.length ++ leBytes 1 q ++ leBytes 1 cause ++ leBytes 2 0 ++ leBytes 8 bad ++ leBytes 8 s.now
            Gives (.notificationSend vfn q) s (fun t =>
              (if isLocal n.naddr then Memory.wf s.mem = true → StoresAt none n.naddr text s t else SameBytes s t ∧ t.out = s.out ++ [⟨2, n.naddr, text⟩])
              ∧ (t.vf vfn).queue q = { x with finals := rest, window := if rest = [] then none else some s.now, notified := high }))))

/-- R33–R35, R39, R368, R373–R376, R393, R394, R396, R399: a unit takes the first range of its distributor, which, once it has none, steals the upper half of its victim's; a group starts one task on each of S free
strands with the registers of Table 1.3; EXIT waits for transfers, drains, releases at package scope and
frees the strands once the group has ended; a launch retires when every task has, with its digest checked; a stop discards its tasks and ends its entry. The model's choices: which launch goes first among those
of a context (log 51); the distributors and the unit of a SERIAL launch (log 52); what a stop leaves of its tasks and their agents (log 53). -/
def Obligations.LaunchesRunTheirTasks : Prop :=
  (∀ (s : State) (vfn seq unit : Nat) (l : Launch), s.liveLaunch vfn seq = some l →
    let p := s.part l.pid
    let u := Map.getD l.units unit ⟨none, 0, false⟩
    let t0 := l.distFor unit
    (u.range = none → l.coresOf p unit ≠ [] → (l.serial = true → unit = l.lowest p) → t0 < l.dists.length →
      (∀ r rs, (distAt l.dists t0).ranges = r :: rs → Gives (.rangeRequest vfn seq unit) s (fun t => t = { s with launches := t.launches }
        ∧ ∃ m, t.launchOf vfn seq = some m ∧ m.dists = l.dists.set t0 { distAt l.dists t0 with ranges := rs }
          ∧ m = { l with dists := m.dists, units := Map.set l.units unit ⟨some r, r * l.z / l.size, false⟩ }))
      ∧ (let own := distAt l.dists t0
        let D := l.dists.length
        let len (k : Nat) : Nat := (distAt l.dists k).ranges.length
        let next (m : Nat) : Nat := (t0 + 1 + (own.steals + m) % (D - 1)) % D
        let victim (v : Nat) : Prop := v < D ∧ 0 < len v
          ∧ if l.det then l.stealk ≠ 0 ∧ l.stealk ≤ own.retiredRanges ∧ ∃ m < D - 1, v = next m ∧ ∀ k < m, len (next k) = 0
            else ∀ k < D, len k < len v ∨ (len k = len v ∧ v ≤ k)
        own.ranges = [] →
        (∀ v r rs, l.serial = false → victim v →
          let vs := (distAt l.dists v).ranges
          vs.drop (vs.length / 2) = r :: rs → Gives (.rangeRequest vfn seq unit) s (fun t => t = { s with launches := t.launches }
            ∧ ∃ m, t.launchOf vfn seq = some m
              ∧ m.dists = (l.dists.set v { distAt l.dists v with ranges := vs.take (vs.length / 2) }).set t0 { own with ranges := rs, steals := own.steals + 1 }
              ∧ m = { l with dists := m.dists, units := Map.set l.units unit ⟨some r, r * l.z / l.size, false⟩ }))
        ∧ (l.serial = true ∨ (∀ v, ¬victim v) → Gives (.rangeRequest vfn seq unit) s (fun t => t = { s with launches := t.launches }
          ∧ t.launchOf vfn seq = some { l with units := Map.set l.units unit ⟨none, 0, true⟩ }))))
    ∧ (∀ r, u.range = some r →
      let places := s.freeStrands l unit
      let j := u.nextGrp
      let n := l.groupEnd j - j * l.size
      let ps := places.take n
      (places.length < l.size ∨ s.outranked vfn seq l (l.coresOf p unit) = true ∨ (l.serial = true ∧ s.residents vfn seq ≠ []) →
        Gives (.groupAdmit vfn seq unit) s (fun t => t = s))
      ∧ (l.size ≤ places.length → s.outranked vfn seq l (l.coresOf p unit) = false → (l.serial = true → s.residents vfn seq = []) →
        (∀ c ∈ ps, c.2 < 8 ∧ ∀ w x, (s.actAs c.1 c.2).fetchWord l.entry = .ok (w, x) → w / 2 ^ 62 ≠ 3) → ps.Nodup →
        Gives (.groupAdmit vfn seq unit) s (fun t => SameBytes s t
          ∧ (∃ m, t.launchOf vfn seq = some m ∧ Map.get? m.units unit = some ⟨if l.rangeEnd r ≤ l.groupEnd j then none else some r, j + 1, false⟩
            ∧ m = { l with units := m.units, started := m.started })
          ∧ (∀ i core k, ps[i]? = some (core, k) →
            let x := t.strand core k
            let idx := j * l.size + i
            x.run = .ready ∧ x.pc = l.entry ∧ x.vl = 64 * p.g ∧ x.mode = .user ∧ x.stores = []
            ∧ x.task = some ⟨vfn, seq, idx, idx % l.n0, idx / l.n0 % l.n1, idx / l.n0 / l.n1, j, i⟩
            ∧ (∀ r : SReg, x.rS r = BitVec.ofNat 64 (if r.val = 3 then idx else if r.val = 4 then idx % l.n0 else if r.val = 5 then idx / l.n0 % l.n1
              else if r.val = 6 then idx / l.n0 / l.n1 else if r.val = 7 then j else if r.val = 8 then i else if r.val = 9 then l.n0
              else if r.val = 10 then l.n1 else if r.val = 11 then l.n2 else if r.val = 12 then l.size else 0)))
          ∧ ((∀ c ∈ ps, l.started.contains c.1 = true) →
            ∀ key, (∀ c ∈ ps, key ≠ skey c.1 c.2) → Map.get? t.strands key = Map.get? s.strands key)))))
  ∧ (∀ (s : State),
    (s.outstanding s.me.uid ≠ 0 → Gives .exit s (fun t => OnlyStores s.me.stores s t ∧ t.me = { s.me with stores := [], run := .waiting .exit }))
    ∧ (s.outstanding s.me.uid = 0 → Gives .exit s (fun t => OnlyStores s.me.stores s t ∧ Synced 3 s t
      ∧ (t.pcore s.cur.pid s.cur.core).holder ≠ some s.cur.strand ∧ (t.me.run = .idle ∨ t.me.run = .exited) ∧ (s.me.task = none → t.me.run = .idle)
      ∧ ∀ k l, s.me.task = some k → s.launchOf k.vfn k.seq = some l → t.me.bias = 0 ∧ t.me.prio = 0
        ∧ ∃ m, t.launchOf k.vfn k.seq = some m ∧ m.retired = Map.set l.retired k.t s.me.digest)))
  ∧ (∀ (s : State) (vfn seq : Nat) (l : Launch) (e : JEntry), s.launchOf vfn seq = some l → (s.vf vfn).entry seq = some e →
    let ends (t : State) (r : Word) (st : JState) (cause : Nat) : Prop := ∃ ds, (t.vf vfn).entry seq = some { e with res := r, state := st, cause := cause, tend := s.now, deps := ds }
    let D := if l.det then launchDigest l.retired else 0
    (e.state = .dispatched → l.stopped = false → s.residents vfn seq = [] → s.savedTasks vfn seq = [] → s.launchMoves vfn seq = false →
      (l.fenceFail = true → Gives (.launchRetire vfn seq) s (fun t => SameBytes s t ∧ ends t e.res .failed 0x07))
      ∧ (l.fenceFail = false → l.retired.length < l.total → Gives (.launchRetire vfn seq) s (fun t => t = s))
      ∧ (l.fenceFail = false → l.total ≤ l.retired.length →
        (l.det = true → l.digv = true → D ≠ l.digest → Gives (.launchRetire vfn seq) s (fun t => SameBytes s t ∧ ends t D .failed 0x08
          ∧ (t.part l.pid).digestFails = (s.part l.pid).digestFails + 1))
        ∧ ((l.det = true → l.digv = true → D = l.digest) → Gives (.launchRetire vfn seq) s (fun t => ends t D .retired 0
          ∧ (l.doneFlag = false → SameBytes s t)
          ∧ (l.doneFlag = true → s.hostPieces l.pid l.slot l.doneAddr 8 .write = none
              ∨ (∃ ps, s.hostPieces l.pid l.slot l.doneAddr 8 .write = some ps ∧ (piecesPoisoned s ps .write).isSome = true) →
            SameBytes s t ∧ t.tele.doneFails = s.tele.doneFails + 1)
          ∧ ∀ q, l.doneFlag = true → s.hostPieces l.pid l.slot l.doneAddr 8 .write = some [q] → piecesPoisoned s [q] .write = none → q.n = 8 → Memory.wf s.mem = true →
            StoresAt q.loc.mat q.loc.da (leBytes 8 l.doneVal.toNat) s t))))
    ∧ (e.state = .dispatched → l.stopped = false → (s.residents vfn seq ≠ [] ∨ s.savedTasks vfn seq ≠ [] ∨ s.launchMoves vfn seq = true) →
      Gives (.launchRetire vfn seq) s (fun t => t = s))
    ∧ (e.state ≠ .dispatched → Gives (.launchRetire vfn seq) s (fun t => t = s) ∧ Gives (.launchStop vfn seq) s (fun t => t = s))
    ∧ (e.state = .dispatched → l.stopped = true → Gives (.launchStop vfn seq) s (fun t =>
      ends t e.res (if l.stopCause = 0x0B then .failed else .aborted) l.stopCause
      ∧ (∀ core k, k < 8 → (∃ tk, (s.strand core k).task = some tk ∧ tk.vfn = vfn ∧ tk.seq = seq) → Map.sorted s.strands = true → (t.strand core k).task = none))))

/-! ## Contexts, management, fleet -/

/-- R402–R404, R413, R416, R417, R419, R420: a refused entry write changes nothing; another takes its fields, clearing VALID aborts the context's launches with cause 0x0A, and clearing VALID
or setting PARK on the running context pre-empts it. At the end of a slice the next context that qualifies pre-empts. A pre-empted context's image stands in its save area and its strands are
reset. RESTORE runs the next context: each core record fills its core's lane memory and its strands, whose fields lie as in Table 20.5; an image that fails a check parks its entry. The model's choices: when a
stop completes, and what of the engines it waits for (log 19); that a context which has nothing to run gives way (log 23); what is kept of a saved strand beside its record (log 41); that save areas are
under the firmware key (log 43); that reserved bits of an image are read as they are masked (log 28); and which checks make an image malformed (log 74). -/
def Obligations.ContextsAreScheduled : Prop :=
  ∀ (s : State) (pid : Nat),
    let p := s.part pid
    let starts (t : State) : Prop := (t.part pid).preempting = true ∧ (t.part pid).preemptStart = s.now
    (∀ slot body,
      let c := p.ctxAt slot
      let plim := numAt body 0x0A 2
      let valid := (numAt body 0x0C 1).testBit 0
      let park := (numAt body 0x0C 1).testBit 2
      let bad := valid = true ∧ (c.xvalid = false ∨ numAt body 8 2 = 0 ∨ (1 ≤ plim ∧ plim ≤ 7) ∨ numAt body 0 8 % 4096 ≠ 0)
      (64 ≤ slot ∨ bad → Gives (.contextEntryWrite pid slot body) s (fun t => t = s))
      ∧ (slot < 64 → ¬bad → Gives (.contextEntryWrite pid slot body) s (fun t => SameBytes s t ∧ t.strands = s.strands
        ∧ (t.part pid).ctxAt slot = { c with save := numAt body 0 8, slice := numAt body 8 2, plim := plim, valid := valid, park := park }
        ∧ (∀ k, k ≠ slot → (t.part pid).ctxAt k = p.ctxAt k)
        ∧ (p.running = some slot → p.preempting = false → valid = false ∨ park = true → (t.part pid).preempting = true)
        ∧ (c.valid = false ∨ valid = true → p.running ≠ some slot ∨ (valid = true ∧ park = false) → t = { s with parts := t.parts })))
      -- clearing VALID aborts the context's launches: one not started at once, one that runs by a stop
      ∧ (slot < 64 → c.valid = true → valid = false → Map.sorted s.vfs = true → (∀ e ∈ s.vfs, Map.sorted e.2.journal = true ∧ e.1 < 1024 ∧ ∀ j ∈ e.2.journal, j.1 = j.2.seq % 4096) →
        Gives (.contextEntryWrite pid slot body) s (fun t => ∀ vfn v seq f, Map.get? s.vfs vfn = some v → v.pid = pid → v.entry seq = some f → f.kind = 1 → cmdCtx f.cmd = slot →
          (f.state = .accepted → ∃ g, (t.vf vfn).entry seq = some g ∧ g.state = .aborted ∧ (g.cause = 0x0A ∨ (g.cause = 0x05 ∧ f.deps ≠ [])))
          ∧ (∀ l, f.state = .dispatched → s.launchOf vfn seq = some l → l.stopped = false →
            t.launchOf vfn seq = some { l with stopped := true, stopCause := 0x0A } ∧ .launchStop vfn seq ∈ t.agenda))))
    ∧ (p.running = none → Gives (.timeSliceExpiry pid) s (fun t => t = s) ∧ Gives (.preemptionComplete pid) s (fun t => t = s))
    ∧ (∀ slot, p.running = some slot → Gives (.restore pid) s (fun t => t = s)
      ∧ (p.preempting = true ∨ (s.now < p.sliceDue ∧ s.ctxRun pid slot = true) → Gives (.timeSliceExpiry pid) s (fun t => t = s))
      ∧ (p.preempting = false → (p.sliceDue ≤ s.now ∨ s.ctxRun pid slot = false) →
        ((s.nextSlot pid slot = none ∨ s.nextSlot pid slot = some slot) → Gives (.timeSliceExpiry pid) s (fun t =>
          t = s.setPart pid { p with sliceDue := s.now + 2000 * (p.ctxAt slot).slice }))
        ∧ ∀ n, s.nextSlot pid slot = some n → n ≠ slot → Gives (.timeSliceExpiry pid) s (fun t => starts t ∧ t = { s with parts := t.parts }))
      ∧ (p.preempting = false → Gives (.preemptionComplete pid) s (fun t => t = s))
      ∧ (p.preempting = true → Memory.wf s.mem = true → Gives (.preemptionComplete pid) s (fun t =>
        let bs := (s.stopEngines pid).image pid
        (t.part pid).running = none ∧ (t.part pid).preempting = false ∧ (t.part pid).last = slot
          ∧ (∀ i (h : i < bs.length), Memory.read t.mem (Config.packageId * 2 ^ 48 + (p.ctxAt slot).save + i) = bs[i])
          ∧ ∀ core k, (∀ c ∈ p.cores, p.k0 c + p.g ≤ 8) → core ∈ p.cores → p.k0 core ≤ k → k < p.k0 core + p.g → t.strand core k = Strand.reset)))
    ∧ (p.running = none →
      (s.nextSlot pid p.last = none → Gives (.restore pid) s (fun t => t = s))
      ∧ ∀ slot, s.nextSlot pid p.last = some slot →
        (s.imageIn p slot = none → Gives (.restore pid) s (fun t => SameBytes s t ∧ ((t.part pid).ctxAt slot).park = true ∧ (t.part pid).running = none
          ∧ t.tele.restoreFails = s.tele.restoreFails + 1 ∧ t.strands = s.strands))
        ∧ ∀ bs u, s.imageIn p slot = some (bs, u) → Gives (.restore pid) s (fun t =>
          (t.part pid).running = some slot ∧ (t.part pid).last = slot ∧ (t.part pid).sliceDue = s.now + 2000 * (p.ctxAt slot).slice
            ∧ ((t.part pid).ctxAt slot).tvec = BitVec.ofNat 64 (numAt bs 0x18 8) ∧ ((t.part pid).ctxAt slot).trec = BitVec.ofNat 64 (numAt bs 0x20 8)
            ∧ (t.part pid).fmt = readFmts (bs.drop 4096)
            ∧ (imgEmpty bs = true → (∀ c ∈ p.cores, p.k0 c + p.g ≤ 8) → Memory.wf s.mem = true → ∀ core ∈ p.cores, ∀ k, p.k0 core ≤ k → k < p.k0 core + p.g →
              t.strand core k = Strand.reset ∧ ∀ i < 0x80000, Memory.read t.mem (laneBase core + 0x80000 * k + i) = 0)
            -- every core record fills its core: lane memory, and on each lane group the strand of its record, whose task is that of the saved launch
            ∧ (imgEmpty bs = false → (∀ c ∈ p.cores, c < 1024 ∧ p.k0 c + p.g ≤ 8) → p.cores.Nodup → Memory.wf s.mem = true → s.launchesOf pid slot ≠ [] →
              (∀ h ∈ (p.ctxAt slot).held, (s.launchesOf pid slot).any (fun l => l.1 == lkey h.task.vfn h.task.seq) = true) →
              ∀ im ∈ readCores (readFmts (bs.drop 4096)) p.g (imgCores bs) (bs.drop 5120),
                (∀ i (h : i < im.lm.length), Memory.read t.mem (laneBase im.core + 0x80000 * p.k0 im.core + i) = im.lm[i])
                ∧ ∀ j r, im.strands[j]? = some r →
                  let y := t.strand im.core (p.k0 im.core + j)
                  y = { r.x with task := y.task, uid := y.uid, barIn := y.barIn, readyAt := y.readyAt, collSlots := y.collSlots, binds := y.binds }
                  ∧ (r.hasTask = false → y = r.x)
                  ∧ (r.hasTask = true → ∃ k, y.task = some k ∧ k.t = r.idx ∧ k.grp = r.grp
                    ∧ ∀ h, (p.ctxAt slot).held.find? (fun h => h.key == skey im.core (p.k0 im.core + j)) = some h → y.uid = h.uid ∧ k.vfn = h.task.vfn ∧ k.seq = h.task.seq))))
    -- what a core record and a strand record say (R416, R417)
    ∧ ∀ (fmts : Vector Word 16) (g : Nat) (bs : List Byte),
      let w (a : Nat) : Nat := numAt bs a 8
      let c := readCore fmts g bs
      let tiles := (if (w 16).testBit 18 then 4608 * g else 0) + (if (w 16).testBit 19 then 4608 * g else 0)
      let r := readStrand fmts g bs
      let x := r.x
      (c.core = w 0 ∧ c.w2 = w 16 ∧ c.strands.length = g ∧ (0 < g → c.strands[0]? = some (readStrand fmts g (bs.drop (256 + tiles + 256 * g)))))
      ∧ (∀ n, readStrands fmts g (n + 1) bs = r :: readStrands fmts g n (bs.drop r.size))
      ∧ x.pc = BitVec.ofNat 64 (w 0) &&& ~~~7 ∧ x.mode = (if (w 8).testBit 0 then .supervisor else .user) ∧ r.hasTask = (w 8).testBit 1
      ∧ x.run = (if r.hasTask then (if (w 8).testBit 3 then .exited else .ready) else .idle) ∧ x.pendSlackex = (w 8).testBit 4 ∧ x.pendThermal = (w 8).testBit 5
      ∧ x.vsx = w 0x10 % 2 ^ 16 ∧ x.vl = w 0x10 / 2 ^ 16 % 2 ^ 16 ∧ x.vg = w 0x10 / 2 ^ 32 % 4
      ∧ (∀ i : SReg, x.rS i = if i.val = 0 then 0 else BitVec.ofNat 64 (w (0x18 + 8 * (i.val - 1))))
      ∧ x.rmode = w 0x210 % 8 ∧ x.fpflags = w 0x218 % 32 ∧ x.fpctl = w 0x220 % 4 ∧ x.nbr = w 0x228 % 2 ^ 14 ∧ x.seed = BitVec.ofNat 64 (w 0x238) ∧ x.sbase = BitVec.ofNat 64 (w 0x240)
      ∧ x.mcntId = w 0x248 / 2 ^ 48 ∧ x.mcntOcc = w 0x248 % 2 ^ 48 ∧ x.slkctl = w 0x250 % 4 ∧ x.exs = w 0x258 % 2 ^ 32 ∧ x.ctb = BitVec.ofNat 64 (w 0x260)
      ∧ r.idx = w 0x500 ∧ r.grp = w 0x508 ∧ x.digest = BitVec.ofNat 64 (w 0x510) ∧ x.nstores = w 0x518 ∧ x.barCore = w 0x520 ∧ x.barCluster = w 0x528
      ∧ (∀ i : Fin 8, x.slkt[i.val] = w (0x270 + 8 * i.val) % 4096)
      ∧ (∀ i : Fin 64, x.pend[i.val] = numAt bs (0x4B0 + i.val) 1)
      ∧ (r.hasTask = true → (∀ i : Fin 16, x.m[i.val] = numAt (bs.drop 3072) (512 * g * i.val) (512 * g)) ∧ x.msm = numAt (bs.drop 3072) (512 * g * 16) (512 * g))

/-- R430–R439, R441, R446, R447, R456, R457: a malformed request is refused with status 1; a refused request changes nothing but the window. PARTWRITE scrubs the groups it gains, keys live only in partitions' ranges, so that
no request reaches the firmware's slot 2047, invalidations leave no entry, ATTEST answers the signed report. While an S2INVAL is under way no request is carried out, and the DOORBELL of another is counted. The
model's choices: the places of the fields of a body that the manual only names (log 44); which memory MEASURE reads, and through which context (log 59); the identity and the signature (log 6); that a report
above the 4 KiB of the reply area is answered whole (log 65); which accesses an S2INVAL waits for (log 18); how the device writes its telemetry (log 47). -/
def Obligations.ManagementRequestsAreAnswered : Prop :=
  (∀ (s : State) (r : List Byte), s.mgmt.s2pending.isSome = true → ∀ i ∈ [Instr.partwrite r, .partremove r, .vfwrite r, .ctxxlate r, .s2inval r, .keygen r, .keyclear r, .keywrap r,
      .keyload r, .measure r, .attest r, .telemetry r, .fwupdate r], Gives i s (fun t =>
        t = if s.mgmt.busy then { s with tele := { s.tele with doorbells := s.tele.doorbells + 1 } } else { s with mgmt := { s.mgmt with busy := true } }))
  ∧ (∀ s : State, (∀ vfn, s.mgmt.s2pending = some vfn → Gives .s2invalComplete s (fun t =>
      if s.storesDone (s.vf vfn).pid then t = { s with mgmt := { s.mgmt with busy := false, code := 0, seq := (s.mgmt.seq + 1) % 2 ^ 48, reply := [], s2pending := none } } else t = s))
    ∧ (s.mgmt.s2pending = none → Gives .s2invalComplete s (fun t => t = s)))
  ∧ ∀ (s : State) (r : List Byte), s.mgmt.s2pending = none →
    let b := r.drop 64
    let w (n : Nat) : Nat := numAt b n 8
    let finished (code : Nat) (reply : List Byte) (t : State) : Prop :=
      t.mgmt = { s.mgmt with busy := false, code := code, seq := (s.mgmt.seq + 1) % 2 ^ 48, reply := reply }
    let refused (i : Instr) (code : Nat) : Prop := Gives i s (fun t => finished code [] t ∧ t = { s with mgmt := t.mgmt })
    let done (i : Instr) (P : State → Prop) : Prop := Gives i s (fun t => finished 0 [] t ∧ P t)
    (∀ k n i, (k, n, i) ∈ [(1, 17, Instr.partwrite r), (2, 2, .partremove r), (3, 2, .vfwrite r), (4, 2, .ctxxlate r), (5, 2, .s2inval r), (10, 2, .measure r),
        (11, 3, .attest r), (12, 2, .telemetry r), (13, 2, .fwupdate r)] → reqOk k n r = false → refused i 1)
    ∧ (reqOk 1 17 r = true →
      let pid := numAt b 0 1 % 32
      let q0 := readPart (s.partBase pid) b
      let q := q0.disown s.tele.fenced
      let gained (core k : Nat) : Prop := q.ownsGroup core k = true ∧ (Map.get? s.parts pid = none ∨ (s.part pid).ownsGroup core k = false)
      let switches (t : State) : Prop := ∃ f, s.now / 8192 < f ∧ t.nextTab = some (f, spanTableOf t.parts)
      (recordClean b = false ∨ q0.badRecord = true ∨ q.badRecord = true → refused (.partwrite r) 1)
      ∧ (∀ x : Part, x.badRecord = true ↔ x.own = [] ∨ (∃ c ∈ x.own, c.2 % x.g ≠ 0 ∨ 8 < c.2 + x.g) ∨ x.floor = 0 ∨ 65536 < x.pfb ∨ 262144 < x.pinb ∨ 256 < x.biasMax
        ∨ 2047 < x.kbase + x.kcnt)
      ∧ (∀ x : Part, q.clashes x = true ↔ (∃ core k, q.ownsGroup core k = true ∧ x.ownsGroup core k = true)
        ∨ (∃ k, q.kbase ≤ k ∧ k < q.kbase + q.kcnt ∧ x.kbase ≤ k ∧ k < x.kbase + x.kcnt) ∨ q.tclass = x.tclass ∨ ∃ i, q.spans.testBit i = true ∧ x.spans.testBit i = true)
      ∧ (recordClean b = true → q0.badRecord = false → q.badRecord = false → (∃ c ∈ s.parts, c.1 ≠ pid ∧ q.clashes c.2 = true) → refused (.partwrite r) 2)
      ∧ (recordClean b = true → q0.badRecord = false → q.badRecord = false → (∀ c ∈ s.parts, c.1 ≠ pid → q.clashes c.2 = false) → ∀ p, Map.get? s.parts pid = some p →
        p.hasValid = true → (p.g ≠ q.g ∨ p.tclass ≠ q.tclass ∨ p.kbase ≠ q.kbase ∨ p.kcnt ≠ q.kcnt ∨ p.own ≠ q.own) → refused (.partwrite r) 3)
      ∧ (recordClean b = true → q0.badRecord = false → partwriteCode s pid q = 0 → done (.partwrite r) (fun t => t.part pid = q ∧ (∀ k, k ≠ pid → t.part k = s.part k)
        ∧ switches t ∧ (s.tele.fenced = 0 → Part.record pid q = b)
        ∧ ((∃ core k, (Map.get? s.parts pid).isSome = true ∧ (s.part pid).ownsGroup core k = true ∧ q.ownsGroup core k = false) →
          (∀ core, ∀ e ∈ (t.coreOf core).tlb, e.pid ≠ pid) ∧ ∀ cl, ∀ e ∈ (t.cluster cl).tlb, e.pid ≠ pid)
        ∧ (Memory.wf s.mem = true → ∀ core k, gained core k → t.strand core k = Strand.reset ∧ ∀ i < 0x80000, Memory.read t.mem (laneBase core + 0x80000 * k + i) = 0))))
    ∧ (reqOk 2 2 r = true → restZero r 8 = true →
      (Map.get? s.parts (w 0) = none → refused (.partremove r) 1)
      ∧ ∀ p, Map.get? s.parts (w 0) = some p →
        ((p.hasValid = true ∨ ∃ c ∈ s.vfs, c.2.pid = w 0) → refused (.partremove r) 3)
        ∧ (p.hasValid = false → (∀ c ∈ s.vfs, c.2.pid ≠ w 0) → Map.sorted s.parts = true → done (.partremove r) (fun t => SameBytes s t
          ∧ Map.get? t.parts (w 0) = none ∧ (∀ k, k ≠ w 0 → t.part k = s.part k) ∧ (∃ f, s.now / 8192 < f ∧ t.nextTab = some (f, spanTableOf t.parts))
          ∧ t.countsOf (w 0) = p.counts ∧ (∀ core, ∀ e ∈ (t.coreOf core).tlb, e.pid ≠ w 0) ∧ ∀ cl, ∀ e ∈ (t.cluster cl).tlb, e.pid ≠ w 0)))
    ∧ (reqOk 3 2 r = true →
      let vfn := numAt b 0 2 % 1024
      let v := readVf (s.vf vfn) b
      let p := s.part v.pid
      let bad1 := Map.get? s.parts v.pid = none ∨ v.s2root % 65536 ≠ 0 ∨ v.s2key < v.kbase ∨ v.kbase + v.kcnt ≤ v.s2key
      let bad2 := v.kbase < p.kbase ∨ p.kbase + p.kcnt < v.kbase + v.kcnt
        ∨ ∃ c ∈ s.vfs, c.1 ≠ vfn ∧ ∃ k, v.kbase ≤ k ∧ k < v.kbase + v.kcnt ∧ c.2.kbase ≤ k ∧ k < c.2.kbase + c.2.kcnt
      let bad3 := (∃ o, Map.get? s.vfs vfn = some o ∧ (o.pid ≠ v.pid ∨ o.kbase ≠ v.kbase ∨ o.kcnt ≠ v.kcnt)) ∧ ∃ c ∈ s.parts, ∃ e ∈ c.2.ctxs, e.2.valid = true ∧ e.2.vfn = vfn
      ((vfwriteCode s vfn v = 1 ↔ bad1) ∧ (¬bad1 → (vfwriteCode s vfn v = 2 ↔ bad2)) ∧ (¬bad1 → ¬bad2 → (vfwriteCode s vfn v = 3 ↔ bad3))
        ∧ (¬bad1 → ¬bad2 → ¬bad3 → vfwriteCode s vfn v = 0))
      ∧ (VF.record vfn v ≠ b → refused (.vfwrite r) 1)
      ∧ (VF.record vfn v = b → vfwriteCode s vfn v ≠ 0 → refused (.vfwrite r) (vfwriteCode s vfn v))
      ∧ (VF.record vfn v = b → vfwriteCode s vfn v = 0 → done (.vfwrite r) (fun t => t = { s with mgmt := t.mgmt, vfs := t.vfs } ∧ t.vf vfn = v
        ∧ v.mlog = [] ∧ ∀ k, k ≠ vfn → t.vf k = s.vf k)))
    ∧ (reqOk 4 2 r = true → ∀ p, Map.get? s.parts (w 0) = some p →
      let c := p.ctxAt (w 8)
      let held (k : Nat) : Prop := ∃ c ∈ s.parts, c.2.kbase ≤ k ∧ k < c.2.kbase + c.2.kcnt
      (64 ≤ w 8 ∨ 1 < w 0x28 → refused (.ctxxlate r) 1)
      ∧ (w 8 < 64 → (Map.get? s.vfs (w 0x10)).isSome = true → (s.vf (w 0x10)).pid = w 0 → w 0x18 % 65536 = 0 → w 0x18 < 2 ^ 55 → w 0x20 < 2048 → w 0x28 ≤ 1 → restZero r 0x30 = true →
        (¬held (w 0x20) → refused (.ctxxlate r) 2)
        ∧ (held (w 0x20) → done (.ctxxlate r) (fun t => SameBytes s t
          ∧ (t.part (w 0)).ctxAt (w 8) = { c with vfn := w 0x10, root := w 0x18, tkey := w 0x20, xvalid := decide (w 0x28 = 1) }
          ∧ (p.running = some (w 8) → p.preempting = false → c.xvalid = true → w 0x28 = 0 → (t.part (w 0)).preempting = true)))))
    ∧ (reqOk 5 2 r = true → restZero r 0x10 = true → (Map.get? s.vfs (w 0)).isSome = true →
      let page := w 8
      let gone (e : TlbEntry) : Prop := e.vfn = w 0 ∧ (page = 2 ^ 64 - 1 ∨ e.ipa = page ∨ (e.ipaBig = true ∧ e.ipa / 2 ^ 29 = page / 2 ^ 29))
      (page ≠ 2 ^ 64 - 1 → (page % 65536 ≠ 0 ∨ 2 ^ 55 ≤ page) → refused (.s2inval r) 1)
      ∧ (page = 2 ^ 64 - 1 ∨ (page % 65536 = 0 ∧ page < 2 ^ 55) → Gives (.s2inval r) s (fun t => SameBytes s t ∧ t.mgmt = { s.mgmt with busy := true, s2pending := some (w 0) }
        ∧ (∀ core e, e ∈ (t.coreOf core).tlb ↔ (e ∈ (s.coreOf core).tlb ∧ ¬gone e)) ∧ ∀ cl e, e ∈ (t.cluster cl).tlb ↔ (e ∈ (s.cluster cl).tlb ∧ ¬gone e))))
    ∧ (let id := w 0
      let hdr (k : Nat) : Prop := numAt r 0 2 = k ∧ 128 ≤ r.length ∧ r.length = 64 * numAt r 2 1 ∧ zeroAt r 3 61 = true
      let owned := ∃ c ∈ s.parts, c.2.kbase ≤ id ∧ id < c.2.kbase + c.2.kcnt
      let others (t : State) : Prop := ∀ k, k ≠ id → Map.get? t.keys k = Map.get? s.keys k
      (∀ k i, (k, i) ∈ [(6, Instr.keygen r), (7, .keyclear r), (8, .keywrap r), (9, .keyload r)] → (¬hdr k → refused i 1) ∧ (hdr k →
        (2048 ≤ id → refused i 1) ∧ (id < 2048 → ¬owned → refused i 2)
        ∧ (id = 2047 → (∀ c ∈ s.parts, c.2.kbase + c.2.kcnt ≤ 2047) → refused i 2)
        ∧ (id < 2048 → owned → ((k = 6 ∨ k = 9) ↔ (Map.get? s.keys id).isSome = true) → refused i 4)))
      ∧ (id < 2048 → owned → Map.sorted s.keys = true →
        (hdr 6 → restZero r 8 = true → Map.get? s.keys id = none → done (.keygen r) (fun t => SameBytes s t ∧ Map.get? t.keys id = some s.fresh ∧ others t))
        ∧ (∀ m, hdr 7 → restZero r 8 = true → Map.get? s.keys id = some m → done (.keyclear r) (fun t => SameBytes s t ∧ Map.get? t.keys id = none ∧ others t
          ∧ (∀ core, ∀ e ∈ (t.coreOf core).tlb, e.key ≠ id) ∧ (∀ cl, ∀ e ∈ (t.cluster cl).tlb, e.key ≠ id) ∧ (∀ cl, ∀ l ∈ (t.cluster cl).lines, l.2.key ≠ some id)
          ∧ ∀ cl, ∀ l ∈ (s.cluster cl).lines, l.2.key = some id → ∀ pid core, core < 1024 → clusterOf core = cl → l.1 ∉ (t.pcore pid core).adv.pins))
        ∧ (∀ m, hdr 8 → Map.get? s.keys id = some m → Gives (.keywrap r) s (fun t => finished 0 (Config.wrapKey m (b.drop 8)) t ∧ t = { s with mgmt := t.mgmt }))
        ∧ (∀ m, hdr 9 → Map.get? s.keys id = none → Config.unwrapKey (b.drop 8) = some m → done (.keyload r) (fun t => SameBytes s t ∧ Map.get? t.keys id = some m ∧ others t))))
    ∧ (reqOk 10 2 r = true → restZero r 0x18 = true → 176 ≤ w 0x10 → ∀ v f, Map.get? s.vfs (w 0) = some v →
      let slot0 := (s.part v.pid).ctxAt 0
      (slot0.xvalid = false ∨ slot0.vfn ≠ w 0 → refused (.measure r) 1)
      ∧ (slot0.xvalid = true → slot0.vfn = w 0 → s.readRange v.pid (rangePages (BitVec.ofNat 64 (w 8)) (w 0x10)) = some f →
      (hgiHash f ≠ (f.drop 0x70).take 64 → refused (.measure r) 1)
      ∧ (hgiHash f = (f.drop 0x70).take 64 → 64 ≤ v.mlog.length → refused (.measure r) 5)
      ∧ (hgiHash f = (f.drop 0x70).take 64 → v.mlog.length < 64 → done (.measure r) (fun t => t = { s with mgmt := t.mgmt, vfs := t.vfs }
        ∧ t.vf (w 0) = { v with mlog := v.mlog ++ [hgiHash f] }))))
    ∧ (reqOk 11 3 r = true → zeroAt b 8 56 = true → ∀ v, Map.get? s.vfs (w 0) = some v →
      let rep := [0x48, 0x47, 0x54, 0x00] ++ leBytes 2 (w 0) ++ leBytes 2 v.mlog.length ++ leBytes 8 Config.chipSerial.toNat ++ leBytes 4 s.fw.svn ++ List.replicate 12 0
        ++ sha512 s.fw.image ++ sha512 ((s.part v.pid).record v.pid) ++ sha512 (VF.record (w 0) v) ++ (b.drop 64).take 64 ++ v.mlog.flatten
      Gives (.attest r) s (fun t => t = { s with mgmt := t.mgmt } ∧ ∃ sig, sig.length = 132 ∧ finished 0 (rep ++ sig ++ Config.identityKey s.fw.svn) t))
    ∧ (reqOk 12 2 r = true → w 0 < 8 → ¬(1 ≤ w 0 / 2 % 2 ∧ 1 ≤ w 0 / 4) → w 8 < 32 → w 0x10 < 2 ^ 57 → restZero r 0x28 = true →
      done (.telemetry r) (fun t =>
        (if isLocal (w 0x10) then Memory.wf s.mem = true → StoresAt none (w 0x10) (s.counterBlock (w 8)) s t else SameBytes s t ∧ t.out = s.out ++ [⟨2, w 0x10, s.counterBlock (w 8)⟩])
        ∧ (w 0 % 2 = 1 → ∀ k, (t.part k).races = 0 ∧ (t.part k).s2faults = 0 ∧ (t.part k).late = 0 ∧ (t.part k).splits = 0)
        ∧ t.tele.fenced = s.tele.fenced
        ∧ t.tele.trace = (if w 0 / 2 % 2 = 1 then some (w 8, w 0x18, w 0x20) else if w 0 / 4 = 1 then none else s.tele.trace)))
    ∧ (reqOk 13 2 r = true → restZero r 0x18 = true → w 0 < 2 →
      let img := (s.readBytes (w 8) none (w 0x10)).1
      (bootOk s.fw.svn img = false → refused (.fwupdate r) 6)
      ∧ (bootOk s.fw.svn img = true → done (.fwupdate r) (fun t => SameBytes s t ∧ t.fw = { s.fw with other := img, fresh := true, commit := decide (w 0 = 1) })))
    ∧ Gives .doorbellWhileBusy s (fun t => t = if s.mgmt.busy then { s with tele := { s.tele with doorbells := s.tele.doorbells + 1 } } else s)
    ∧ (∀ v : Word, Gives (.faultRingConsumerWrite v) s (fun t => t = { s with mgmt := { s.mgmt with cons := Nat.min v.toNat s.mgmt.prod } }))
    ∧ (∀ (off : Nat) (v : Word), Gives (.managementWindowWrite off v) s (fun t =>
      (off < 0x1000 → t = { s with mgmt := t.mgmt } ∧ t.mgmt = { s.mgmt with window := t.mgmt.window } ∧ ∀ k, Map.get? t.mgmt.window k = if k = off / 8 then some v else Map.get? s.mgmt.window k)
      ∧ (off = 0x1000 → if s.mgmt.busy then t.tele.doorbells = s.tele.doorbells + 1 else t = { s with mgmt := { s.mgmt with busy := true } })
      ∧ (0x1000 < off → off ≠ 0x7FC8 → t = s)))

/-- R41, R390, R427, R444, R448, R450, R453–R457: the refresh state follows Table 22.1 and a rise makes THERMAL pending; a fence takes a die's cores from every partition and loses its memory, and its ranges go to the survivors; a cold reset is State.reset with the firmware
that ROM accepts; a warm reset stops everything and keeps records; a stopped package answers only to resets; a foreign request is served only where its class owns the place. The model's choices: what a reset
leaves (log 15) and the reset values (log 2); which ranges a fence reissues, what it writes back, and that the lost lane and vault bytes read 0 (log 66); the one heir of a SERIAL launch (log 52); which
blocks are retired (log 67), and what a bad word holds at its new place (log 1). -/
def Obligations.FleetStepsAsDescribed : Prop :=
  (∀ (s : State) (cl : Nat) (t0 t1 t2 t3 : Int),
    let c := s.cluster cl
    let clamp (t : Int) : Nat := (min (max t 0) 255).toNat
    let T := max (max (clamp t0) (clamp t1)) (max (clamp t2) (clamp t3))
    let ref := if T ≤ 82 then 0 else if 95 ≤ T then 2 else if c.ref = 0 then (if 85 ≤ T then 1 else 0) else if c.ref = 1 then 1 else if T ≤ 92 then 1 else 2
    if 48 ≤ cl then Gives (.thaSample cl t0 t1 t2 t3) s (fun t => t = s)
    else c.ref ≤ 2 → Gives (.thaSample cl t0 t1 t2 t3) s (fun t => SameBytes s t ∧ (t.cluster cl).temp = T ∧ (t.cluster cl).allow = 85 - T ∧ (t.cluster cl).ref = ref
      ∧ (∀ k, k ≠ cl → t.cluster k = s.cluster k) ∧ t = { s with clusters := t.clusters, strands := t.strands }
      ∧ ∀ key, Map.get? t.strands key = (Map.get? s.strands key).map (fun x =>
        if c.ref < ref ∧ clusterOf (key / 8) = cl ∧ x.slkctl.testBit 1 = true ∧ x.run ≠ .idle then { x with pendThermal := true } else x)))
  ∧ (∀ (s : State) (n : Fin 4), Gives (.dieFence n) s (fun t => t.tele.fenced = s.tele.fenced ||| 2 ^ n.val
    ∧ (∀ cl, dieOfCluster cl = n.val → (t.cluster cl).lines = [] ∧ (t.cluster cl).tlb = [])
    ∧ (∀ pid core, dieOf core ≠ n.val → Map.get? (t.part pid).own core = Map.get? (s.part pid).own core)
    ∧ ∀ core, dieOf core = n.val → (∀ pid, Map.get? (t.part pid).own core = none) ∧ (∀ k < 8, Map.get? t.strands (8 * core + k) = none)
      ∧ t.coreOf core = { Core.reset with vstall := (t.coreOf core).vstall } ∧ ∀ a off, daPlace a = .lane core off ∨ daPlace a = .vault core off → Memory.read t.mem a = 0))
  -- with nothing under way, far memory keeps its bytes, but for the lines of the die that hold writes not written back
  ∧ (∀ (s : State) (n : Fin 4), Memory.wf s.mem = true → (∀ c ∈ s.strands, c.2.stores = []) → s.xfers = [] → s.colls = [] → Gives (.dieFence n) s (fun t =>
    ∀ a, daPlace a = .far → (∀ c ∈ s.clusters, dieOfCluster c.1 = n.val → ∀ l ∈ c.2.lines, l.2.back.isSome = true → (∀ b ∈ l.2.back, b.1.length ≤ Config.lineBytes)
      ∧ a / Config.lineBytes ≠ l.1) → 0 < Config.lineBytes → Memory.read t.mem a = Memory.read s.mem a))
  ∧ (∀ (l : Launch) (die : Nat) (survivors tasks : List Nat), survivors ≠ [] → survivors.Nodup →
    let m := l.fence die survivors tasks
    let lost := l.lostRanges die tasks
    (lost = [] → (∀ d ∈ l.dists, d.die ≠ die) → m = l)
    ∧ (lost ≠ [] → l.idemp = false → l.assignedOn die tasks = true → m.fenceFail = true ∧ ∀ d ∈ m.dists, d.ranges = [])
    ∧ (∀ r, r ∈ lost ↔ r < (l.total + l.z - 1) / l.z
      ∧ ((∃ d ∈ l.dists, d.die = die ∧ r ∈ d.ranges) ∨ (∃ u ∈ l.units, l.dieOfUnit u.1 = die ∧ u.2.range = some r) ∨ ∃ k ∈ tasks, k / l.z = r))
    -- the split of R38 over the surviving dies, or over one of a SERIAL launch
    ∧ (let heirs := if l.serial then survivors.take 1 else survivors
      let share (k : Nat) : List Nat := (lost.drop (k * lost.length / heirs.length)).take ((k + 1) * lost.length / heirs.length - k * lost.length / heirs.length)
      lost ≠ [] → l.idemp = true ∨ l.assignedOn die tasks = false → (l.dists.map (·.die)).Nodup →
        ∀ k (h : k < heirs.length), (∃ d ∈ m.dists, d.die = heirs[k])
          ∧ ∀ d ∈ m.dists, d.die = heirs[k] → ∀ r, r ∈ d.ranges ↔ r ∈ share k ∨ ∃ o ∈ l.dists, o.die = heirs[k] ∧ o.die ≠ die ∧ r ∈ o.ranges)
    ∧ (lost ≠ [] → l.idemp = true → (∀ r ∈ lost, ∃ d ∈ m.dists, d.die ∈ survivors ∧ r ∈ d.ranges) ∧ (∀ d ∈ m.dists, d.die ≠ die ∨ die ∈ survivors) ∧ ∀ d ∈ m.dists, d.ranges.Pairwise (· ≤ ·)))
  ∧ (∀ (s : State) (addr : Nat), match blockOf addr with
    | none => Gives (.blockRetirement addr) s (fun t => t = s)
    | some (a, n) =>
      -- an uncorrectable word of the block itself; code 3 is one of a cluster cache alone
      let bad (w : Nat) : Prop := (∃ st, Map.get? s.poison w = some st ∧ st ≠ 3) ∧ a ≤ 8 * w ∧ 8 * w < a + n
      let must := (∃ w, bad w) ∨ Config.worn s.freeCtr a = true
      let spare := Config.hasSpare s.tele.spareUsed
      Map.sorted s.poison = true → (¬must → Gives (.blockRetirement addr) s (fun t => t = s))
      ∧ (must → spare = true →
        Gives (.blockRetirement addr) s (fun t => t.tele = { s.tele with retired := s.tele.retired + 1, spareUsed := s.tele.spareUsed + 1 } ∧ t.strands = s.strands
          ∧ (Memory.wf s.mem = true → ∀ x, ¬bad (x / 8) → Memory.read t.mem x = Memory.read s.mem x)
          ∧ ∀ w, Map.get? t.poison w = if bad w then none else Map.get? s.poison w))
      ∧ (must → spare = false → Gives (.blockRetirement addr) s (fun t => t = { s with tele := { s.tele with retfail := s.tele.retfail + 1 } })))
  ∧ (∀ (s : State),
    let f := s.fw
    let first := if f.fresh then f.other else f.image
    let second := if f.fresh then f.image else f.other
    let boots (g : Firmware) : Prop :=
      (bootOk f.svn first = true → g.image = first ∧ g.other = second ∧ g.recovery = false ∧ g.status = 0 ∧ g.svn = (if f.fresh = true ∧ f.commit = true then Nat.max f.svn (Config.fwSvn first) else f.svn))
      ∧ (bootOk f.svn first = false → bootOk f.svn second = true → g.image = second ∧ g.recovery = false ∧ g.svn = f.svn)
      ∧ (bootOk f.svn first = false → bootOk f.svn second = false → g.recovery = true ∧ g.svn = f.svn ∧ g.status ≠ 0)
    Gives .coldReset s (fun t => t = { State.reset with fw := t.fw } ∧ boots t.fw)
    ∧ Gives .warmReset s (fun t => t.strands = [] ∧ t.xfers = [] ∧ t.colls = [] ∧ (∀ core, t.coreOf core = { Core.reset with vstall := (t.coreOf core).vstall }) ∧ t.mgmt.busy = false ∧ (t.fw.recovery = true → t.vfs = []) ∧ t.agenda = [] ∧ boots t.fw
      ∧ t.keys = s.keys ∧ t.tele.fenced = s.tele.fenced ∧ ∀ pid, (t.part pid).running = none)
    ∧ Gives .packageStop s (fun t => t.fw = { s.fw with recovery := true })
    -- the running launches end; the entries that were final stay in the journal
    ∧ (Map.sorted s.vfs = true → (∀ e ∈ s.vfs, Map.sorted e.2.journal = true ∧ ∀ j ∈ e.2.journal, j.1 = j.2.seq % 4096) →
      Gives .packageStop s (fun t => ∀ vfn v seq f, Map.get? s.vfs vfn = some v → v.entry seq = some f → ∃ g, (t.vf vfn).entry seq = some g
        ∧ (f.kind = 1 → f.state = .dispatched → g.state = .aborted ∧ g.cause = 0x0A)
        ∧ (f.state = .retired ∨ f.state = .failed ∨ f.state = .aborted → g = { f with deps := g.deps }))))
  ∧ (∀ (s : State) (src tclass addr key len : Nat) (write : Option (List Byte)),
    let n := match write with | some bs => bs.length | none => len
    let p := ((s.parts.find? (fun c => decide (c.2.tclass = tclass))).map (·.2)).getD { Part.reset with own := [] }
    let last := addr + (n - 1)
    let ok (a : Nat) : Prop := isLocal a = true ∧ ownership p a write.isSome = none
    let answer (kind : Nat) (bs : List Byte) (t : State) : Prop := t.out = s.out ++ [⟨kind, src, bs⟩] ∧ t.strands = s.strands
    let i := Instr.remoteAccessRequest src tclass addr key write len
    (n = 0 ∨ ¬ok addr ∨ ¬ok last → Gives i s (fun t => SameBytes s t ∧ answer 0 [] t))
    ∧ (n ≠ 0 → ok addr → ok last →
      (mapped addr = false ∨ mapped last = false → Gives i s (fun t => SameBytes s t ∧ answer 5 [] t))
      ∧ (mapped addr = true → mapped last = true →
        (∀ bs, write = some bs → Gives i s (fun t => answer 3 [] t ∧ (Memory.wf s.mem = true → StoresAt (matFor s addr key) addr bs s t)))
        ∧ (write = none → (s.poisoned addr n).isSome = true → Gives i s (fun t => SameBytes s t ∧ answer 4 [] t))
        ∧ (write = none → s.poisoned addr n = none → Gives i s (fun t => SameBytes s t ∧ answer 1 (s.readBytes addr (matFor s addr key) n).1 t)))))

/-! ## Pair halves -/

/-- R158, R159, R161, R335: a half does what its full-word instruction does, with D also its first source, on s0–s31, in VA space, with branch targets in words; rounding SR without its feature is ILLEGAL. Of a
pair word both halves read before either writes: each scalar half gives its destination what it gives alone, and a store of half B stores what its register held before the word. -/
def Obligations.HalvesComplete : Prop :=
  (∀ (s : State) (hd ha hb : HalfReg) (imm : BitVec 14),
    let d := hs hd
    let a := hs ha
    let x := s.rS d
    let y := s.rS a
    let w : Word := imm.signExtend 64
    let near := s.me.pc + 8 * w
    let ea := y + w
    let set (i : Instr) (v : Word) : Prop := Gives i s (SetsS d v 8 s)
    let br (i : Instr) (c : Prop) : Prop := (c → TargetOk s near → Gives i s (GoesTo near s)) ∧ (¬c → Gives i s (GoesTo (s.me.pc + 8) s))
    let ld (i : Instr) (n : Nat) (sgn : Bool) : Prop :=
      if ea.toNat % n ≠ 0 then Traps i cALIGN ea (memInfo 0 .read) s
      else ∀ bs u, s.load true (.cls 0) 0 false ea n = .ok (bs, u) → AccessFrame s u ∧ ∃ v : Word, v.toNat % 2 ^ (8 * n) = leNat bs
        ∧ (sgn = false → v.toNat < 2 ^ (8 * n)) ∧ (sgn = true → v.toInt = (BitVec.ofNat (8 * n) (leNat bs)).toInt) ∧ Gives i s (SetsS d v 8 u)
    let st (i : Instr) (n : Nat) : Prop :=
      if ea.toNat % n ≠ 0 then Traps i cALIGN ea (memInfo 0 .write) s
      else ∀ ps u, permit s s.who s.me.uid true 0 false ea n .write = .ok (ps, u) →
        let v := x.toNat % 2 ^ (8 * n)
        Gives i s (fun t => SameBytes s t ∧ MemFrame s t ∧ t.me = { s.me with
          pc := s.me.pc + 8
          vsx := 0
          stores := s.me.stores ++ storesOf ps (leBytes n v)
          digest := if s.inDet then s.me.digest + digestTerm ea (BitVec.ofNat 64 v) n else s.me.digest
          nstores := if s.inDet then s.me.nstores + 1 else s.me.nstores })
    (set (.addHalf hd ha) (x + y) ∧ set (.subHalf hd ha) (x - y) ∧ set (.mulHalf hd ha) (x * y) ∧ set (.andHalf hd ha) (x &&& y)
      ∧ set (.orHalf hd ha) (x ||| y) ∧ set (.xorHalf hd ha) (x ^^^ y) ∧ set (.andnHalf hd ha) (x &&& ~~~y)
      ∧ set (.shlHalf hd ha) (x <<< (y.toNat % 64)) ∧ set (.shrHalf hd ha) (x >>> (y.toNat % 64)) ∧ set (.sraHalf hd ha) (x.sshiftRight (y.toNat % 64))
      ∧ set (.minHalf hd ha) (if x.toInt < y.toInt then x else y) ∧ set (.maxHalf hd ha) (if x.toInt < y.toInt then y else x)
      ∧ set (.minnHalf hd ha) (if x.toNat < y.toNat then x else y) ∧ set (.maxnHalf hd ha) (if x.toNat < y.toNat then y else x)
      ∧ set (.cselHalf hd ha hb) (if s.rS (hs hb) ≠ 0 then y else x) ∧ set (.addiHalf hd ha imm) (y + w) ∧ set (.liHalf hd imm) w
      ∧ (imm.toNat < 64 → set (.shlImmHalf hd ha imm) (y <<< imm.toNat) ∧ set (.shrImmHalf hd ha imm) (y >>> imm.toNat)
        ∧ set (.sraImmHalf hd ha imm) (y.sshiftRight imm.toNat)))
    ∧ (ld (.ldBzHalf hd ha imm) 1 false ∧ ld (.ldHzHalf hd ha imm) 2 false ∧ ld (.ldWzHalf hd ha imm) 4 false ∧ ld (.ldDHalf hd ha imm) 8 false
      ∧ ld (.ldBsHalf hd ha imm) 1 true ∧ ld (.ldHsHalf hd ha imm) 2 true ∧ ld (.ldWsHalf hd ha imm) 4 true
      ∧ st (.stBHalf hd ha imm) 1 ∧ st (.stHHalf hd ha imm) 2 ∧ st (.stWHalf hd ha imm) 4 ∧ st (.stDHalf hd ha imm) 8)
    ∧ (br (.beqHalf hd ha imm) (x = y) ∧ br (.bneHalf hd ha imm) (x ≠ y) ∧ br (.bltHalf hd ha imm) (x.toInt < y.toInt)
      ∧ br (.bgeHalf hd ha imm) (x.toInt ≥ y.toInt) ∧ br (.bltnHalf hd ha imm) (x.toNat < y.toNat) ∧ br (.bgenHalf hd ha imm) (x.toNat ≥ y.toNat)
      ∧ (TargetOk s near → Gives (.jHalf imm) s (GoesTo near s)) ∧ Gives .nopHalf s (GoesTo (s.me.pc + 8) s)))
  ∧ (∀ (s : State) (hd ha hb : HalfReg) (rnd fmt : Fin 8),
    let d := hs hd
    let f := fpOf s fmt.val
    let mode := s.rmode rnd.val
    let rdn := decide (mode = .rdn)
    let x := fpRead s f d
    let y := fpRead s f (hs ha)
    let z := fpRead s f (hs hb)
    let round (e : XV × Nat) (nan : Nat) : State → Prop :=
      let r := roundFp s.me.ftz f mode (srDraw s.me.seed s.me.sbase 0) e.1
      SetsFp d (BitVec.ofNat 64 r.1) (r.2 ||| e.2 ||| nan) 8 s
    let exact (v : XV) : State → Prop :=
      let r := roundFp s.me.ftz f .rne 0 v
      SetsFp d (BitVec.ofNat 64 r.1) (r.2 ||| sigFlag x ||| sigFlag y) 8 s
    s.rndAllowed rnd.val = true →
      Gives (.faddHalf hd ha rnd fmt) s (round (addX rdn x y) (sigFlag x ||| sigFlag y))
      ∧ Gives (.fsubHalf hd ha rnd fmt) s (round (addX rdn x y.negate) (sigFlag x ||| sigFlag y))
      ∧ Gives (.fmulHalf hd ha rnd fmt) s (round (mulX x y) (sigFlag x ||| sigFlag y))
      ∧ Gives (.ffmaHalf hd ha hb rnd fmt) s (round (fmaX rdn x y z) (sigFlag x ||| sigFlag y ||| sigFlag z))
      ∧ ∃ lo hi : XV, Gives (.fminHalf hd ha rnd fmt) s (exact lo) ∧ Gives (.fmaxHalf hd ha rnd fmt) s (exact hi)
        ∧ (x.isNan = true ∧ y.isNan = true → lo = .nan false ∧ hi = .nan false)
        ∧ (x.isNan = true ∧ y.isNan = false → lo = y ∧ hi = y) ∧ (x.isNan = false ∧ y.isNan = true → lo = x ∧ hi = x)
        ∧ (x.isNan = false ∧ y.isNan = false ∧ ltX x y = true → lo = x ∧ hi = y) ∧ (x.isNan = false ∧ y.isNan = false ∧ ltX y x = true → lo = y ∧ hi = x)
        ∧ (eqX x y = true ∧ x.isZero = false → lo = x ∧ hi = x)
        ∧ (x.isZero = true ∧ y.isZero = true ∧ x.neg = y.neg → (lo = x ∨ lo = y) ∧ (hi = x ∨ hi = y))
        ∧ (x.isZero = true ∧ y.isZero = true ∧ x.neg = true ∧ y.neg = false → lo = x ∧ hi = y)
        ∧ (x.isZero = true ∧ y.isZero = true ∧ x.neg = false ∧ y.neg = true → lo = y ∧ hi = x))
  ∧ (∀ (s : State) (hd ha hb : HalfReg) (rnd fmt : Fin 8) (vf : Fin 64), s.rmode rnd.val = .sr → s.feature 10 = false →
    ∀ i ∈ [Instr.faddHalf hd ha rnd fmt, .fsubHalf hd ha rnd fmt, .fmulHalf hd ha rnd fmt, .ffmaHalf hd ha hb rnd fmt, .fminHalf hd ha rnd fmt, .fmaxHalf hd ha rnd fmt,
      .vaddHalf hd ha vf rnd, .vsubHalf hd ha vf rnd, .vmulHalf hd ha vf rnd, .vfmaHalf hd ha hb vf rnd, .vminHalf hd ha vf rnd, .vmaxHalf hd ha vf rnd],
      Traps i cILLEGAL 0 s.cur.word s)
  ∧ (∀ (s : State) (hd ha hb : HalfReg) (fmt : Fin 64) (rnd : Fin 8) (od : Opd),
    let d : VNum := hd
    let sz := s.size fmt.val 0
    let E := venv s s.me fmt.val rnd.val
    let go (i : Instr) (g1 g2 : VNum) (useD : Bool) (f : CompFn) : Prop :=
      ∀ o1 o2 p, s.opd g1.val sz sz = some o1 → s.opd g2.val sz sz = some o2 →
        let gs := o1 :: ([o2] ++ if useD then [od] else [])
        s.prep s.me (s.cap sz) gs (some od) (gs.map (fun g => g.want fmt.val 0)) = .ok p → p.stop = none → slotsIn s.me.streams [od] = [] →
        PutsVector i s p 8 od fmt.val 0 (vget p.v o1.base).alg (Active s.me 0) (fun e =>
          eachComp 1 (s.width fmt.val) (f E e) (o1.get p.v e) (o2.get p.v e) (if useD then od.get p.v e else 0))
    s.rndAllowed rnd.val = true → s.opd d.val sz sz = some od →
      go (.vaddHalf hd ha fmt rnd) hd ha false (cAdd false) ∧ go (.vsubHalf hd ha fmt rnd) hd ha false (cSub false) ∧ go (.vmulHalf hd ha fmt rnd) hd ha false cMul
      ∧ go (.vfmaHalf hd ha hb fmt rnd) ha hb true cFma ∧ go (.vminHalf hd ha fmt rnd) hd ha false cMin ∧ go (.vmaxHalf hd ha fmt rnd) hd ha false cMax
      ∧ go (.vandHalf hd ha fmt rnd) hd ha false cAnd ∧ go (.vorHalf hd ha fmt rnd) hd ha false cOr ∧ go (.vxorHalf hd ha fmt rnd) hd ha false cXor
      ∧ go (.vshlHalf hd ha fmt rnd) hd ha false cShl ∧ go (.vshrHalf hd ha fmt rnd) hd ha false cShr ∧ go (.vsraHalf hd ha fmt rnd) hd ha false cSra)
  ∧ (∀ (s u : State) (c1 : HalfCode), let d1 := hs (fin 32 c1.d)
    c1.hop ∈ [0x01, 0x02, 0x03, 0x04, 0x05, 0x06, 0x07, 0x08, 0x09, 0x0a, 0x0b, 0x0c, 0x0d, 0x0e, 0x0f, 0x10, 0x11, 0x12, 0x13, 0x14]
      ∨ (c1.hop ∈ [0x18, 0x19, 0x1a, 0x1b, 0x1c, 0x1d] ∧ s.rndAllowed (c1.imm / 2 ^ 6 % 8) = true) →
    solo (halfRun c1) s = .next u →
    (∀ (v : State) (c2 : HalfCode), let d2 := hs (fin 32 c2.d)
      c2.hop ∈ [0x01, 0x02, 0x03, 0x04, 0x05, 0x06, 0x07, 0x08, 0x09, 0x0a, 0x0b, 0x0c, 0x0d, 0x0e, 0x0f, 0x10, 0x11, 0x12, 0x13, 0x14]
        ∨ (c2.hop ∈ [0x18, 0x19, 0x1a, 0x1b, 0x1c, 0x1d] ∧ s.rndAllowed (c2.imm / 2 ^ 6 % 8) = true) →
      solo (halfRun c2) s = .next v → d1 ≠ d2 → ∃ t, s.runWord (.pair c1 c2) = .next t ∧ OnlyMe s t
        ∧ t.me = { s.me with s := t.me.s, fpflags := u.me.fpflags ||| v.me.fpflags, pc := s.me.pc + 8, vsx := 0 }
        ∧ ∀ r : SReg, t.rS r = if r = d1 then u.rS r else if r = d2 then v.rS r else s.rS r)
    ∧ (∀ (c2 : HalfCode) ps v, c2.hop = 0x2b →
      let ea := s.rS (hs (fin 32 c2.a)) + (BitVec.ofNat 14 c2.imm).signExtend 64
      let old := s.rS (hs (fin 32 c2.d))
      ea.toNat % 8 = 0 → permit s s.who s.me.uid true 0 false ea 8 .write = .ok (ps, v) → s.inDet = false →
      ∃ t, s.runWord (.pair c1 c2) = .next t ∧ SameBytes s t
        ∧ t.me = { s.me with s := t.me.s, fpflags := u.me.fpflags, stores := s.me.stores ++ storesOf ps (leBytes 8 old.toNat), pc := s.me.pc + 8, vsx := 0 }
        ∧ ∀ r : SReg, t.rS r = u.rS r))

/-! ## The machine -/

/-- R148–R164, R349: words of the manual's own examples decode to the instructions they stand for. -/
def Obligations.KnownWordsDecode : Prop :=
  decode 0x0010610280000000 0 = .ok (.one (.add 3 4 5) 8)
    ∧ decode 0x0400613F803FFFF8 0 = .ok (.one (.addi 3 4 (-8)) 8)
    ∧ decode 0x8470E00000000003 0xF000000000000001 = .ok (.one (.lix 7 0xF000000000000001) 16)
    ∧ decode 0x0C80603F803FFFFC 0 = .ok (.one (.beq 3 0 (-4)) 8)
    ∧ decode 0x1430000000000000 0 = .ok (.one .eret 8)
    ∧ decode 0x3D00028600080000 0 = .ok (.one (.binit 10 12 true 0) 8)
    ∧ decode 0x408C800040424008 0 = .ok (.pair ⟨0x01, 3, 4, 0⟩ ⟨0x40, 8, 9, 8⟩)
    ∧ decodeAdvice 0x10400001 = .ok (.aaddi 1 0 1)
    ∧ decode 0x0010610280400000 0 = .error (.badField false)

/-- R148–R164, R349: every well-formed instruction is what its own words decode to, with every operand at every value the encoding admits; every accepted word is the word of the instruction it decodes to. -/
def Obligations.DecodeAndEncodeAgree : Prop :=
  (∀ i : Instr, i.wf = true →
    (∀ f, encode i = .full f → ∀ next, decode (f.pack 0) next = .ok (.one i 8))
    ∧ (∀ f x, encode i = .ext f x → decode (f.pack 2) (x + 3 * 2 ^ 62) = .ok (.one i 16))
    ∧ (∀ hop d a imm half, encode i = .half hop d a imm → decodeHalf half (packHalf hop d a imm) = .ok ⟨hop, d, a, imm⟩)
    ∧ (∀ w, adviceWord i = some w → decodeAdvice w = .ok i))
  ∧ (∀ i j : Instr, i.wf = true → j.wf = true → encode i ≠ .event → encode i = encode j → i = j)
  ∧ (∀ w next i n, w < 2 ^ 64 → next < 2 ^ 64 → decode w next = .ok (.one i n) → i.wf = true ∧ (n = 8 ∧ words i = [w] ∨ n = 16 ∧ words i = [w, next]))
  ∧ (∀ w i, w < 2 ^ 32 → decodeAdvice w = .ok i → i.wf = true ∧ adviceWord i = some w)

/-- R12, R26, R29, R148, R149, R157, R406, R410, R414, R432: a request whose DOORBELL was written is carried out first; then what is due, in order. With nothing due, step takes what alone is possible, or what the free choice
names (log 45): an event is executed; a strand whose turn it is executes the word at its pc: step is exec of the decoded instruction there, with the word as INFO; then the issue is noted and the network cycle ends. A word
for whose result slices are lacking waits (log 76). A pair word and an advice context's word run likewise. An event that is due is taken in place of an instruction that does not fault. While its context is being saved a
strand executes on to its stopping point, without trap or event; and where something else could happen, a vector instruction may execute up to a free element only, after which its strand goes on (log 45). With nothing
possible, or while a context is saved, the cycle ends. A turn may leave a load under way, noted with the strand as it was before; where its context is to be saved first, it is squashed, and its replies are
abandoned (R412). Which turns leave one is the model's choice (log 19). -/
def Obligations.StepRunsTheDecodedWord : Prop :=
  ∀ (s : State), s.fw.recovery = false →
    (s.mgmt.busy = true → s.mgmt.s2pending = none → step s = runRequest s)
    ∧ (s.mgmt.busy = false ∨ s.mgmt.s2pending.isSome = true →
    (∀ i rest, s.agenda = i :: rest → s.stoppedBy i = [] → step s = exec i { s with agenda := rest })
    ∧ (s.agenda = [] →
    let ne := s.events.length
    let nt := ne + s.turns.length
    let np := nt + s.partTurns.length
    let n := np + (if s.parts.any (fun p => p.2.preempting) then 1 else 0)
    (n = 0 → step s = .next s.tick) ∧
    ∀ (j : Nat) (s0 : State), n = 1 ∧ j = 0 ∧ s0 = s ∨ 1 < n ∧ j = Config.choice s.freeCtr % n ∧ s0 = { s with freeCtr := s.freeCtr + 1 } →
    (∀ i, s.events[j]? = some i → step s = exec i s0) ∧ (np ≤ j → step s = .next s0.tick)
    ∧ (∀ (core k w : Nat) (u : State) (part : Bool), k < 8 → 8 * core + k < 8192 →
      (if part then nt ≤ j ∧ s.partTurns[j - nt]? = some (8 * core + k) else ne ≤ j ∧ s.turns[j - ne]? = some (8 * core + k)) →
      let on := s0.strandOn (8 * core + k)
      let whole := on && !part
      let b := if on then s0 else s0.squash core k
      let a := b.actAs core k
      let s1 := if whole then a else { a with cur := { a.cur with limit := some (Config.choice b.freeCtr) }, freeCtr := b.freeCtr + 1 }
      let due := whole = true ∧ a.me.mode = .user ∧ a.me.eventDue = true
      let after (issued : Bool) (t : State) : State := (t.noteIssue core k issued (issued && (part || (on && s0.nextOnLanes (8 * core + k))))).tick
      let halts (t : State) : State :=
        let t := if on = false ∧ s0.awaitsData (s0.strand core k) = true then t.abandon (s0.strand core k).uid else t
        let x := t.strand core k
        let y : Run := if part then (if x.run = .waiting .s2stop ∧ (t.part a.cur.pid).preempting = false then .ready else x.run)
          else if x.run = .ready then .waiting .s2stop else x.run
        if whole then t else { t with strands := (t.setStrand core k { x with run := y }).strands, cur := a.cur }
      let ends (t : State) : Prop := (due → s1.faulted (.next t) = false → ∀ v, exec (.eventTaken core k) s0 = .next v →
          step s = .next (after false { v with flights := Map.erase v.flights (skey core k) }))
        ∧ (¬due ∨ s1.faulted (.next t) = true → ∃ fl, step s = .next (after true { halts t with flights := fl }) ∧ (whole = false → fl = (halts t).flights)
          ∧ (whole = true → Map.sorted t.flights = true → (∀ key, key ≠ skey core k → Map.get? fl key = Map.get? t.flights key)
            ∧ ∀ f, Map.get? fl (skey core k) = some f → f.x = a.me ∧ t.awaitsData (t.strand core k) = true))
      -- the word d, executed at v, answers t
      let runs (d : Decoded) (v t : State) : Prop :=
        if v.hasSlices (v.allocates d (.next t)) then ends t else ends (v.setMe { v.me with run := .waiting .slices })
      a.me.regErr = [] → s1.fetchWord s1.me.pc = .ok (w, u) →
      let s2 := { u with cur := { u.cur with word := BitVec.ofNat 64 w } }
      s2.me.pendStat = 0 → s2.xfers = [] →
      (∀ i n, w / 2 ^ 62 % 4 ≠ 2 → decode w 0 = .ok (.one i n) → ∀ t, exec i s2 = .next t → runs (.one i n) s2 t)
      ∧ (∀ r, w / 2 ^ 62 % 4 ≠ 2 → decode w 0 = .error r →
        let illegal (h : Bool) : State := ({ s2 with cur := { s2.cur with half := h } } : State).takeTrap cILLEGAL s2.me.pc 0 s2.cur.word false
        ends (if whole then (match r with
          | .unassigned h => illegal h
          | .badField h => illegal h
          | .pairconf n => s2.takeTrap cPAIRCONF s2.me.pc 0 (BitVec.ofNat 64 n) false
          | _ => s2.takeTrap cILLEGAL s2.me.pc 0 s2.cur.word false) else s2.stopHere))
      ∧ (∀ a b t, w / 2 ^ 62 % 4 ≠ 2 → decode w 0 = .ok (.pair a b) → execPair a b s2 = .next t → runs (.pair a b) s2 t)
      ∧ (∀ i n next v, w / 2 ^ 62 % 4 = 2 → s2.fetchWord (s2.me.pc + 8) = .ok (next, v) → decode w next = .ok (.one i n) → v.me.pendStat = 0 → v.xfers = [] →
        ∀ t, exec i v = .next t → runs (.one i n) v t))
    ∧ (∀ core pid p w i t, core < 1024 → ne ≤ j → s.turns[j - ne]? = some (8192 + (1024 * pid + core)) →
      let s1 := s0.actAdvice core pid
      s1.poisoned (pkgAddr (Config.prickPlace s1.adv.bound) + 4 * s1.adv.apc) 4 = none →
      Map.get? s1.pricks s1.adv.bound = some p → p.code[s1.adv.apc]? = some w → decodeAdvice w.toNat = .ok i → exec i s1 = .next t → step s = .next t.tick)))

/-- R444, R454: a step always answers a next state, but for a package that answers only as a recovery endpoint: there every step that is no reset stops. -/
def Obligations.OnlyARecoveryEndpointStops : Prop :=
  ∀ s : State, (s.fw.recovery = false → ∃ t, step s = .next t)
    ∧ (s.fw.recovery = true → (∀ i rest, s.agenda = i :: rest → i ≠ .coldReset → i ≠ .warmReset → step s = .fault .recoveryOnly)
      ∧ (s.agenda = [] → step s = .fault .recoveryOnly)
      ∧ ∀ i rest, s.agenda = i :: rest → i = .coldReset ∨ i = .warmReset → ∃ t, step s = .next t)

/-- Every step keeps the canonical form: in memory addresses rise and no listed byte is what an unlisted address reads as; the keys of every table
that statements speak of rise, which makes it a table; a refresh state stays one of the three of Table 22.1. -/
def Obligations.EveryStepKeepsCanonicalForm : Prop :=
  ∀ s t : State, step s = .next t → Keeps s t

/-- R386, R390, R436, R441, R444, R456, Table 5.3: after a cold reset no partition, function or command exists, the counters are empty, every span is open, slot 2047 alone holds a key, no network cycle has passed, and memory is in canonical form;
a fresh strand has the creation values of R34. What the manual gives no reset value is as logs 2 (memory), 5 (the thermal fields) and 6 (the rest) choose. -/
def Obligations.ResetState : Prop :=
  let r := State.reset
  Memory.wf r.mem = true ∧ Map.sorted r.poison = true ∧ Map.sorted r.keys = true ∧ Map.sorted r.strands = true ∧ Map.sorted r.parts = true
    ∧ Map.sorted r.agents = true ∧ Map.sorted r.xfers = true ∧ Map.sorted r.colls = true ∧ (∀ c ∈ r.cores, Map.sorted c.2.cells = true)
    ∧ (∀ c ∈ r.clusters, Map.sorted c.2.lines = true ∧ c.2.ref ≤ 2) ∧ (∀ a, Memory.read r.mem a = 0) ∧ r.parts = [] ∧ r.vfs = [] ∧ r.flights = [] ∧ (r.vf 5).seqNext = 1 ∧ (r.vf 5).mask0 = BitVec.allOnes 64
    ∧ (∀ k, (Map.get? r.keys k).isSome = decide (k = 2047)) ∧ (∀ k : Fin 32, r.spanTab.get k = ⟨true, 0⟩) ∧ r.mgmt.busy = false ∧ r.mgmt.seq = 0
    ∧ r.tele.doorbells = 0 ∧ r.tele.fenced = 0 ∧ r.now = 0 ∧ r.fw.recovery = false
    ∧ (let x := Strand.reset
      (∀ n, x.rS n = 0) ∧ (∀ n : MReg, x.m.get n = 0) ∧ (∀ n : Fin 32, x.v.get n = ⟨0, 0, 0, .undef, 63, 0, 0, 0⟩) ∧ x.rmode = 0 ∧ x.fpflags = 0 ∧ x.mode = .user ∧ x.vg = 0
        ∧ x.slkt = #v[64, 128, 256, 512, 1024, 2048, 3072, 4095])
end

