-- ==== Sys2Proof/Laws/Maps.lean ====
section
/-!
SUPPORT. Laws of sparse tables and of memory: read after write, no other entry moves, and the canonical form is kept.
-/
namespace Sys2Proof.Machine

variable {α : Type}

@[simp] theorem Map.get?_set_self (m : Map α) (i : Nat) (v : α) : Map.get? (Map.set m i v) i = some v := by
  induction m with
  | nil => simp [Map.set, Map.get?]
  | cons c m ih =>
    obtain ⟨k, w⟩ := c
    simp only [Map.set]
    split
    · simp [Map.get?]
    · split
      · simp [Map.get?]
      · simp [Map.get?, *]

theorem Map.get?_set_ne (m : Map α) {i j : Nat} (v : α) (h : j ≠ i) : Map.get? (Map.set m i v) j = Map.get? m j := by
  induction m with
  | nil => simp [Map.set, Map.get?, h]
  | cons c m ih =>
    obtain ⟨k, w⟩ := c
    simp only [Map.set]
    split
    · subst_vars; simp [Map.get?, h]
    · split
      · simp only [Map.get?, h, if_false]
        split
        · have : j ≠ k := by omega
          have : j < k := by omega
          simp [*]
        · rfl
      · simp only [Map.get?, ih]

theorem Map.get?_set (m : Map α) (i j : Nat) (v : α) : Map.get? (Map.set m i v) j = if j = i then some v else Map.get? m j := by
  split
  · subst_vars; simp
  · exact Map.get?_set_ne m v ‹_›

@[simp] theorem Map.getD_set_self (m : Map α) (i : Nat) (v d : α) : Map.getD (Map.set m i v) i d = v := by simp [Map.getD]

theorem Map.getD_set_ne (m : Map α) {i j : Nat} (v d : α) (h : j ≠ i) : Map.getD (Map.set m i v) j d = Map.getD m j d := by
  simp [Map.getD, Map.get?_set_ne m v h]

@[simp] theorem Map.set_set (m : Map α) (i : Nat) (v w : α) : Map.set (Map.set m i v) i w = Map.set m i w := by
  induction m with
  | nil => simp [Map.set]
  | cons c m ih =>
    obtain ⟨k, x⟩ := c
    simp only [Map.set]
    split
    · simp [Map.set]
    · split
      · simp [Map.set]
      · simp [Map.set, *]

theorem Map.above_mono {a b : Nat} (m : Map α) (hab : a ≤ b) (h : Map.above b m = true) : Map.above a m = true := by
  cases m with
  | nil => rfl
  | cons c m =>
    simp only [Map.above, Bool.and_eq_true, decide_eq_true_eq] at h ⊢
    exact ⟨by omega, h.2⟩

theorem Map.get?_above {b j : Nat} (m : Map α) (h : Map.above b m = true) (hj : j ≤ b) : Map.get? m j = none := by
  cases m with
  | nil => rfl
  | cons c m =>
    simp only [Map.above, Bool.and_eq_true, decide_eq_true_eq] at h
    simp only [Map.get?]
    rw [if_neg (by omega), if_pos (by omega)]

theorem Map.above_set {b i : Nat} (m : Map α) (v : α) (hb : b < i) (h : Map.above b m = true) : Map.above b (Map.set m i v) = true := by
  induction m generalizing b with
  | nil => simp [Map.set, Map.above, hb]
  | cons c m ih =>
    obtain ⟨k, w⟩ := c
    simp only [Map.above, Bool.and_eq_true, decide_eq_true_eq] at h
    simp only [Map.set]
    split
    · subst_vars; simp [Map.above, hb, h.2]
    · split
      · simp [Map.above, *]
      · have : k < i := by omega
        simp [Map.above, h.1, ih this h.2]

theorem Map.sorted_set (m : Map α) (i : Nat) (v : α) (h : Map.sorted m = true) : Map.sorted (Map.set m i v) = true := by
  cases m with
  | nil => rfl
  | cons c m =>
    obtain ⟨k, w⟩ := c
    simp only [Map.sorted] at h
    simp only [Map.set]
    split
    · subst_vars; exact h
    · split
      · simp [Map.sorted, Map.above, h]; omega
      · exact Map.above_set m v (by omega) h

theorem Map.above_erase {b : Nat} (m : Map α) (i : Nat) (h : Map.above b m = true) : Map.above b (Map.erase m i) = true := by
  induction m generalizing b with
  | nil => rfl
  | cons c m ih =>
    obtain ⟨k, w⟩ := c
    simp only [Map.above, Bool.and_eq_true, decide_eq_true_eq] at h
    simp only [Map.erase]
    split
    · exact Map.above_mono m (by omega) h.2
    · split
      · simp [Map.above, h]
      · simp [Map.above, h.1, ih h.2]

theorem Map.sorted_of_above {b : Nat} (m : Map α) (h : Map.above b m = true) : Map.sorted m = true := by
  cases m with
  | nil => rfl
  | cons c m => simp only [Map.above, Bool.and_eq_true] at h; exact h.2

theorem Map.sorted_erase (m : Map α) (i : Nat) (h : Map.sorted m = true) : Map.sorted (Map.erase m i) = true := by
  cases m with
  | nil => rfl
  | cons c m =>
    obtain ⟨k, w⟩ := c
    simp only [Map.sorted] at h
    simp only [Map.erase]
    split
    · exact Map.sorted_of_above m h
    · split
      · exact h
      · exact Map.above_erase m i h

theorem Map.get?_erase_self (m : Map α) (i : Nat) (h : Map.sorted m = true) : Map.get? (Map.erase m i) i = none := by
  induction m with
  | nil => rfl
  | cons c m ih =>
    obtain ⟨k, w⟩ := c
    simp only [Map.sorted] at h
    simp only [Map.erase]
    split
    · subst_vars; exact Map.get?_above m h (Nat.le_refl _)
    · split
      · simp [Map.get?, *]
      · simp [Map.get?, *, ih (Map.sorted_of_above m h)]

theorem Map.get?_erase_ne (m : Map α) {i j : Nat} (h : Map.sorted m = true) (hj : j ≠ i) :
    Map.get? (Map.erase m i) j = Map.get? m j := by
  induction m with
  | nil => rfl
  | cons c m ih =>
    obtain ⟨k, w⟩ := c
    simp only [Map.sorted] at h
    simp only [Map.erase]
    split
    · subst_vars
      simp only [Map.get?, hj, if_false]
      split
      · exact Map.get?_above m h (by omega)
      · rfl
    · split
      · rfl
      · simp only [Map.get?, ih (Map.sorted_of_above m h)]

theorem Map.above_filter {b : Nat} (m : Map α) (f : Nat × α → Bool) (h : Map.above b m = true) : Map.above b (m.filter f) = true := by
  induction m generalizing b with
  | nil => rfl
  | cons c m ih =>
    simp only [Map.above, Bool.and_eq_true, decide_eq_true_eq] at h
    simp only [List.filter]
    split
    · simp [Map.above, h.1, ih h.2]
    · exact ih (Map.above_mono m (by omega) h.2)

theorem Map.sorted_filter (m : Map α) (f : Nat × α → Bool) (h : Map.sorted m = true) : Map.sorted (m.filter f) = true := by
  induction m with
  | nil => rfl
  | cons c m ih =>
    simp only [Map.sorted] at h
    simp only [List.filter]
    split
    · exact Map.above_filter m f h
    · exact ih (Map.sorted_of_above m h)

/-! ## Memory -/

theorem Memory.wf_iff (m : Memory) : Memory.wf m = true ↔ Map.sorted m = true ∧ ∀ c ∈ m, c.2 ≠ 0 := by
  simp only [Memory.wf, Memory.background, Bool.and_eq_true, List.all_eq_true]
  exact and_congr_right (fun _ => forall_congr' (fun _ => imp_congr_right (fun _ => decide_eq_true_iff)))

theorem Map.mem_of_get? {m : Map α} {i : Nat} {v : α} (h : Map.get? m i = some v) : (i, v) ∈ m := by
  induction m with
  | nil => simp [Map.get?] at h
  | cons c m ih =>
    obtain ⟨k, w⟩ := c
    simp only [Map.get?] at h
    split at h
    · simp_all
    · split at h
      · cases h
      · exact List.mem_cons_of_mem _ (ih h)

theorem Map.mem_set {m : Map α} {i : Nat} {v : α} {c : Nat × α} (h : c ∈ Map.set m i v) : c = (i, v) ∨ c ∈ m := by
  induction m with
  | nil => simpa [Map.set] using h
  | cons d m ih =>
    obtain ⟨k, w⟩ := d
    simp only [Map.set] at h
    split at h
    · simp only [List.mem_cons] at h ⊢; rcases h with h | h <;> simp [h]
    · split at h
      · simp only [List.mem_cons] at h ⊢; rcases h with h | h | h <;> simp [h]
      · simp only [List.mem_cons] at h ⊢
        rcases h with h | h
        · simp [h]
        · rcases ih h with h | h <;> simp [h]

theorem Map.mem_erase {m : Map α} {i : Nat} {c : Nat × α} (h : c ∈ Map.erase m i) : c ∈ m := by
  induction m with
  | nil => simp [Map.erase] at h
  | cons d m ih =>
    obtain ⟨k, w⟩ := d
    simp only [Map.erase] at h
    split at h
    · exact List.mem_cons_of_mem _ h
    · split at h
      · exact h
      · simp only [List.mem_cons] at h ⊢
        rcases h with h | h
        · simp [h]
        · exact .inr (ih h)

theorem Memory.wf_write {m : Memory} (a : Nat) (b : Byte) (h : Memory.wf m = true) : Memory.wf (Memory.write m a b) = true := by
  rw [Memory.wf_iff] at h ⊢
  unfold Memory.write
  split
  · exact ⟨Map.sorted_erase m a h.1, fun c hc => h.2 c (Map.mem_erase hc)⟩
  · rename_i hb
    refine ⟨Map.sorted_set m a b h.1, fun c hc => ?_⟩
    rcases Map.mem_set hc with hc | hc
    · rw [hc]; exact hb
    · exact h.2 c hc

theorem Memory.wf_filter {m : Memory} (f : Host.Cell → Bool) (h : Memory.wf m = true) : Memory.wf (m.filter f) = true := by
  rw [Memory.wf_iff] at h ⊢
  exact ⟨Map.sorted_filter m f h.1, fun c hc => h.2 c (List.mem_filter.1 hc).1⟩

theorem Memory.wf_clear {m : Memory} (a n : Nat) (h : Memory.wf m = true) : Memory.wf (Memory.clear m a n) = true := Memory.wf_filter _ h

theorem Memory.wf_writeN {m : Memory} (a : Nat) (bs : List Byte) (h : Memory.wf m = true) : Memory.wf (Memory.writeN m a bs) = true := by
  induction bs generalizing m a with
  | nil => exact h
  | cons b bs ih => exact ih (a + 1) (Memory.wf_write a b h)

theorem Memory.read_write_self {m : Memory} (a : Nat) (b : Byte) (h : Memory.wf m = true) :
    Memory.read (Memory.write m a b) a = b := by
  unfold Memory.write Memory.read Map.getD
  split
  · rw [Map.get?_erase_self m a ((Memory.wf_iff m).1 h).1]; simp [*]
  · simp

theorem Memory.read_write_ne {m : Memory} {a c : Nat} (b : Byte) (h : Memory.wf m = true) (hc : c ≠ a) :
    Memory.read (Memory.write m a b) c = Memory.read m c := by
  unfold Memory.write Memory.read Map.getD
  split
  · rw [Map.get?_erase_ne m ((Memory.wf_iff m).1 h).1 hc]
  · rw [Map.get?_set_ne m b hc]

/-- Memories in canonical form that read alike are equal. -/
theorem Map.ext_get? {m n : Map α} (hm : Map.sorted m = true) (hn : Map.sorted n = true) (h : ∀ i, Map.get? m i = Map.get? n i) : m = n := by
  induction m generalizing n with
  | nil =>
    cases n with
    | nil => rfl
    | cons c n => have := h c.1; simp [Map.get?] at this
  | cons c m ih =>
    obtain ⟨k, v⟩ := c
    cases n with
    | nil => have := h k; simp [Map.get?] at this
    | cons d n =>
      obtain ⟨l, w⟩ := d
      simp only [Map.sorted] at hm hn
      have hk := h k
      have hl := h l
      simp only [Map.get?, if_true] at hk hl
      have hkl : k = l := by
        rcases Nat.lt_trichotomy k l with hlt | heq | hgt
        · rw [if_neg (by omega), if_pos hlt] at hk; simp at hk
        · exact heq
        · rw [if_neg (by omega), if_pos hgt] at hl; simp at hl
      subst hkl
      simp only [if_true, Option.some.injEq] at hk
      subst hk
      congr 1
      refine ih (Map.sorted_of_above m hm) (Map.sorted_of_above n hn) (fun i => ?_)
      by_cases hi : i ≤ k
      · rw [Map.get?_above m hm hi, Map.get?_above n hn hi]
      · have := h i
        simp only [Map.get?] at this
        rwa [if_neg (by omega), if_neg (by omega), if_neg (by omega), if_neg (by omega)] at this

theorem Memory.readN_add (m : Memory) (a n k : Nat) : Memory.readN m a (n + k) = Memory.readN m a n ++ Memory.readN m (a + n) k := by
  induction n generalizing a with
  | zero => simp [Memory.readN]
  | succ n ih => rw [Nat.add_right_comm]; simp [Memory.readN, ih, Nat.add_assoc, Nat.add_comm 1]

/-- Addresses that no entry lists read as the background. -/
theorem Memory.readN_unlisted {m : Memory} {a n : Nat} (h : ∀ c ∈ m, c.1 < a ∨ a + n ≤ c.1) : Memory.readN m a n = List.replicate n 0 := by
  induction n generalizing a with
  | zero => rfl
  | succ n ih =>
    have h0 : Memory.read m a = 0 := by
      unfold Memory.read Map.getD
      match hg : Map.get? m a with
      | none => rfl
      | some v =>
        have h1 : a < a ∨ a + (n + 1) ≤ a := h _ (Map.mem_of_get? hg)
        omega
    rw [Memory.readN, h0, ih (fun c hc => by have := h c hc; omega)]
    rfl

end Sys2Proof.Machine
end

