-- ==== Sys2Proof/Laws/State.lean ====
section
/-!
SUPPORT. One lemma per field per update of the state, so that no proof unfolds a record update; and the laws of the acting strand.
-/
namespace Sys2Proof.Machine

/-! ### State.setStrand -/

@[simp] theorem State.setStrand_mem (s : State) (c k : Nat) (x : Strand) : (s.setStrand c k x).mem = s.mem := rfl
@[simp] theorem State.setStrand_memKey (s : State) (c k : Nat) (x : Strand) : (s.setStrand c k x).memKey = s.memKey := rfl
@[simp] theorem State.setStrand_poison (s : State) (c k : Nat) (x : Strand) : (s.setStrand c k x).poison = s.poison := rfl
@[simp] theorem State.setStrand_keys (s : State) (c k : Nat) (x : Strand) : (s.setStrand c k x).keys = s.keys := rfl
@[simp] theorem State.setStrand_cores (s : State) (c k : Nat) (x : Strand) : (s.setStrand c k x).cores = s.cores := rfl
@[simp] theorem State.setStrand_pcores (s : State) (c k : Nat) (x : Strand) : (s.setStrand c k x).pcores = s.pcores := rfl
@[simp] theorem State.setStrand_clusters (s : State) (c k : Nat) (x : Strand) : (s.setStrand c k x).clusters = s.clusters := rfl
@[simp] theorem State.setStrand_parts (s : State) (c k : Nat) (x : Strand) : (s.setStrand c k x).parts = s.parts := rfl
@[simp] theorem State.setStrand_vfs (s : State) (c k : Nat) (x : Strand) : (s.setStrand c k x).vfs = s.vfs := rfl
@[simp] theorem State.setStrand_launches (s : State) (c k : Nat) (x : Strand) : (s.setStrand c k x).launches = s.launches := rfl
@[simp] theorem State.setStrand_pricks (s : State) (c k : Nat) (x : Strand) : (s.setStrand c k x).pricks = s.pricks := rfl
@[simp] theorem State.setStrand_agents (s : State) (c k : Nat) (x : Strand) : (s.setStrand c k x).agents = s.agents := rfl
@[simp] theorem State.setStrand_foot (s : State) (c k : Nat) (x : Strand) : (s.setStrand c k x).foot = s.foot := rfl
@[simp] theorem State.setStrand_accSeq (s : State) (c k : Nat) (x : Strand) : (s.setStrand c k x).accSeq = s.accSeq := rfl
@[simp] theorem State.setStrand_xfers (s : State) (c k : Nat) (x : Strand) : (s.setStrand c k x).xfers = s.xfers := rfl
@[simp] theorem State.setStrand_colls (s : State) (c k : Nat) (x : Strand) : (s.setStrand c k x).colls = s.colls := rfl
@[simp] theorem State.setStrand_barFlips (s : State) (c k : Nat) (x : Strand) : (s.setStrand c k x).barFlips = s.barFlips := rfl
@[simp] theorem State.setStrand_mgmt (s : State) (c k : Nat) (x : Strand) : (s.setStrand c k x).mgmt = s.mgmt := rfl
@[simp] theorem State.setStrand_tele (s : State) (c k : Nat) (x : Strand) : (s.setStrand c k x).tele = s.tele := rfl
@[simp] theorem State.setStrand_fw (s : State) (c k : Nat) (x : Strand) : (s.setStrand c k x).fw = s.fw := rfl
@[simp] theorem State.setStrand_arbs (s : State) (c k : Nat) (x : Strand) : (s.setStrand c k x).arbs = s.arbs := rfl
@[simp] theorem State.setStrand_span (s : State) (c k : Nat) (x : Strand) : (s.setStrand c k x).span = s.span := rfl
@[simp] theorem State.setStrand_spanTab (s : State) (c k : Nat) (x : Strand) : (s.setStrand c k x).spanTab = s.spanTab := rfl
@[simp] theorem State.setStrand_nextTab (s : State) (c k : Nat) (x : Strand) : (s.setStrand c k x).nextTab = s.nextTab := rfl
@[simp] theorem State.setStrand_now (s : State) (c k : Nat) (x : Strand) : (s.setStrand c k x).now = s.now := rfl
@[simp] theorem State.setStrand_cur (s : State) (c k : Nat) (x : Strand) : (s.setStrand c k x).cur = s.cur := rfl
@[simp] theorem State.setStrand_agenda (s : State) (c k : Nat) (x : Strand) : (s.setStrand c k x).agenda = s.agenda := rfl
@[simp] theorem State.setStrand_fresh (s : State) (c k : Nat) (x : Strand) : (s.setStrand c k x).fresh = s.fresh := rfl
@[simp] theorem State.setStrand_freeCtr (s : State) (c k : Nat) (x : Strand) : (s.setStrand c k x).freeCtr = s.freeCtr := rfl
@[simp] theorem State.setStrand_out (s : State) (c k : Nat) (x : Strand) : (s.setStrand c k x).out = s.out := rfl
@[simp] theorem State.setStrand_flights (s : State) (c k : Nat) (x : Strand) : (s.setStrand c k x).flights = s.flights := rfl

/-! ### State.setMe -/

@[simp] theorem State.setMe_mem (s : State) (x : Strand) : (s.setMe x).mem = s.mem := rfl
@[simp] theorem State.setMe_memKey (s : State) (x : Strand) : (s.setMe x).memKey = s.memKey := rfl
@[simp] theorem State.setMe_poison (s : State) (x : Strand) : (s.setMe x).poison = s.poison := rfl
@[simp] theorem State.setMe_keys (s : State) (x : Strand) : (s.setMe x).keys = s.keys := rfl
@[simp] theorem State.setMe_cores (s : State) (x : Strand) : (s.setMe x).cores = s.cores := rfl
@[simp] theorem State.setMe_pcores (s : State) (x : Strand) : (s.setMe x).pcores = s.pcores := rfl
@[simp] theorem State.setMe_clusters (s : State) (x : Strand) : (s.setMe x).clusters = s.clusters := rfl
@[simp] theorem State.setMe_parts (s : State) (x : Strand) : (s.setMe x).parts = s.parts := rfl
@[simp] theorem State.setMe_vfs (s : State) (x : Strand) : (s.setMe x).vfs = s.vfs := rfl
@[simp] theorem State.setMe_launches (s : State) (x : Strand) : (s.setMe x).launches = s.launches := rfl
@[simp] theorem State.setMe_pricks (s : State) (x : Strand) : (s.setMe x).pricks = s.pricks := rfl
@[simp] theorem State.setMe_agents (s : State) (x : Strand) : (s.setMe x).agents = s.agents := rfl
@[simp] theorem State.setMe_foot (s : State) (x : Strand) : (s.setMe x).foot = s.foot := rfl
@[simp] theorem State.setMe_accSeq (s : State) (x : Strand) : (s.setMe x).accSeq = s.accSeq := rfl
@[simp] theorem State.setMe_xfers (s : State) (x : Strand) : (s.setMe x).xfers = s.xfers := rfl
@[simp] theorem State.setMe_colls (s : State) (x : Strand) : (s.setMe x).colls = s.colls := rfl
@[simp] theorem State.setMe_barFlips (s : State) (x : Strand) : (s.setMe x).barFlips = s.barFlips := rfl
@[simp] theorem State.setMe_mgmt (s : State) (x : Strand) : (s.setMe x).mgmt = s.mgmt := rfl
@[simp] theorem State.setMe_tele (s : State) (x : Strand) : (s.setMe x).tele = s.tele := rfl
@[simp] theorem State.setMe_fw (s : State) (x : Strand) : (s.setMe x).fw = s.fw := rfl
@[simp] theorem State.setMe_arbs (s : State) (x : Strand) : (s.setMe x).arbs = s.arbs := rfl
@[simp] theorem State.setMe_span (s : State) (x : Strand) : (s.setMe x).span = s.span := rfl
@[simp] theorem State.setMe_spanTab (s : State) (x : Strand) : (s.setMe x).spanTab = s.spanTab := rfl
@[simp] theorem State.setMe_nextTab (s : State) (x : Strand) : (s.setMe x).nextTab = s.nextTab := rfl
@[simp] theorem State.setMe_now (s : State) (x : Strand) : (s.setMe x).now = s.now := rfl
@[simp] theorem State.setMe_cur (s : State) (x : Strand) : (s.setMe x).cur = s.cur := rfl
@[simp] theorem State.setMe_agenda (s : State) (x : Strand) : (s.setMe x).agenda = s.agenda := rfl
@[simp] theorem State.setMe_fresh (s : State) (x : Strand) : (s.setMe x).fresh = s.fresh := rfl
@[simp] theorem State.setMe_freeCtr (s : State) (x : Strand) : (s.setMe x).freeCtr = s.freeCtr := rfl
@[simp] theorem State.setMe_out (s : State) (x : Strand) : (s.setMe x).out = s.out := rfl
@[simp] theorem State.setMe_flights (s : State) (x : Strand) : (s.setMe x).flights = s.flights := rfl

/-! ### State.setPart -/

@[simp] theorem State.setPart_mem (s : State) (n : Nat) (x : Part) : (s.setPart n x).mem = s.mem := rfl
@[simp] theorem State.setPart_memKey (s : State) (n : Nat) (x : Part) : (s.setPart n x).memKey = s.memKey := rfl
@[simp] theorem State.setPart_poison (s : State) (n : Nat) (x : Part) : (s.setPart n x).poison = s.poison := rfl
@[simp] theorem State.setPart_keys (s : State) (n : Nat) (x : Part) : (s.setPart n x).keys = s.keys := rfl
@[simp] theorem State.setPart_strands (s : State) (n : Nat) (x : Part) : (s.setPart n x).strands = s.strands := rfl
@[simp] theorem State.setPart_cores (s : State) (n : Nat) (x : Part) : (s.setPart n x).cores = s.cores := rfl
@[simp] theorem State.setPart_pcores (s : State) (n : Nat) (x : Part) : (s.setPart n x).pcores = s.pcores := rfl
@[simp] theorem State.setPart_clusters (s : State) (n : Nat) (x : Part) : (s.setPart n x).clusters = s.clusters := rfl
@[simp] theorem State.setPart_vfs (s : State) (n : Nat) (x : Part) : (s.setPart n x).vfs = s.vfs := rfl
@[simp] theorem State.setPart_launches (s : State) (n : Nat) (x : Part) : (s.setPart n x).launches = s.launches := rfl
@[simp] theorem State.setPart_pricks (s : State) (n : Nat) (x : Part) : (s.setPart n x).pricks = s.pricks := rfl
@[simp] theorem State.setPart_agents (s : State) (n : Nat) (x : Part) : (s.setPart n x).agents = s.agents := rfl
@[simp] theorem State.setPart_foot (s : State) (n : Nat) (x : Part) : (s.setPart n x).foot = s.foot := rfl
@[simp] theorem State.setPart_accSeq (s : State) (n : Nat) (x : Part) : (s.setPart n x).accSeq = s.accSeq := rfl
@[simp] theorem State.setPart_xfers (s : State) (n : Nat) (x : Part) : (s.setPart n x).xfers = s.xfers := rfl
@[simp] theorem State.setPart_colls (s : State) (n : Nat) (x : Part) : (s.setPart n x).colls = s.colls := rfl
@[simp] theorem State.setPart_barFlips (s : State) (n : Nat) (x : Part) : (s.setPart n x).barFlips = s.barFlips := rfl
@[simp] theorem State.setPart_mgmt (s : State) (n : Nat) (x : Part) : (s.setPart n x).mgmt = s.mgmt := rfl
@[simp] theorem State.setPart_tele (s : State) (n : Nat) (x : Part) : (s.setPart n x).tele = s.tele := rfl
@[simp] theorem State.setPart_fw (s : State) (n : Nat) (x : Part) : (s.setPart n x).fw = s.fw := rfl
@[simp] theorem State.setPart_arbs (s : State) (n : Nat) (x : Part) : (s.setPart n x).arbs = s.arbs := rfl
@[simp] theorem State.setPart_span (s : State) (n : Nat) (x : Part) : (s.setPart n x).span = s.span := rfl
@[simp] theorem State.setPart_spanTab (s : State) (n : Nat) (x : Part) : (s.setPart n x).spanTab = s.spanTab := rfl
@[simp] theorem State.setPart_nextTab (s : State) (n : Nat) (x : Part) : (s.setPart n x).nextTab = s.nextTab := rfl
@[simp] theorem State.setPart_now (s : State) (n : Nat) (x : Part) : (s.setPart n x).now = s.now := rfl
@[simp] theorem State.setPart_cur (s : State) (n : Nat) (x : Part) : (s.setPart n x).cur = s.cur := rfl
@[simp] theorem State.setPart_agenda (s : State) (n : Nat) (x : Part) : (s.setPart n x).agenda = s.agenda := rfl
@[simp] theorem State.setPart_fresh (s : State) (n : Nat) (x : Part) : (s.setPart n x).fresh = s.fresh := rfl
@[simp] theorem State.setPart_freeCtr (s : State) (n : Nat) (x : Part) : (s.setPart n x).freeCtr = s.freeCtr := rfl
@[simp] theorem State.setPart_out (s : State) (n : Nat) (x : Part) : (s.setPart n x).out = s.out := rfl
@[simp] theorem State.setPart_flights (s : State) (n : Nat) (x : Part) : (s.setPart n x).flights = s.flights := rfl

/-! ### State.setVf -/

@[simp] theorem State.setVf_mem (s : State) (n : Nat) (x : VF) : (s.setVf n x).mem = s.mem := rfl
@[simp] theorem State.setVf_memKey (s : State) (n : Nat) (x : VF) : (s.setVf n x).memKey = s.memKey := rfl
@[simp] theorem State.setVf_poison (s : State) (n : Nat) (x : VF) : (s.setVf n x).poison = s.poison := rfl
@[simp] theorem State.setVf_keys (s : State) (n : Nat) (x : VF) : (s.setVf n x).keys = s.keys := rfl
@[simp] theorem State.setVf_strands (s : State) (n : Nat) (x : VF) : (s.setVf n x).strands = s.strands := rfl
@[simp] theorem State.setVf_cores (s : State) (n : Nat) (x : VF) : (s.setVf n x).cores = s.cores := rfl
@[simp] theorem State.setVf_pcores (s : State) (n : Nat) (x : VF) : (s.setVf n x).pcores = s.pcores := rfl
@[simp] theorem State.setVf_clusters (s : State) (n : Nat) (x : VF) : (s.setVf n x).clusters = s.clusters := rfl
@[simp] theorem State.setVf_parts (s : State) (n : Nat) (x : VF) : (s.setVf n x).parts = s.parts := rfl
@[simp] theorem State.setVf_launches (s : State) (n : Nat) (x : VF) : (s.setVf n x).launches = s.launches := rfl
@[simp] theorem State.setVf_pricks (s : State) (n : Nat) (x : VF) : (s.setVf n x).pricks = s.pricks := rfl
@[simp] theorem State.setVf_agents (s : State) (n : Nat) (x : VF) : (s.setVf n x).agents = s.agents := rfl
@[simp] theorem State.setVf_foot (s : State) (n : Nat) (x : VF) : (s.setVf n x).foot = s.foot := rfl
@[simp] theorem State.setVf_accSeq (s : State) (n : Nat) (x : VF) : (s.setVf n x).accSeq = s.accSeq := rfl
@[simp] theorem State.setVf_xfers (s : State) (n : Nat) (x : VF) : (s.setVf n x).xfers = s.xfers := rfl
@[simp] theorem State.setVf_colls (s : State) (n : Nat) (x : VF) : (s.setVf n x).colls = s.colls := rfl
@[simp] theorem State.setVf_barFlips (s : State) (n : Nat) (x : VF) : (s.setVf n x).barFlips = s.barFlips := rfl
@[simp] theorem State.setVf_mgmt (s : State) (n : Nat) (x : VF) : (s.setVf n x).mgmt = s.mgmt := rfl
@[simp] theorem State.setVf_tele (s : State) (n : Nat) (x : VF) : (s.setVf n x).tele = s.tele := rfl
@[simp] theorem State.setVf_fw (s : State) (n : Nat) (x : VF) : (s.setVf n x).fw = s.fw := rfl
@[simp] theorem State.setVf_arbs (s : State) (n : Nat) (x : VF) : (s.setVf n x).arbs = s.arbs := rfl
@[simp] theorem State.setVf_span (s : State) (n : Nat) (x : VF) : (s.setVf n x).span = s.span := rfl
@[simp] theorem State.setVf_spanTab (s : State) (n : Nat) (x : VF) : (s.setVf n x).spanTab = s.spanTab := rfl
@[simp] theorem State.setVf_nextTab (s : State) (n : Nat) (x : VF) : (s.setVf n x).nextTab = s.nextTab := rfl
@[simp] theorem State.setVf_now (s : State) (n : Nat) (x : VF) : (s.setVf n x).now = s.now := rfl
@[simp] theorem State.setVf_cur (s : State) (n : Nat) (x : VF) : (s.setVf n x).cur = s.cur := rfl
@[simp] theorem State.setVf_agenda (s : State) (n : Nat) (x : VF) : (s.setVf n x).agenda = s.agenda := rfl
@[simp] theorem State.setVf_fresh (s : State) (n : Nat) (x : VF) : (s.setVf n x).fresh = s.fresh := rfl
@[simp] theorem State.setVf_freeCtr (s : State) (n : Nat) (x : VF) : (s.setVf n x).freeCtr = s.freeCtr := rfl
@[simp] theorem State.setVf_out (s : State) (n : Nat) (x : VF) : (s.setVf n x).out = s.out := rfl
@[simp] theorem State.setVf_flights (s : State) (n : Nat) (x : VF) : (s.setVf n x).flights = s.flights := rfl

/-! ### State.setCore -/

@[simp] theorem State.setCore_mem (s : State) (n : Nat) (x : Core) : (s.setCore n x).mem = s.mem := rfl
@[simp] theorem State.setCore_memKey (s : State) (n : Nat) (x : Core) : (s.setCore n x).memKey = s.memKey := rfl
@[simp] theorem State.setCore_poison (s : State) (n : Nat) (x : Core) : (s.setCore n x).poison = s.poison := rfl
@[simp] theorem State.setCore_keys (s : State) (n : Nat) (x : Core) : (s.setCore n x).keys = s.keys := rfl
@[simp] theorem State.setCore_strands (s : State) (n : Nat) (x : Core) : (s.setCore n x).strands = s.strands := rfl
@[simp] theorem State.setCore_pcores (s : State) (n : Nat) (x : Core) : (s.setCore n x).pcores = s.pcores := rfl
@[simp] theorem State.setCore_clusters (s : State) (n : Nat) (x : Core) : (s.setCore n x).clusters = s.clusters := rfl
@[simp] theorem State.setCore_parts (s : State) (n : Nat) (x : Core) : (s.setCore n x).parts = s.parts := rfl
@[simp] theorem State.setCore_vfs (s : State) (n : Nat) (x : Core) : (s.setCore n x).vfs = s.vfs := rfl
@[simp] theorem State.setCore_launches (s : State) (n : Nat) (x : Core) : (s.setCore n x).launches = s.launches := rfl
@[simp] theorem State.setCore_pricks (s : State) (n : Nat) (x : Core) : (s.setCore n x).pricks = s.pricks := rfl
@[simp] theorem State.setCore_agents (s : State) (n : Nat) (x : Core) : (s.setCore n x).agents = s.agents := rfl
@[simp] theorem State.setCore_foot (s : State) (n : Nat) (x : Core) : (s.setCore n x).foot = s.foot := rfl
@[simp] theorem State.setCore_accSeq (s : State) (n : Nat) (x : Core) : (s.setCore n x).accSeq = s.accSeq := rfl
@[simp] theorem State.setCore_xfers (s : State) (n : Nat) (x : Core) : (s.setCore n x).xfers = s.xfers := rfl
@[simp] theorem State.setCore_colls (s : State) (n : Nat) (x : Core) : (s.setCore n x).colls = s.colls := rfl
@[simp] theorem State.setCore_barFlips (s : State) (n : Nat) (x : Core) : (s.setCore n x).barFlips = s.barFlips := rfl
@[simp] theorem State.setCore_mgmt (s : State) (n : Nat) (x : Core) : (s.setCore n x).mgmt = s.mgmt := rfl
@[simp] theorem State.setCore_tele (s : State) (n : Nat) (x : Core) : (s.setCore n x).tele = s.tele := rfl
@[simp] theorem State.setCore_fw (s : State) (n : Nat) (x : Core) : (s.setCore n x).fw = s.fw := rfl
@[simp] theorem State.setCore_arbs (s : State) (n : Nat) (x : Core) : (s.setCore n x).arbs = s.arbs := rfl
@[simp] theorem State.setCore_span (s : State) (n : Nat) (x : Core) : (s.setCore n x).span = s.span := rfl
@[simp] theorem State.setCore_spanTab (s : State) (n : Nat) (x : Core) : (s.setCore n x).spanTab = s.spanTab := rfl
@[simp] theorem State.setCore_nextTab (s : State) (n : Nat) (x : Core) : (s.setCore n x).nextTab = s.nextTab := rfl
@[simp] theorem State.setCore_now (s : State) (n : Nat) (x : Core) : (s.setCore n x).now = s.now := rfl
@[simp] theorem State.setCore_cur (s : State) (n : Nat) (x : Core) : (s.setCore n x).cur = s.cur := rfl
@[simp] theorem State.setCore_agenda (s : State) (n : Nat) (x : Core) : (s.setCore n x).agenda = s.agenda := rfl
@[simp] theorem State.setCore_fresh (s : State) (n : Nat) (x : Core) : (s.setCore n x).fresh = s.fresh := rfl
@[simp] theorem State.setCore_freeCtr (s : State) (n : Nat) (x : Core) : (s.setCore n x).freeCtr = s.freeCtr := rfl
@[simp] theorem State.setCore_out (s : State) (n : Nat) (x : Core) : (s.setCore n x).out = s.out := rfl
@[simp] theorem State.setCore_flights (s : State) (n : Nat) (x : Core) : (s.setCore n x).flights = s.flights := rfl

/-! ### State.setPCore -/

@[simp] theorem State.setPCore_mem (s : State) (p c : Nat) (x : PCore) : (s.setPCore p c x).mem = s.mem := rfl
@[simp] theorem State.setPCore_memKey (s : State) (p c : Nat) (x : PCore) : (s.setPCore p c x).memKey = s.memKey := rfl
@[simp] theorem State.setPCore_poison (s : State) (p c : Nat) (x : PCore) : (s.setPCore p c x).poison = s.poison := rfl
@[simp] theorem State.setPCore_keys (s : State) (p c : Nat) (x : PCore) : (s.setPCore p c x).keys = s.keys := rfl
@[simp] theorem State.setPCore_strands (s : State) (p c : Nat) (x : PCore) : (s.setPCore p c x).strands = s.strands := rfl
@[simp] theorem State.setPCore_cores (s : State) (p c : Nat) (x : PCore) : (s.setPCore p c x).cores = s.cores := rfl
@[simp] theorem State.setPCore_clusters (s : State) (p c : Nat) (x : PCore) : (s.setPCore p c x).clusters = s.clusters := rfl
@[simp] theorem State.setPCore_parts (s : State) (p c : Nat) (x : PCore) : (s.setPCore p c x).parts = s.parts := rfl
@[simp] theorem State.setPCore_vfs (s : State) (p c : Nat) (x : PCore) : (s.setPCore p c x).vfs = s.vfs := rfl
@[simp] theorem State.setPCore_launches (s : State) (p c : Nat) (x : PCore) : (s.setPCore p c x).launches = s.launches := rfl
@[simp] theorem State.setPCore_pricks (s : State) (p c : Nat) (x : PCore) : (s.setPCore p c x).pricks = s.pricks := rfl
@[simp] theorem State.setPCore_agents (s : State) (p c : Nat) (x : PCore) : (s.setPCore p c x).agents = s.agents := rfl
@[simp] theorem State.setPCore_foot (s : State) (p c : Nat) (x : PCore) : (s.setPCore p c x).foot = s.foot := rfl
@[simp] theorem State.setPCore_accSeq (s : State) (p c : Nat) (x : PCore) : (s.setPCore p c x).accSeq = s.accSeq := rfl
@[simp] theorem State.setPCore_xfers (s : State) (p c : Nat) (x : PCore) : (s.setPCore p c x).xfers = s.xfers := rfl
@[simp] theorem State.setPCore_colls (s : State) (p c : Nat) (x : PCore) : (s.setPCore p c x).colls = s.colls := rfl
@[simp] theorem State.setPCore_barFlips (s : State) (p c : Nat) (x : PCore) : (s.setPCore p c x).barFlips = s.barFlips := rfl
@[simp] theorem State.setPCore_mgmt (s : State) (p c : Nat) (x : PCore) : (s.setPCore p c x).mgmt = s.mgmt := rfl
@[simp] theorem State.setPCore_tele (s : State) (p c : Nat) (x : PCore) : (s.setPCore p c x).tele = s.tele := rfl
@[simp] theorem State.setPCore_fw (s : State) (p c : Nat) (x : PCore) : (s.setPCore p c x).fw = s.fw := rfl
@[simp] theorem State.setPCore_arbs (s : State) (p c : Nat) (x : PCore) : (s.setPCore p c x).arbs = s.arbs := rfl
@[simp] theorem State.setPCore_span (s : State) (p c : Nat) (x : PCore) : (s.setPCore p c x).span = s.span := rfl
@[simp] theorem State.setPCore_spanTab (s : State) (p c : Nat) (x : PCore) : (s.setPCore p c x).spanTab = s.spanTab := rfl
@[simp] theorem State.setPCore_nextTab (s : State) (p c : Nat) (x : PCore) : (s.setPCore p c x).nextTab = s.nextTab := rfl
@[simp] theorem State.setPCore_now (s : State) (p c : Nat) (x : PCore) : (s.setPCore p c x).now = s.now := rfl
@[simp] theorem State.setPCore_cur (s : State) (p c : Nat) (x : PCore) : (s.setPCore p c x).cur = s.cur := rfl
@[simp] theorem State.setPCore_agenda (s : State) (p c : Nat) (x : PCore) : (s.setPCore p c x).agenda = s.agenda := rfl
@[simp] theorem State.setPCore_fresh (s : State) (p c : Nat) (x : PCore) : (s.setPCore p c x).fresh = s.fresh := rfl
@[simp] theorem State.setPCore_freeCtr (s : State) (p c : Nat) (x : PCore) : (s.setPCore p c x).freeCtr = s.freeCtr := rfl
@[simp] theorem State.setPCore_out (s : State) (p c : Nat) (x : PCore) : (s.setPCore p c x).out = s.out := rfl
@[simp] theorem State.setPCore_flights (s : State) (p c : Nat) (x : PCore) : (s.setPCore p c x).flights = s.flights := rfl

/-! ### State.setCluster -/

@[simp] theorem State.setCluster_mem (s : State) (n : Nat) (x : Cluster) : (s.setCluster n x).mem = s.mem := rfl
@[simp] theorem State.setCluster_memKey (s : State) (n : Nat) (x : Cluster) : (s.setCluster n x).memKey = s.memKey := rfl
@[simp] theorem State.setCluster_poison (s : State) (n : Nat) (x : Cluster) : (s.setCluster n x).poison = s.poison := rfl
@[simp] theorem State.setCluster_keys (s : State) (n : Nat) (x : Cluster) : (s.setCluster n x).keys = s.keys := rfl
@[simp] theorem State.setCluster_strands (s : State) (n : Nat) (x : Cluster) : (s.setCluster n x).strands = s.strands := rfl
@[simp] theorem State.setCluster_cores (s : State) (n : Nat) (x : Cluster) : (s.setCluster n x).cores = s.cores := rfl
@[simp] theorem State.setCluster_pcores (s : State) (n : Nat) (x : Cluster) : (s.setCluster n x).pcores = s.pcores := rfl
@[simp] theorem State.setCluster_parts (s : State) (n : Nat) (x : Cluster) : (s.setCluster n x).parts = s.parts := rfl
@[simp] theorem State.setCluster_vfs (s : State) (n : Nat) (x : Cluster) : (s.setCluster n x).vfs = s.vfs := rfl
@[simp] theorem State.setCluster_launches (s : State) (n : Nat) (x : Cluster) : (s.setCluster n x).launches = s.launches := rfl
@[simp] theorem State.setCluster_pricks (s : State) (n : Nat) (x : Cluster) : (s.setCluster n x).pricks = s.pricks := rfl
@[simp] theorem State.setCluster_agents (s : State) (n : Nat) (x : Cluster) : (s.setCluster n x).agents = s.agents := rfl
@[simp] theorem State.setCluster_foot (s : State) (n : Nat) (x : Cluster) : (s.setCluster n x).foot = s.foot := rfl
@[simp] theorem State.setCluster_accSeq (s : State) (n : Nat) (x : Cluster) : (s.setCluster n x).accSeq = s.accSeq := rfl
@[simp] theorem State.setCluster_xfers (s : State) (n : Nat) (x : Cluster) : (s.setCluster n x).xfers = s.xfers := rfl
@[simp] theorem State.setCluster_colls (s : State) (n : Nat) (x : Cluster) : (s.setCluster n x).colls = s.colls := rfl
@[simp] theorem State.setCluster_barFlips (s : State) (n : Nat) (x : Cluster) : (s.setCluster n x).barFlips = s.barFlips := rfl
@[simp] theorem State.setCluster_mgmt (s : State) (n : Nat) (x : Cluster) : (s.setCluster n x).mgmt = s.mgmt := rfl
@[simp] theorem State.setCluster_tele (s : State) (n : Nat) (x : Cluster) : (s.setCluster n x).tele = s.tele := rfl
@[simp] theorem State.setCluster_fw (s : State) (n : Nat) (x : Cluster) : (s.setCluster n x).fw = s.fw := rfl
@[simp] theorem State.setCluster_arbs (s : State) (n : Nat) (x : Cluster) : (s.setCluster n x).arbs = s.arbs := rfl
@[simp] theorem State.setCluster_span (s : State) (n : Nat) (x : Cluster) : (s.setCluster n x).span = s.span := rfl
@[simp] theorem State.setCluster_spanTab (s : State) (n : Nat) (x : Cluster) : (s.setCluster n x).spanTab = s.spanTab := rfl
@[simp] theorem State.setCluster_nextTab (s : State) (n : Nat) (x : Cluster) : (s.setCluster n x).nextTab = s.nextTab := rfl
@[simp] theorem State.setCluster_now (s : State) (n : Nat) (x : Cluster) : (s.setCluster n x).now = s.now := rfl
@[simp] theorem State.setCluster_cur (s : State) (n : Nat) (x : Cluster) : (s.setCluster n x).cur = s.cur := rfl
@[simp] theorem State.setCluster_agenda (s : State) (n : Nat) (x : Cluster) : (s.setCluster n x).agenda = s.agenda := rfl
@[simp] theorem State.setCluster_fresh (s : State) (n : Nat) (x : Cluster) : (s.setCluster n x).fresh = s.fresh := rfl
@[simp] theorem State.setCluster_freeCtr (s : State) (n : Nat) (x : Cluster) : (s.setCluster n x).freeCtr = s.freeCtr := rfl
@[simp] theorem State.setCluster_out (s : State) (n : Nat) (x : Cluster) : (s.setCluster n x).out = s.out := rfl
@[simp] theorem State.setCluster_flights (s : State) (n : Nat) (x : Cluster) : (s.setCluster n x).flights = s.flights := rfl

/-! ### State.advance -/

@[simp] theorem State.advance_mem (s : State) (n : Nat) : (s.advance n).mem = s.mem := rfl
@[simp] theorem State.advance_memKey (s : State) (n : Nat) : (s.advance n).memKey = s.memKey := rfl
@[simp] theorem State.advance_poison (s : State) (n : Nat) : (s.advance n).poison = s.poison := rfl
@[simp] theorem State.advance_keys (s : State) (n : Nat) : (s.advance n).keys = s.keys := rfl
@[simp] theorem State.advance_cores (s : State) (n : Nat) : (s.advance n).cores = s.cores := rfl
@[simp] theorem State.advance_pcores (s : State) (n : Nat) : (s.advance n).pcores = s.pcores := rfl
@[simp] theorem State.advance_clusters (s : State) (n : Nat) : (s.advance n).clusters = s.clusters := rfl
@[simp] theorem State.advance_parts (s : State) (n : Nat) : (s.advance n).parts = s.parts := rfl
@[simp] theorem State.advance_vfs (s : State) (n : Nat) : (s.advance n).vfs = s.vfs := rfl
@[simp] theorem State.advance_launches (s : State) (n : Nat) : (s.advance n).launches = s.launches := rfl
@[simp] theorem State.advance_pricks (s : State) (n : Nat) : (s.advance n).pricks = s.pricks := rfl
@[simp] theorem State.advance_agents (s : State) (n : Nat) : (s.advance n).agents = s.agents := rfl
@[simp] theorem State.advance_foot (s : State) (n : Nat) : (s.advance n).foot = s.foot := rfl
@[simp] theorem State.advance_accSeq (s : State) (n : Nat) : (s.advance n).accSeq = s.accSeq := rfl
@[simp] theorem State.advance_xfers (s : State) (n : Nat) : (s.advance n).xfers = s.xfers := rfl
@[simp] theorem State.advance_colls (s : State) (n : Nat) : (s.advance n).colls = s.colls := rfl
@[simp] theorem State.advance_barFlips (s : State) (n : Nat) : (s.advance n).barFlips = s.barFlips := rfl
@[simp] theorem State.advance_mgmt (s : State) (n : Nat) : (s.advance n).mgmt = s.mgmt := rfl
@[simp] theorem State.advance_tele (s : State) (n : Nat) : (s.advance n).tele = s.tele := rfl
@[simp] theorem State.advance_fw (s : State) (n : Nat) : (s.advance n).fw = s.fw := rfl
@[simp] theorem State.advance_arbs (s : State) (n : Nat) : (s.advance n).arbs = s.arbs := rfl
@[simp] theorem State.advance_span (s : State) (n : Nat) : (s.advance n).span = s.span := rfl
@[simp] theorem State.advance_spanTab (s : State) (n : Nat) : (s.advance n).spanTab = s.spanTab := rfl
@[simp] theorem State.advance_nextTab (s : State) (n : Nat) : (s.advance n).nextTab = s.nextTab := rfl
@[simp] theorem State.advance_now (s : State) (n : Nat) : (s.advance n).now = s.now := rfl
@[simp] theorem State.advance_cur (s : State) (n : Nat) : (s.advance n).cur = s.cur := rfl
@[simp] theorem State.advance_agenda (s : State) (n : Nat) : (s.advance n).agenda = s.agenda := rfl
@[simp] theorem State.advance_fresh (s : State) (n : Nat) : (s.advance n).fresh = s.fresh := rfl
@[simp] theorem State.advance_freeCtr (s : State) (n : Nat) : (s.advance n).freeCtr = s.freeCtr := rfl
@[simp] theorem State.advance_out (s : State) (n : Nat) : (s.advance n).out = s.out := rfl
@[simp] theorem State.advance_flights (s : State) (n : Nat) : (s.advance n).flights = s.flights := rfl

/-! ### State.jump -/

@[simp] theorem State.jump_mem (s : State) (w : Word) : (s.jump w).mem = s.mem := rfl
@[simp] theorem State.jump_memKey (s : State) (w : Word) : (s.jump w).memKey = s.memKey := rfl
@[simp] theorem State.jump_poison (s : State) (w : Word) : (s.jump w).poison = s.poison := rfl
@[simp] theorem State.jump_keys (s : State) (w : Word) : (s.jump w).keys = s.keys := rfl
@[simp] theorem State.jump_cores (s : State) (w : Word) : (s.jump w).cores = s.cores := rfl
@[simp] theorem State.jump_pcores (s : State) (w : Word) : (s.jump w).pcores = s.pcores := rfl
@[simp] theorem State.jump_clusters (s : State) (w : Word) : (s.jump w).clusters = s.clusters := rfl
@[simp] theorem State.jump_parts (s : State) (w : Word) : (s.jump w).parts = s.parts := rfl
@[simp] theorem State.jump_vfs (s : State) (w : Word) : (s.jump w).vfs = s.vfs := rfl
@[simp] theorem State.jump_launches (s : State) (w : Word) : (s.jump w).launches = s.launches := rfl
@[simp] theorem State.jump_pricks (s : State) (w : Word) : (s.jump w).pricks = s.pricks := rfl
@[simp] theorem State.jump_agents (s : State) (w : Word) : (s.jump w).agents = s.agents := rfl
@[simp] theorem State.jump_foot (s : State) (w : Word) : (s.jump w).foot = s.foot := rfl
@[simp] theorem State.jump_accSeq (s : State) (w : Word) : (s.jump w).accSeq = s.accSeq := rfl
@[simp] theorem State.jump_xfers (s : State) (w : Word) : (s.jump w).xfers = s.xfers := rfl
@[simp] theorem State.jump_colls (s : State) (w : Word) : (s.jump w).colls = s.colls := rfl
@[simp] theorem State.jump_barFlips (s : State) (w : Word) : (s.jump w).barFlips = s.barFlips := rfl
@[simp] theorem State.jump_mgmt (s : State) (w : Word) : (s.jump w).mgmt = s.mgmt := rfl
@[simp] theorem State.jump_tele (s : State) (w : Word) : (s.jump w).tele = s.tele := rfl
@[simp] theorem State.jump_fw (s : State) (w : Word) : (s.jump w).fw = s.fw := rfl
@[simp] theorem State.jump_arbs (s : State) (w : Word) : (s.jump w).arbs = s.arbs := rfl
@[simp] theorem State.jump_span (s : State) (w : Word) : (s.jump w).span = s.span := rfl
@[simp] theorem State.jump_spanTab (s : State) (w : Word) : (s.jump w).spanTab = s.spanTab := rfl
@[simp] theorem State.jump_nextTab (s : State) (w : Word) : (s.jump w).nextTab = s.nextTab := rfl
@[simp] theorem State.jump_now (s : State) (w : Word) : (s.jump w).now = s.now := rfl
@[simp] theorem State.jump_cur (s : State) (w : Word) : (s.jump w).cur = s.cur := rfl
@[simp] theorem State.jump_agenda (s : State) (w : Word) : (s.jump w).agenda = s.agenda := rfl
@[simp] theorem State.jump_fresh (s : State) (w : Word) : (s.jump w).fresh = s.fresh := rfl
@[simp] theorem State.jump_freeCtr (s : State) (w : Word) : (s.jump w).freeCtr = s.freeCtr := rfl
@[simp] theorem State.jump_out (s : State) (w : Word) : (s.jump w).out = s.out := rfl
@[simp] theorem State.jump_flights (s : State) (w : Word) : (s.jump w).flights = s.flights := rfl

/-! ### State.raise -/

@[simp] theorem State.raise_mem (s : State) (n : Nat) : (s.raise n).mem = s.mem := rfl
@[simp] theorem State.raise_memKey (s : State) (n : Nat) : (s.raise n).memKey = s.memKey := rfl
@[simp] theorem State.raise_poison (s : State) (n : Nat) : (s.raise n).poison = s.poison := rfl
@[simp] theorem State.raise_keys (s : State) (n : Nat) : (s.raise n).keys = s.keys := rfl
@[simp] theorem State.raise_cores (s : State) (n : Nat) : (s.raise n).cores = s.cores := rfl
@[simp] theorem State.raise_pcores (s : State) (n : Nat) : (s.raise n).pcores = s.pcores := rfl
@[simp] theorem State.raise_clusters (s : State) (n : Nat) : (s.raise n).clusters = s.clusters := rfl
@[simp] theorem State.raise_parts (s : State) (n : Nat) : (s.raise n).parts = s.parts := rfl
@[simp] theorem State.raise_vfs (s : State) (n : Nat) : (s.raise n).vfs = s.vfs := rfl
@[simp] theorem State.raise_launches (s : State) (n : Nat) : (s.raise n).launches = s.launches := rfl
@[simp] theorem State.raise_pricks (s : State) (n : Nat) : (s.raise n).pricks = s.pricks := rfl
@[simp] theorem State.raise_agents (s : State) (n : Nat) : (s.raise n).agents = s.agents := rfl
@[simp] theorem State.raise_foot (s : State) (n : Nat) : (s.raise n).foot = s.foot := rfl
@[simp] theorem State.raise_accSeq (s : State) (n : Nat) : (s.raise n).accSeq = s.accSeq := rfl
@[simp] theorem State.raise_xfers (s : State) (n : Nat) : (s.raise n).xfers = s.xfers := rfl
@[simp] theorem State.raise_colls (s : State) (n : Nat) : (s.raise n).colls = s.colls := rfl
@[simp] theorem State.raise_barFlips (s : State) (n : Nat) : (s.raise n).barFlips = s.barFlips := rfl
@[simp] theorem State.raise_mgmt (s : State) (n : Nat) : (s.raise n).mgmt = s.mgmt := rfl
@[simp] theorem State.raise_tele (s : State) (n : Nat) : (s.raise n).tele = s.tele := rfl
@[simp] theorem State.raise_fw (s : State) (n : Nat) : (s.raise n).fw = s.fw := rfl
@[simp] theorem State.raise_arbs (s : State) (n : Nat) : (s.raise n).arbs = s.arbs := rfl
@[simp] theorem State.raise_span (s : State) (n : Nat) : (s.raise n).span = s.span := rfl
@[simp] theorem State.raise_spanTab (s : State) (n : Nat) : (s.raise n).spanTab = s.spanTab := rfl
@[simp] theorem State.raise_nextTab (s : State) (n : Nat) : (s.raise n).nextTab = s.nextTab := rfl
@[simp] theorem State.raise_now (s : State) (n : Nat) : (s.raise n).now = s.now := rfl
@[simp] theorem State.raise_cur (s : State) (n : Nat) : (s.raise n).cur = s.cur := rfl
@[simp] theorem State.raise_agenda (s : State) (n : Nat) : (s.raise n).agenda = s.agenda := rfl
@[simp] theorem State.raise_fresh (s : State) (n : Nat) : (s.raise n).fresh = s.fresh := rfl
@[simp] theorem State.raise_freeCtr (s : State) (n : Nat) : (s.raise n).freeCtr = s.freeCtr := rfl
@[simp] theorem State.raise_out (s : State) (n : Nat) : (s.raise n).out = s.out := rfl
@[simp] theorem State.raise_flights (s : State) (n : Nat) : (s.raise n).flights = s.flights := rfl

/-! ### State.wS -/

@[simp] theorem State.wS_mem (s : State) (r : SReg) (v : Word) : (s.wS r v).mem = s.mem := rfl
@[simp] theorem State.wS_memKey (s : State) (r : SReg) (v : Word) : (s.wS r v).memKey = s.memKey := rfl
@[simp] theorem State.wS_poison (s : State) (r : SReg) (v : Word) : (s.wS r v).poison = s.poison := rfl
@[simp] theorem State.wS_keys (s : State) (r : SReg) (v : Word) : (s.wS r v).keys = s.keys := rfl
@[simp] theorem State.wS_cores (s : State) (r : SReg) (v : Word) : (s.wS r v).cores = s.cores := rfl
@[simp] theorem State.wS_pcores (s : State) (r : SReg) (v : Word) : (s.wS r v).pcores = s.pcores := rfl
@[simp] theorem State.wS_clusters (s : State) (r : SReg) (v : Word) : (s.wS r v).clusters = s.clusters := rfl
@[simp] theorem State.wS_parts (s : State) (r : SReg) (v : Word) : (s.wS r v).parts = s.parts := rfl
@[simp] theorem State.wS_vfs (s : State) (r : SReg) (v : Word) : (s.wS r v).vfs = s.vfs := rfl
@[simp] theorem State.wS_launches (s : State) (r : SReg) (v : Word) : (s.wS r v).launches = s.launches := rfl
@[simp] theorem State.wS_pricks (s : State) (r : SReg) (v : Word) : (s.wS r v).pricks = s.pricks := rfl
@[simp] theorem State.wS_agents (s : State) (r : SReg) (v : Word) : (s.wS r v).agents = s.agents := rfl
@[simp] theorem State.wS_foot (s : State) (r : SReg) (v : Word) : (s.wS r v).foot = s.foot := rfl
@[simp] theorem State.wS_accSeq (s : State) (r : SReg) (v : Word) : (s.wS r v).accSeq = s.accSeq := rfl
@[simp] theorem State.wS_xfers (s : State) (r : SReg) (v : Word) : (s.wS r v).xfers = s.xfers := rfl
@[simp] theorem State.wS_colls (s : State) (r : SReg) (v : Word) : (s.wS r v).colls = s.colls := rfl
@[simp] theorem State.wS_barFlips (s : State) (r : SReg) (v : Word) : (s.wS r v).barFlips = s.barFlips := rfl
@[simp] theorem State.wS_mgmt (s : State) (r : SReg) (v : Word) : (s.wS r v).mgmt = s.mgmt := rfl
@[simp] theorem State.wS_tele (s : State) (r : SReg) (v : Word) : (s.wS r v).tele = s.tele := rfl
@[simp] theorem State.wS_fw (s : State) (r : SReg) (v : Word) : (s.wS r v).fw = s.fw := rfl
@[simp] theorem State.wS_arbs (s : State) (r : SReg) (v : Word) : (s.wS r v).arbs = s.arbs := rfl
@[simp] theorem State.wS_span (s : State) (r : SReg) (v : Word) : (s.wS r v).span = s.span := rfl
@[simp] theorem State.wS_spanTab (s : State) (r : SReg) (v : Word) : (s.wS r v).spanTab = s.spanTab := rfl
@[simp] theorem State.wS_nextTab (s : State) (r : SReg) (v : Word) : (s.wS r v).nextTab = s.nextTab := rfl
@[simp] theorem State.wS_now (s : State) (r : SReg) (v : Word) : (s.wS r v).now = s.now := rfl
@[simp] theorem State.wS_cur (s : State) (r : SReg) (v : Word) : (s.wS r v).cur = s.cur := rfl
@[simp] theorem State.wS_agenda (s : State) (r : SReg) (v : Word) : (s.wS r v).agenda = s.agenda := rfl
@[simp] theorem State.wS_fresh (s : State) (r : SReg) (v : Word) : (s.wS r v).fresh = s.fresh := rfl
@[simp] theorem State.wS_freeCtr (s : State) (r : SReg) (v : Word) : (s.wS r v).freeCtr = s.freeCtr := rfl
@[simp] theorem State.wS_out (s : State) (r : SReg) (v : Word) : (s.wS r v).out = s.out := rfl
@[simp] theorem State.wS_flights (s : State) (r : SReg) (v : Word) : (s.wS r v).flights = s.flights := rfl

/-! ### Strand.wS -/

@[simp] theorem Strand.wS_m (x : Strand) (r : SReg) (v : Word) : (x.wS r v).m = x.m := by unfold Strand.wS; split <;> rfl
@[simp] theorem Strand.wS_msm (x : Strand) (r : SReg) (v : Word) : (x.wS r v).msm = x.msm := by unfold Strand.wS; split <;> rfl
@[simp] theorem Strand.wS_v (x : Strand) (r : SReg) (v : Word) : (x.wS r v).v = x.v := by unfold Strand.wS; split <;> rfl
@[simp] theorem Strand.wS_streams (x : Strand) (r : SReg) (v : Word) : (x.wS r v).streams = x.streams := by unfold Strand.wS; split <;> rfl
@[simp] theorem Strand.wS_pc (x : Strand) (r : SReg) (v : Word) : (x.wS r v).pc = x.pc := by unfold Strand.wS; split <;> rfl
@[simp] theorem Strand.wS_vsx (x : Strand) (r : SReg) (v : Word) : (x.wS r v).vsx = x.vsx := by unfold Strand.wS; split <;> rfl
@[simp] theorem Strand.wS_vl (x : Strand) (r : SReg) (v : Word) : (x.wS r v).vl = x.vl := by unfold Strand.wS; split <;> rfl
@[simp] theorem Strand.wS_vg (x : Strand) (r : SReg) (v : Word) : (x.wS r v).vg = x.vg := by unfold Strand.wS; split <;> rfl
@[simp] theorem Strand.wS_rmode (x : Strand) (r : SReg) (v : Word) : (x.wS r v).rmode = x.rmode := by unfold Strand.wS; split <;> rfl
@[simp] theorem Strand.wS_fpflags (x : Strand) (r : SReg) (v : Word) : (x.wS r v).fpflags = x.fpflags := by unfold Strand.wS; split <;> rfl
@[simp] theorem Strand.wS_fpctl (x : Strand) (r : SReg) (v : Word) : (x.wS r v).fpctl = x.fpctl := by unfold Strand.wS; split <;> rfl
@[simp] theorem Strand.wS_nbr (x : Strand) (r : SReg) (v : Word) : (x.wS r v).nbr = x.nbr := by unfold Strand.wS; split <;> rfl
@[simp] theorem Strand.wS_seed (x : Strand) (r : SReg) (v : Word) : (x.wS r v).seed = x.seed := by unfold Strand.wS; split <;> rfl
@[simp] theorem Strand.wS_sbase (x : Strand) (r : SReg) (v : Word) : (x.wS r v).sbase = x.sbase := by unfold Strand.wS; split <;> rfl
@[simp] theorem Strand.wS_mcntId (x : Strand) (r : SReg) (v : Word) : (x.wS r v).mcntId = x.mcntId := by unfold Strand.wS; split <;> rfl
@[simp] theorem Strand.wS_mcntOcc (x : Strand) (r : SReg) (v : Word) : (x.wS r v).mcntOcc = x.mcntOcc := by unfold Strand.wS; split <;> rfl
@[simp] theorem Strand.wS_slkt (x : Strand) (r : SReg) (v : Word) : (x.wS r v).slkt = x.slkt := by unfold Strand.wS; split <;> rfl
@[simp] theorem Strand.wS_slkctl (x : Strand) (r : SReg) (v : Word) : (x.wS r v).slkctl = x.slkctl := by unfold Strand.wS; split <;> rfl
@[simp] theorem Strand.wS_exs (x : Strand) (r : SReg) (v : Word) : (x.wS r v).exs = x.exs := by unfold Strand.wS; split <;> rfl
@[simp] theorem Strand.wS_ctb (x : Strand) (r : SReg) (v : Word) : (x.wS r v).ctb = x.ctb := by unfold Strand.wS; split <;> rfl
@[simp] theorem Strand.wS_cts (x : Strand) (r : SReg) (v : Word) : (x.wS r v).cts = x.cts := by unfold Strand.wS; split <;> rfl
@[simp] theorem Strand.wS_pend (x : Strand) (r : SReg) (v : Word) : (x.wS r v).pend = x.pend := by unfold Strand.wS; split <;> rfl
@[simp] theorem Strand.wS_pendStat (x : Strand) (r : SReg) (v : Word) : (x.wS r v).pendStat = x.pendStat := by unfold Strand.wS; split <;> rfl
@[simp] theorem Strand.wS_tshp (x : Strand) (r : SReg) (v : Word) : (x.wS r v).tshp = x.tshp := by unfold Strand.wS; split <;> rfl
@[simp] theorem Strand.wS_mode (x : Strand) (r : SReg) (v : Word) : (x.wS r v).mode = x.mode := by unfold Strand.wS; split <;> rfl
@[simp] theorem Strand.wS_pendSlackex (x : Strand) (r : SReg) (v : Word) : (x.wS r v).pendSlackex = x.pendSlackex := by unfold Strand.wS; split <;> rfl
@[simp] theorem Strand.wS_pendThermal (x : Strand) (r : SReg) (v : Word) : (x.wS r v).pendThermal = x.pendThermal := by unfold Strand.wS; split <;> rfl
@[simp] theorem Strand.wS_bias (x : Strand) (r : SReg) (v : Word) : (x.wS r v).bias = x.bias := by unfold Strand.wS; split <;> rfl
@[simp] theorem Strand.wS_prio (x : Strand) (r : SReg) (v : Word) : (x.wS r v).prio = x.prio := by unfold Strand.wS; split <;> rfl
@[simp] theorem Strand.wS_occ (x : Strand) (r : SReg) (v : Word) : (x.wS r v).occ = x.occ := by unfold Strand.wS; split <;> rfl
@[simp] theorem Strand.wS_digest (x : Strand) (r : SReg) (v : Word) : (x.wS r v).digest = x.digest := by unfold Strand.wS; split <;> rfl
@[simp] theorem Strand.wS_nstores (x : Strand) (r : SReg) (v : Word) : (x.wS r v).nstores = x.nstores := by unfold Strand.wS; split <;> rfl
@[simp] theorem Strand.wS_barCore (x : Strand) (r : SReg) (v : Word) : (x.wS r v).barCore = x.barCore := by unfold Strand.wS; split <;> rfl
@[simp] theorem Strand.wS_barCluster (x : Strand) (r : SReg) (v : Word) : (x.wS r v).barCluster = x.barCluster := by unfold Strand.wS; split <;> rfl
@[simp] theorem Strand.wS_collSlots (x : Strand) (r : SReg) (v : Word) : (x.wS r v).collSlots = x.collSlots := by unfold Strand.wS; split <;> rfl
@[simp] theorem Strand.wS_binds (x : Strand) (r : SReg) (v : Word) : (x.wS r v).binds = x.binds := by unfold Strand.wS; split <;> rfl
@[simp] theorem Strand.wS_inbox (x : Strand) (r : SReg) (v : Word) : (x.wS r v).inbox = x.inbox := by unfold Strand.wS; split <;> rfl
@[simp] theorem Strand.wS_stores (x : Strand) (r : SReg) (v : Word) : (x.wS r v).stores = x.stores := by unfold Strand.wS; split <;> rfl
@[simp] theorem Strand.wS_run (x : Strand) (r : SReg) (v : Word) : (x.wS r v).run = x.run := by unfold Strand.wS; split <;> rfl
@[simp] theorem Strand.wS_task (x : Strand) (r : SReg) (v : Word) : (x.wS r v).task = x.task := by unfold Strand.wS; split <;> rfl
@[simp] theorem Strand.wS_marks (x : Strand) (r : SReg) (v : Word) : (x.wS r v).marks = x.marks := by unfold Strand.wS; split <;> rfl
@[simp] theorem Strand.wS_uid (x : Strand) (r : SReg) (v : Word) : (x.wS r v).uid = x.uid := by unfold Strand.wS; split <;> rfl
@[simp] theorem Strand.wS_regErr (x : Strand) (r : SReg) (v : Word) : (x.wS r v).regErr = x.regErr := by unfold Strand.wS; split <;> rfl
@[simp] theorem Strand.wS_barIn (x : Strand) (r : SReg) (v : Word) : (x.wS r v).barIn = x.barIn := by unfold Strand.wS; split <;> rfl
@[simp] theorem Strand.wS_readyAt (x : Strand) (r : SReg) (v : Word) : (x.wS r v).readyAt = x.readyAt := by unfold Strand.wS; split <;> rfl
@[simp] theorem Strand.wS_short (x : Strand) (r : SReg) (v : Word) : (x.wS r v).short = x.short := by unfold Strand.wS; split <;> rfl
@[simp] theorem Strand.wS_unsent (x : Strand) (r : SReg) (v : Word) : (x.wS r v).unsent = x.unsent := by unfold Strand.wS; split <;> rfl

/-! ### The acting strand -/

@[simp] theorem State.strand_setStrand (s : State) (c k : Nat) (x : Strand) : (s.setStrand c k x).strand c k = x := by
  simp [State.strand, State.setStrand]

theorem State.strand_setStrand_ne (s : State) {c k c2 k2 : Nat} (x : Strand) (h : skey c2 k2 ≠ skey c k) :
    (s.setStrand c k x).strand c2 k2 = s.strand c2 k2 := by
  simp [State.strand, State.setStrand, Map.getD_set_ne _ _ _ h]

@[simp] theorem State.me_setMe (s : State) (x : Strand) : (s.setMe x).me = x := by simp [State.me, State.setMe]

@[simp] theorem State.setMe_setMe (s : State) (x y : Strand) : (s.setMe x).setMe y = s.setMe y := by
  simp [State.setMe, State.setStrand]

@[simp] theorem State.me_wS (s : State) (r : SReg) (v : Word) : (s.wS r v).me = s.me.wS r v := by simp [State.wS]
@[simp] theorem State.me_advance (s : State) (n : Nat) :
    (s.advance n).me = { s.me with pc := s.me.pc + BitVec.ofNat 64 n, vsx := 0 } := by simp [State.advance]
@[simp] theorem State.me_jump (s : State) (t : Word) : (s.jump t).me = { s.me with pc := t, vsx := 0 } := by simp [State.jump]
@[simp] theorem State.me_raise (s : State) (fl : Nat) : (s.raise fl).me = { s.me with fpflags := s.me.fpflags ||| fl } := by
  simp [State.raise]

@[simp] theorem State.myPart_setMe (s : State) (x : Strand) : (s.setMe x).myPart = s.myPart := rfl

/-! ### Scalar registers (R43) -/

theorem vec_get_set_self {α : Type} {n : Nat} (v : Vector α n) (i : Fin n) (x : α) : (v.set i.val x i.isLt).get i = x := by
  show (v.set i.val x i.isLt)[i.val] = x
  simp

theorem vec_get_set_ne {α : Type} {n : Nat} (v : Vector α n) {i j : Fin n} (x : α) (h : j ≠ i) :
    (v.set i.val x i.isLt).get j = v.get j := by
  show (v.set i.val x i.isLt)[j.val] = v[j.val]
  rw [Vector.getElem_set_ne]
  exact fun e => h (Fin.ext e.symm)

/-- A register reads what was written, s0 reads 0. -/
theorem Strand.rS_wS (x : Strand) (d r : SReg) (v : Word) :
    (x.wS d v).rS r = if r = d then (if d.val = 0 then 0 else v) else x.rS r := by
  unfold Strand.wS Strand.rS
  by_cases hrd : r = d
  · subst hrd
    by_cases h0 : r.val = 0
    · simp [h0]
    · simp [h0, vec_get_set_self]
  · by_cases h0 : d.val = 0
    · simp [h0, hrd]
    · simp [h0, hrd, vec_get_set_ne _ _ hrd]

@[simp] theorem Strand.rS_wS_self (x : Strand) (d : SReg) (v : Word) : (x.wS d v).rS d = if d.val = 0 then 0 else v := by
  simp [Strand.rS_wS]

theorem Strand.rS_wS_ne (x : Strand) {d r : SReg} (v : Word) (h : r ≠ d) : (x.wS d v).rS r = x.rS r := by
  simp [Strand.rS_wS, h]

/-- What a write of a scalar register leaves of a strand. -/
theorem Strand.wS_eq (x : Strand) (d : SReg) (v : Word) : x.wS d v = { x with s := (x.wS d v).s } := by
  unfold Strand.wS; split <;> rfl

end Sys2Proof.Machine
end

