-- ==== Sys2Proof/Laws/Access.lean ====
section
/-!
SUPPORT. What the operations of one access can do: translation, permission, reads, packets, loads and plain stores.
-/
namespace Sys2Proof.Machine

theorem AccessFrame.refl (s : State) : AccessFrame s s := ⟨⟨_, _, _, _, _, _, _, _, rfl⟩, fun _ => rfl, fun _ => rfl, fun _ => rfl⟩

theorem AccessFrame.trans {s t u : State} (h : AccessFrame s t) (k : AccessFrame t u) : AccessFrame s u := by
  refine ⟨?_, fun c => ?_, fun c => ?_, fun p => ?_⟩
  · obtain ⟨_, _, _, _, _, _, _, _, rfl⟩ := h.rest
    obtain ⟨_, _, _, _, _, _, _, _, rfl⟩ := k.rest
    exact ⟨_, _, _, _, _, _, _, _, rfl⟩
  · rw [k.cores c, h.cores c]
  · rw [k.clusters c, h.clusters c]
  · rw [k.parts p, h.parts p]

theorem AccessFrame.strands {s t : State} (h : AccessFrame s t) : t.strands = s.strands := by
  obtain ⟨_, _, _, _, _, _, _, _, rfl⟩ := h.rest; rfl
theorem AccessFrame.cur {s t : State} (h : AccessFrame s t) : t.cur = s.cur := by
  obtain ⟨_, _, _, _, _, _, _, _, rfl⟩ := h.rest; rfl
theorem AccessFrame.me {s t : State} (h : AccessFrame s t) : t.me = s.me := by
  obtain ⟨_, _, _, _, _, _, _, _, rfl⟩ := h.rest; rfl
theorem AccessFrame.mem {s t : State} (h : AccessFrame s t) : t.mem = s.mem := by
  obtain ⟨_, _, _, _, _, _, _, _, rfl⟩ := h.rest; rfl
theorem AccessFrame.sameBytes {s t : State} (h : AccessFrame s t) : SameBytes s t := fun _ => by rw [h.mem]

/-! ### Frames of single updates -/

theorem AccessFrame.free (s : State) (n : Nat) : AccessFrame s { s with freeCtr := n } :=
  ⟨⟨_, _, _, _, _, _, _, _, rfl⟩, fun _ => rfl, fun _ => rfl, fun _ => rfl⟩

theorem AccessFrame.foot (s : State) (ft : List Foot) (n : Nat) : AccessFrame s { s with foot := ft, accSeq := n } :=
  ⟨⟨_, _, _, _, _, _, _, _, rfl⟩, fun _ => rfl, fun _ => rfl, fun _ => rfl⟩

theorem AccessFrame.agents (s : State) (ag : Map Agent) : AccessFrame s { s with agents := ag } :=
  ⟨⟨_, _, _, _, _, _, _, _, rfl⟩, fun _ => rfl, fun _ => rfl, fun _ => rfl⟩

theorem AccessFrame.arbs (s : State) (m : Map Arb) : AccessFrame s { s with arbs := m } :=
  ⟨⟨_, _, _, _, _, _, _, _, rfl⟩, fun _ => rfl, fun _ => rfl, fun _ => rfl⟩

theorem AccessFrame.coreTlb (s : State) (n : Nat) (l : List TlbEntry) :
    AccessFrame s (s.setCore n { s.coreOf n with tlb := l }) := by
  refine ⟨⟨_, _, _, _, _, _, _, _, rfl⟩, fun c => ?_, fun _ => rfl, fun _ => rfl⟩
  by_cases h : c = n
  · subst h; simp [State.coreOf, State.setCore]
  · simp [State.coreOf, State.setCore, Map.getD_set_ne _ _ _ h]

theorem AccessFrame.cluster (s : State) (n : Nat) (l : List TlbEntry) (m : Map Line) :
    AccessFrame s (s.setCluster n { s.cluster n with tlb := l, lines := m }) := by
  refine ⟨⟨_, _, _, _, _, _, _, _, rfl⟩, fun _ => rfl, fun c => ?_, fun _ => rfl⟩
  by_cases h : c = n
  · subst h; simp [State.cluster, State.setCluster]
  · simp [State.cluster, State.setCluster, Map.getD_set_ne _ _ _ h]

theorem AccessFrame.clusterTlb (s : State) (n : Nat) (l : List TlbEntry) :
    AccessFrame s (s.setCluster n { s.cluster n with tlb := l }) := .cluster s n l (s.cluster n).lines

/-- Lines of clusters alone change. -/
theorem AccessFrame.lines (s : State) (f : Nat → Map Line → Map Line) :
    AccessFrame s { s with clusters := s.clusters.map (fun c => (c.1, { c.2 with lines := f c.1 c.2.lines })) } := by
  refine ⟨⟨_, _, _, _, _, _, _, _, rfl⟩, fun _ => rfl, fun c => ?_, fun _ => rfl⟩
  simp only [State.cluster]
  generalize s.clusters = m
  induction m with
  | nil => simp [Map.getD, Map.get?, Cluster.reset]
  | cons p m ih =>
    simp only [Map.getD, Map.get?, List.map_cons] at ih ⊢
    split
    · simp
    · split
      · simp [Cluster.reset]
      · exact ih

theorem overLines_frame (s : State) (n : Nat) (qs : List LinePart) : AccessFrame s (s.overLines n qs) := by
  unfold State.overLines
  split
  · exact .refl s
  · have h := AccessFrame.lines s (fun k m => if k = n then m else
      m.map (fun l => (l.1, l.2.overBy ((qs.filter (fun q => q.line == l.1)).flatMap (·.offs)))))
    have e : ∀ c : Nat × Cluster, (if c.1 = n then c.2 else { c.2 with lines := c.2.lines.map (fun l =>
        (l.1, l.2.overBy ((qs.filter (fun q => q.line == l.1)).flatMap (·.offs)))) })
        = { c.2 with lines := if c.1 = n then c.2.lines else c.2.lines.map (fun l =>
          (l.1, l.2.overBy ((qs.filter (fun q => q.line == l.1)).flatMap (·.offs)))) } := by
      intro c; split <;> rfl
    simpa only [e] using h

theorem touchLines_frame (s : State) (core : Nat) (ps : List Piece) (write : Bool) : AccessFrame s (s.touchLines core ps write) := by
  unfold State.touchLines
  simp only
  split
  · exact .refl s
  · split
    · exact (overLines_frame s _ _).trans (.cluster _ _ ((s.overLines _ _).cluster _).tlb _)
    · exact .cluster s _ (s.cluster _).tlb _

theorem AccessFrame.split (s : State) (n k : Nat) : AccessFrame s (s.setPart n { s.part n with splits := k }) := by
  refine ⟨⟨_, _, _, _, _, _, _, _, rfl⟩, fun _ => rfl, fun _ => rfl, fun c => ?_⟩
  by_cases h : c = n
  · subst h; simp [State.part, State.setPart]
  · simp [State.part, State.setPart, Map.getD_set_ne _ _ _ h]

/-! ### Reads (R109) -/

/-- A read changes nothing. -/
@[simp] theorem readByte_state (s : State) (da : Nat) (mat : Option Nat) : (s.readByte da mat).2 = s := by
  unfold State.readByte
  repeat' split
  all_goals rfl

@[simp] theorem readBytes_state (s : State) (da : Nat) (mat : Option Nat) (n : Nat) : (s.readBytes da mat n).2 = s := by
  induction n generalizing da with
  | zero => rfl
  | succ n ih => simp [State.readBytes, ih]

@[simp] theorem readPieces_state (s : State) (ps : List Piece) : (readPieces s ps).2 = s := by
  induction ps with
  | nil => rfl
  | cons p ps ih => simp [readPieces, ih]

@[simp] theorem loadByte_state (s : State) (da : Nat) (mat : Option Nat) : (s.loadByte da mat).2 = s := by
  unfold State.loadByte
  repeat' split
  all_goals simp

@[simp] theorem loadBytes_state (s : State) (da : Nat) (mat : Option Nat) (n : Nat) : (s.loadBytes da mat n).2 = s := by
  induction n generalizing da with
  | zero => rfl
  | succ n ih => simp [State.loadBytes, ih]

@[simp] theorem loadPieces_state (s : State) (ps : List Piece) : (loadPieces s ps).2 = s := by
  induction ps with
  | nil => rfl
  | cons p ps ih => simp [loadPieces, ih]

theorem readBytes_frame (s : State) (da : Nat) (mat : Option Nat) (n : Nat) : AccessFrame s (s.readBytes da mat n).2 := by
  rw [readBytes_state]; exact .refl s

/-- Bytes that are plaintext, or written under the material they are read with, read as memory holds them. -/
theorem readBytes_plain (s : State) (da : Nat) (mat : Option Nat) (n : Nat)
    (h : ∀ i < n, s.keyAt (da + i) = none ∨ s.keyAt (da + i) = mat) :
    s.readBytes da mat n = (Memory.readN s.mem da n, s) := by
  induction n generalizing da with
  | zero => rfl
  | succ n ih =>
    have h0 : s.readByte da mat = (Memory.read s.mem da, s) := by
      have := h 0 (by omega)
      simp only [Nat.add_zero] at this
      unfold State.readByte
      split
      · rfl
      · rename_i w hw
        rw [hw] at this
        simp at this
        simp [this]
    have h1 := ih (da + 1) (fun i hi => by have := h (i + 1) (by omega); rwa [Nat.add_assoc, Nat.add_comm 1 i])
    simp [State.readBytes, h0, h1, Memory.readN]

theorem readPieces_plain (s : State) (ps : List Piece)
    (h : ∀ p ∈ ps, ∀ i < p.n, s.keyAt (p.loc.da + i) = none ∨ s.keyAt (p.loc.da + i) = p.loc.mat) :
    readPieces s ps = (ps.flatMap (fun p => Memory.readN s.mem p.loc.da p.n), s) := by
  induction ps with
  | nil => rfl
  | cons p ps ih =>
    simp [readPieces, readBytes_plain s p.loc.da p.loc.mat p.n (h p (by simp)), ih (fun q hq => h q (by simp [hq]))]

theorem loadPieces_frame (s : State) (ps : List Piece) : AccessFrame s (loadPieces s ps).2 := by
  rw [loadPieces_state]; exact .refl s

theorem readPieces_frame (s : State) (ps : List Piece) : AccessFrame s (readPieces s ps).2 := by
  rw [readPieces_state]; exact .refl s

theorem leNat_lt (bs : List Byte) : leNat bs < 2 ^ (8 * bs.length) := by
  induction bs with
  | nil => simp [leNat]
  | cons b bs ih =>
    have := b.isLt
    simp only [leNat, List.length_cons, Nat.mul_add, Nat.pow_add]
    omega

/-! ### Translation (R421–R429) -/

theorem entry2_frame {s : State} {v : VF} {ipa fk level table : Nat} {r : Nat × State}
    (h : entry2 s v ipa fk level table = .ok r) : AccessFrame s r.2 := by
  unfold entry2 at h
  split at h
  · cases h
  · simp only at h
    split at h
    · cases h
    · split at h
      · cases h
      · rw [← Except.ok.inj h]; exact readBytes_frame _ _ _ _

theorem walk2_frame {s : State} {v : VF} {ipa fk level table : Nat} {r : Nat × Nat × Perm × State}
    (h : walk2 s v ipa fk level table = .ok r) : AccessFrame s r.2.2.2 := by
  induction level generalizing s table with
  | zero =>
    unfold walk2 at h
    split at h
    · cases h
    · rename_i he
      split at h
      · rw [← Except.ok.inj h]; exact entry2_frame he
      · cases h
  | succ l ih =>
    unfold walk2 at h
    split at h
    · cases h
    · rename_i he
      split at h
      · rw [← Except.ok.inj h]; exact entry2_frame he
      · exact (entry2_frame he).trans (ih h)

theorem stage2_frame {s : State} {v : VF} {ipa fk : Nat} {k : Kind} {r : Nat × Nat × Perm × State}
    (h : stage2 s v ipa k fk = .ok r) : AccessFrame s r.2.2.2 := by
  unfold stage2 at h
  split at h
  · cases h
  · split at h
    · cases h
    · rename_i hw
      split at h
      · rw [← Except.ok.inj h]; exact walk2_frame hw
      · cases h

theorem entry1_frame {s : State} {p : Part} {v : VF} {c : Ctx} {va level table : Nat} {r : Nat × State}
    (h : entry1 s p v c va level table = .ok r) : AccessFrame s r.2 := by
  unfold entry1 at h
  simp only at h
  split at h
  · cases h
  · rename_i hs
    have hf := stage2_frame hs
    split at h
    · cases h
    · split at h
      · cases h
      · rename_i a _ _ s1 _ _ _ mat _
        have hg := readBytes_frame s1 a (some mat) 8
        generalize s1.readBytes a (some mat) 8 = q at h hg
        split at h
        · cases h
        · split at h
          · cases h
          · rw [← Except.ok.inj h]; exact hf.trans hg

theorem walk1_frame {s : State} {p : Part} {v : VF} {c : Ctx} {va level table : Nat} {r : Leaf1 × State}
    (h : walk1 s p v c va level table = .ok r) : AccessFrame s r.2 := by
  induction level generalizing s table with
  | zero =>
    unfold walk1 at h
    split at h
    · cases h
    · rename_i he
      split at h
      · rw [← Except.ok.inj h]; exact entry1_frame he
      · cases h
  | succ l ih =>
    unfold walk1 at h
    split at h
    · cases h
    · rename_i he
      split at h
      · rw [← Except.ok.inj h]; exact entry1_frame he
      · exact (entry1_frame he).trans (ih h)

theorem translateAt_frame {s : State} {pid slot core : Nat} {ea va : Word} {k : Kind} {r : Loc × Bool × State}
    (h : translateAt s pid slot core ea va k = .ok r) : AccessFrame s r.2.2 := by
  unfold translateAt at h
  simp only at h
  split at h
  · cases h
  · split at h
    · split at h
      · cases h
      · rw [← Except.ok.inj h]; exact .refl s
    · split at h
      · cases h
      · cases h
      · cases h
      · rename_i hw
        split at h
        · cases h
        · split at h
          · cases h
          · cases h
          · cases h
          · rename_i hs
            split at h
            · cases h
            · split at h
              · rw [← Except.ok.inj h]; exact (walk1_frame hw).trans (stage2_frame hs)
              · rw [← Except.ok.inj h]
                exact (((walk1_frame hw).trans (stage2_frame hs)).trans (.coreTlb _ _ _)).trans (.clusterTlb _ _ _)

theorem translate_frame {s : State} {pid slot core : Nat} {va : Word} {k : Kind} {r : Loc × State}
    (h : translate s pid slot core va k = .ok r) : AccessFrame s r.2 := by
  unfold translate at h
  split at h
  · cases h
  · rename_i ht
    split at h
    · rw [← Except.ok.inj h]; exact translateAt_frame ht
    · cases h

theorem resolve_frame {s : State} {w : Who} {sp : Nat} {loc : Bool} {ea : Word} {n : Nat} {k : Kind} {r : List Piece × State}
    (h : resolve s w sp loc ea n k = .ok r) : AccessFrame s r.2 := by
  unfold resolve at h
  simp only at h
  split at h
  · split at h
    · split at h
      · cases h
      · rename_i ht
        rw [← Except.ok.inj h]; exact translate_frame ht
    · split at h
      · cases h
      · split at h
        · cases h
        · rename_i ht
          split at h
          · cases h
          · rename_i hu
            split at h
            · rw [← Except.ok.inj h]; exact (translateAt_frame ht).trans (translateAt_frame hu)
            · cases h
  · split at h
    · split at h
      · rw [← Except.ok.inj h]; exact .refl s
      · cases h
    · split at h
      · rw [← Except.ok.inj h]; exact .refl s
      · cases h

/-! ### Footprints, permission, packets -/

theorem endRegion_frame (s : State) (id : Nat) : AccessFrame s (s.endRegion id) := by
  unfold State.endRegion
  split
  · exact .agents s _
  · exact .refl s

theorem endRegion_part (s : State) (id n : Nat) : (s.endRegion id).part n = s.part n := by
  unfold State.endRegion; split <;> rfl

theorem addFoot_frame (s : State) (id : Nat) (rd wr : List Nat) (chunk : Nat) : AccessFrame s (s.addFoot id rd wr chunk) := by
  unfold State.addFoot
  split
  · exact .refl s
  · refine AccessFrame.trans (t := if _ then _ else _) ?_ (.foot _ _ _)
    split
    · exact (endRegion_frame s id).trans (endRegion_part s id _ ▸ AccessFrame.split (s.endRegion id) _ _)
    · exact .refl s

theorem admit_frame {s : State} {w : Who} {id : Nat} {plain : Bool} {sp : Nat} {loc : Bool} {ea : Word} {n : Nat} {k : Kind}
    {full : List Nat} {r : List Piece × State} (h : checkAccess s w id plain sp loc ea n k full = .ok r) : AccessFrame s r.2 := by
  unfold checkAccess at h
  split at h
  · cases h
  · rename_i hr
    split at h
    · cases h
    · split at h
      · cases h
      · rw [← Except.ok.inj h]; exact resolve_frame hr

theorem permit_frame {s : State} {w : Who} {id : Nat} {plain : Bool} {sp : Nat} {loc : Bool} {ea : Word} {n : Nat} {k : Kind}
    {r : List Piece × State} (h : permit s w id plain sp loc ea n k = .ok r) : AccessFrame s r.2 := by
  unfold permit at h
  split at h
  · cases h
  · rename_i ha
    rw [← Except.ok.inj h]
    cases plain
    · exact admit_frame ha
    · exact (admit_frame ha).trans (addFoot_frame _ _ _ _ _)

theorem pushPacket_frame (s : State) (p : Packet) : AccessFrame s (s.pushPacket p) := .arbs s _

theorem request_frame (s : State) (slk : Slack) (ps : List Piece) (ack : Bool) : AccessFrame s (s.request slk ps ack) := by
  unfold State.request
  refine AccessFrame.trans ?_ (touchLines_frame _ _ _ _)
  generalize s.shares s.cur.core ps = l
  induction l generalizing s with
  | nil => exact .refl s
  | cons a l ih => exact (pushPacket_frame _ _).trans (ih _)

theorem load_frame {s : State} {plain : Bool} {slk : Slack} {sp : Nat} {loc : Bool} {ea : Word} {n : Nat} {r : List Byte × State}
    (h : s.load plain slk sp loc ea n = .ok r) : AccessFrame s r.2 := by
  unfold State.load at h
  split at h
  · cases h
  · rename_i hp
    rw [← Except.ok.inj h]
    exact ((permit_frame hp).trans (loadPieces_frame _ _)).trans (request_frame _ _ _ _)

end Sys2Proof.Machine
end

