-- ==== Sys2Proof/Laws/Commit.lean ====
section
/-!
SUPPORT. How instructions end: committing a scalar result, committing flags, going to a target, stopping, waiting.
-/
namespace Sys2Proof.Machine

theorem sameBytes_of_mem {s t : State} (h : t.mem = s.mem) : SameBytes s t := fun _ => by rw [h]

/-- A state that differs from s in the acting strand alone. -/
theorem onlyMe_setMe (s : State) (x : Strand) : OnlyMe s (s.setMe x) := ⟨by simp, fun _ => rfl⟩

/-- s_d takes v, pc moves on by n: this is all that writeNext does. -/
theorem setsS_writeNext (d : SReg) (v : Word) (n : Nat) (s : State) : SetsS d v n s ((s.wS d v).advance n) := by
  refine ⟨by simp [Commits], ?_, ⟨?_, fun r h => ?_⟩, ?_⟩
  · have := Strand.rS_wS_self s.me d v
    simpa [State.rS, Strand.rS] using this
  · simp only [State.me_advance, State.me_wS]
    rw [Strand.wS_eq]
  · have := Strand.rS_wS_ne s.me v h
    simpa [Strand.rS] using this
  · have h : (s.wS d v).advance n = s.setMe ((s.wS d v).advance n).me := by simp [State.advance, State.wS]
    exact ⟨h, fun _ => rfl⟩

theorem gives_writeNext {i : Instr} {s : State} {d : SReg} {v : Word} {n : Nat} (h : exec i s = writeNext d v n s) :
    Gives i s (SetsS d v n s) := ⟨_, h, setsS_writeNext d v n s⟩

/-- s_d takes v, flags are merged, pc moves on. -/
theorem setsFp_write (d : SReg) (v : Word) (fl n : Nat) (s : State) : SetsFp d v fl n s (((s.wS d v).raise fl).advance n) := by
  refine ⟨by simp [Commits], ?_, by simp, ⟨?_, fun r h => ?_⟩, ?_⟩
  · have := Strand.rS_wS_self s.me d v
    simpa [State.rS, Strand.rS] using this
  · simp only [State.me_advance, State.me_raise, State.me_wS]
    rw [Strand.wS_eq]
  · have := Strand.rS_wS_ne s.me v h
    simpa [Strand.rS] using this
  · have h : ((s.wS d v).raise fl).advance n = s.setMe (((s.wS d v).raise fl).advance n).me := by
      simp [State.advance, State.wS, State.raise]
    exact ⟨h, fun _ => rfl⟩

theorem goesTo_jump (w : Word) (s : State) : GoesTo w s (s.jump w) := ⟨rfl, fun _ => rfl⟩

/-- finish never stops the machine. -/
theorem finish_next (r : Res) : ∃ t, finish r = .next t := by cases r <;> exact ⟨_, rfl⟩

end Sys2Proof.Machine
end

