-- ==== Sys2Proof/Laws/Flights.lean ====
section
/-!
SUPPORT. Loads whose replies are under way (R139, R412): what a squash gives back, and that it gives nothing else.
-/
namespace Sys2Proof.Machine

@[simp] theorem Flight.back_pc (f : Flight) (x : Strand) : (f.back x).pc = f.x.pc := rfl
@[simp] theorem Flight.back_v (f : Flight) (x : Strand) : (f.back x).v = f.x.v := rfl
@[simp] theorem Flight.back_run (f : Flight) (x : Strand) : (f.back x).run = .ready := rfl
@[simp] theorem Flight.back_uid (f : Flight) (x : Strand) : (f.back x).uid = x.uid := rfl
@[simp] theorem Flight.back_task (f : Flight) (x : Strand) : (f.back x).task = x.task := rfl
@[simp] theorem Flight.back_stores (f : Flight) (x : Strand) : (f.back x).stores = x.stores := rfl

@[simp] theorem State.abandon_mem (s : State) (uid : Nat) : (s.abandon uid).mem = s.mem := rfl
@[simp] theorem State.abandon_strands (s : State) (uid : Nat) : (s.abandon uid).strands = s.strands := rfl
@[simp] theorem State.abandon_parts (s : State) (uid : Nat) : (s.abandon uid).parts = s.parts := rfl

/-- No reply of data that is awaited is left once they are abandoned. -/
theorem State.abandon_awaits (s : State) (x : Strand) : (s.abandon x.uid).awaitsData x = false := by
  rw [State.awaitsData, List.any_eq_false]
  intro c hc
  simp only [State.abandon, List.mem_map] at hc
  obtain ⟨c, -, rfl⟩ := hc
  simp only [Bool.not_eq_true, List.any_eq_false, Arb.packets, Arb.mapQueues, List.mem_flatMap, List.mem_map, List.mem_flatten]
  intro p hp
  obtain ⟨n, ⟨m, -, hm⟩, q, hq, hpq⟩ := hp
  subst hm
  obtain ⟨r, -, hr⟩ := List.mem_map.1 hq
  subst hr
  simpa using (List.mem_filter.1 hpq).2

/-- A strand with no load under way is not squashed. -/
theorem State.squash_none {s : State} {core k : Nat} (h : Map.get? s.flights (skey core k) = none) : s.squash core k = s := by
  simp [State.squash, h]

/-- A strand whose replies have all come is not squashed. -/
theorem State.squash_arrived {s : State} {core k : Nat} (h : s.awaitsData (s.strand core k) = false) : s.squash core k = s := by
  unfold State.squash
  split
  · rfl
  · simp [h]

/-- A squash moves no byte of memory. -/
@[simp] theorem State.squash_mem (s : State) (core k : Nat) : (s.squash core k).mem = s.mem := by
  unfold State.squash
  split
  · rfl
  · dsimp only
    split
    · split <;> rfl
    · rfl

/-- It touches no other strand. -/
theorem State.squash_strand_ne (s : State) {core k key : Nat} (h : key ≠ skey core k) :
    Map.get? (s.squash core k).strands key = Map.get? s.strands key := by
  unfold State.squash
  split
  · rfl
  · dsimp only
    split
    · split <;> simp [State.setPart, State.setStrand, Map.get?_set_ne _ _ h]
    · rfl

end Sys2Proof.Machine
end

