-- ==== Sys2Proof/Machine/Loader.lean ====
section
/-!
DEFINITION. What the driver-side loader computes from the files it is given, and the one change it makes to the device: a
bound pricking is placed where the advice sequencer reads it (R329–R331, R333, R335, R339, R364, R365). No step of the device
calls these; they say which image, sizes and prickings a launch descriptor can carry (log 70).
-/
namespace Sys2Proof.Machine

/-! ## The container (R329) -/

/-- n entries of w bytes at off lie within the file. -/
def tableIn (f : List Byte) (off n w : Nat) : Bool := decide (off + n * w ≤ f.length)

/-- Every one of n entries of w bytes at off passes p, which gets the entry's offset. -/
def eachEntry (off n w : Nat) (p : Nat → Bool) : Bool := (List.range n).all (fun i => p (off + w * i))

/-- The header of Table 14.1: magic, version, kind, and the fields marked 0. -/
def hgiHeadOk (f : List Byte) : Bool :=
  decide (176 ≤ f.length ∧ f.take 4 = [0x48, 0x47, 0x49, 0x00] ∧ numAt f 4 2 = 1 ∧ numAt f 6 2 ≤ 1)
    && zeroAt f 0x0E 2 && zeroAt f 0x6C 4

def hgiNsec (f : List Byte) : Nat := numAt f 0x30 4
def hgiSecoff (f : List Byte) : Nat := numAt f 0x40 8

/-- The loader accepts the container (R329), whose HASH is that of its semantic image (R330); otherwise it refuses the whole file. -/
def hgiOk (f : List Byte) : Bool :=
  let secs := (List.range (hgiNsec f)).map (fun i => numAt f (hgiSecoff f + 32 * i) 4)
  hgiHeadOk f
    && tableIn f (hgiSecoff f) (hgiNsec f) 32 && tableIn f (numAt f 0x48 8) (numAt f 0x34 4) 16
    && tableIn f (numAt f 0x50 8) (numAt f 0x38 4) 64 && tableIn f (numAt f 0x58 8) (numAt f 0x3C 4) Config.relocBytes
    && tableIn f (numAt f 0x60 8) (numAt f 0x68 4) Config.symBytes
    && eachEntry (hgiSecoff f) (hgiNsec f) 32 (fun o =>
        zeroAt f (o + 4) 4 && zeroAt f (o + 24) 8 && tableIn f (numAt f (o + 8) 8) (numAt f (o + 16) 8) 1)
    && eachEntry (numAt f 0x48 8) (numAt f 0x34 4) 16 (fun o => zeroAt f (o + 4) 4)
    && eachEntry (numAt f 0x50 8) (numAt f 0x38 4) 64 (fun o => zeroAt f (o + 0x3B) 5)
    && decide secs.Nodup && secs.all (fun c => decide (c ≤ 6)) && decide (hgiHash f = (f.drop 0x70).take 64)

/-! ## Sizes (R24, R333) -/

/-- VLB: bytes of one register of a partition of g lane groups. -/
def registerBytes (g : Nat) : Nat := 256 * g

def roundUpTo (n a : Nat) : Nat := (n + a - 1) / a * a

/-- Fr: the frame of a strand. -/
def hgiFrame (f : List Byte) (g : Nat) : Nat := roundUpTo (numAt f 0x10 8 + numAt f 0x18 8 * registerBytes g) 4096

/-- Sr: the spill area of a strand. -/
def hgiSpill (f : List Byte) (g : Nat) : Nat := roundUpTo (numAt f 0x20 8 + numAt f 0x28 8 * registerBytes g) 64

/-- The top of the stack of the strand of lane group k. -/
def stackTop (stop fr g k : Nat) : Nat := stop - k % g * fr

/-! ## Relocations (R314, Table 11.3) -/

/-- A relocation as resolved: kind, place of the field, and target. -/
structure Reloc where
  kind : Nat
  sect : Nat
  off : Nat
  tsect : Nat
  toff : Nat

/-- The relocations of an image. -/
def hgiRelocs (f : List Byte) : List Reloc :=
  (List.range (numAt f 0x3C 4)).map (fun i =>
    let r := Config.relocEntry f ((f.drop (numAt f 0x58 8 + Config.relocBytes * i)).take Config.relocBytes)
    ⟨r.1, r.2.1, r.2.2.1, r.2.2.2.1, r.2.2.2.2⟩)

/-- The absolute address of a target, with the sections placed at base. -/
def Reloc.target (r : Reloc) (base : Nat → Nat) : Nat := if r.tsect ≤ 6 then base r.tsect + r.toff else r.toff
/-- The value stored (Table 11.3); the pc is that of the field's word. -/
def Reloc.value (r : Reloc) (base : Nat → Nat) : Int :=
  match r.kind with
  | 0 => ((r.toff : Int) - r.off) / 8
  | 1 => (r.target base : Int) - (base r.sect + r.off : Nat)
  | _ => r.target base

/-- OPs of the words whose imm29 a WORD29 fills: J, CALL and the branches; a BYTE29 fills that of ADDPC. -/
def word29Ops : List Nat := [0x0C0, 0x0C1, 0x0C8, 0x0C9, 0x0CA, 0x0CB, 0x0CC, 0x0CD]

/-- The word at off of a section. -/
def wordIn (sect : List Byte) (off : Nat) : Nat := numAt sect off 8

/-- An ABS64 in this section fills a LIX: its head and its continuation stand there. DEDUCED (log 70): any other place in .text holds the 8
bytes of a .addr, as data sections do. -/
def Reloc.isLix (r : Reloc) (sect : List Byte) : Bool :=
  decide (r.sect = 0 ∧ r.off % 8 = 0 ∧ r.off + 16 ≤ sect.length ∧ bits (wordIn sect r.off) 63 62 = 2 ∧ bits (wordIn sect r.off) 61 52 = 0x047
    ∧ bits (wordIn sect (r.off + 8)) 63 62 = 3)

/-- The section holds the field of the relocation (Table 11.3): imm29 of such a word; {FN[1:0], LIT} of a LIX, or the 8 bytes of a .addr;
an entry of .link. -/
def Reloc.hasField (r : Reloc) (sect : List Byte) : Bool :=
  let w := wordIn sect r.off
  let inText (n : Nat) : Bool := decide (r.sect = 0 ∧ r.off % 8 = 0 ∧ r.off + n ≤ sect.length)
  match r.kind with
  | 0 => inText 8 && decide (bits w 63 62 = 0) && word29Ops.contains (bits w 61 52)
  | 1 => inText 8 && decide (bits w 63 62 = 0 ∧ bits w 61 52 = 0x046)
  | 2 => r.isLix sect || decide (r.sect ≤ 5 ∧ r.off + 8 ≤ sect.length)
  | 3 => decide (r.sect = 6 ∧ r.off % 8 = 0 ∧ r.off + 8 ≤ sect.length)
  | _ => false

/-- The relocation resolves to a field of its section that the value fits. -/
def Reloc.fits (f : List Byte) (base : Nat → Nat) (r : Reloc) : Bool :=
  let v := r.value base
  r.hasField (hgiSection f r.sect)
    && (match r.kind with
      | 0 => decide (r.tsect = 0 ∧ r.toff % 8 = 0) && decide (-2 ^ 28 ≤ v ∧ v < 2 ^ 28)
      | 1 => decide (-2 ^ 28 ≤ v ∧ v < 2 ^ 28)
      | _ => decide (0 ≤ v ∧ v < 2 ^ 64))

/-- Bytes written over those at off. -/
def overwrite (sect : List Byte) (off : Nat) (bs : List Byte) : List Byte := sect.take off ++ bs ++ sect.drop (off + bs.length)

/-- imm29 of a word (R153). -/
def putImm29 (w v : Nat) : Nat := putBits (putBits w 37 31 (v / 2 ^ 22 % 2 ^ 7)) 21 0 (v % 2 ^ 22)

/-- The loader applies a relocation to the contents of its section (R314). -/
def Reloc.store (r : Reloc) (base : Nat → Nat) (sect : List Byte) : List Byte :=
  let w := wordIn sect r.off
  let v (n : Nat) : Nat := (r.value base % (2 ^ n : Nat)).toNat
  if r.kind < 2 then overwrite sect r.off (leBytes 8 (putImm29 w (v 29)))
  else if r.kind = 2 ∧ r.isLix sect = true then
    overwrite sect r.off (leBytes 8 (putBits w 1 0 (v 64 / 2 ^ 62)) ++ leBytes 8 (putBits (wordIn sect (r.off + 8)) 61 0 (v 64 % 2 ^ 62)))
  else overwrite sect r.off (leBytes 8 (v 64))

/-- The contents of a section as the loader places them. -/
def hgiPlaced (f : List Byte) (base : Nat → Nat) (code : Nat) : List Byte :=
  ((hgiRelocs f).filter (fun r => decide (r.sect = code))).foldl (fun sect r => r.store base sect) (hgiSection f code)

/-! ## The checks against the partition (R331) -/

/-- A leaf that no strand's place enters, as masked for the function, under a firmware image. -/
def VF.leafValue (v : VF) (image : List Byte) (n : Nat) : Nat :=
  match n with
  | 0 => v.leaf0
  | 1 => (Config.leaf1 image &&& v.mask1).toNat
  | _ => 0

/-- The number of the first check of R331 that refuses the image f for a partition of g lane groups, a function and a context
whose vault window ends at vwlim, under firmware fw, with the sections placed at base; 0 when all pass. -/
def loadCheck (f fw : List Byte) (v : VF) (g vwlim : Nat) (base : Nat → Nat) : Nat :=
  let need := (List.range (numAt f 0x34 4)).map (fun i => (numAt f (numAt f 0x48 8 + 16 * i) 4, numAt f (numAt f 0x48 8 + 16 * i + 8) 8))
  if v.leaf0 % 256 < numAt f 8 4 then 1
  else if need.any (fun r => decide (v.leafValue fw r.1 &&& r.2 ≠ r.2)) then 2
  else if 64 * g < 2 ^ numAt f 0x0C 1 ∨ 2 ^ numAt f 0x0D 1 < 64 * g then 3
  else if 524288 * g < (hgiSection f 3).length then 4
  else if vwlim / 4096 * 4096 < (hgiSection f 4).length + g * hgiFrame f g then 5
  else if (hgiRelocs f).all (Reloc.fits f base) = false then 6
  else 0

/-- The launch descriptor (Table 19.6) that the loader builds from launch template i (Table 14.2) of an image whose .text it has placed:
Fr and Sr are those of the partition (R333); the rest of the fields are the driver's. -/
def hgiDescriptor (f : List Byte) (g text i stealk prick : Nat) (digest done : Option Nat) (doneVal : Nat) : List Byte :=
  let o := numAt f 0x50 8 + 64 * i
  let flags := numAt f (o + 0x3A) 1 % 16 + 16 * b2n digest.isSome + 32 * b2n done.isSome
  w8 (text + numAt f (o + 0x10) 8) ++ [0x18, 0x20, 0x28].flatMap (fun k => w8 (numAt f (o + k) 8))
    ++ leBytes 4 (numAt f (o + 0x30) 4) ++ leBytes 4 (numAt f (o + 0x34) 4)
    ++ [numAt f (o + 0x38) 1, numAt f (o + 0x39) 1, flags, stealk].flatMap (leBytes 1) ++ leBytes 4 0
    ++ [digest.getD 0, prick, hgiFrame f g, hgiSpill f g, done.getD 0, doneVal].flatMap w8 ++ List.replicate 32 0

/-! ## The translation cache key (R335, R339) -/

/-- FV: leaves 0–7 as masked, in leaf order. -/
def VF.featureVector (v : VF) (fw : List Byte) : List Byte := (List.range 8).flatMap (fun n => leBytes 8 (v.leafValue fw n))

/-- The key of a Thitos image's translation by a translator version, under firmware fw. DESIGN CHOICE (log 75): the microcode revision is
that of leaf 1 as masked for the function, where R339 does not say masked or raw. -/
def cacheKey (f fw : List Byte) (translator : Nat) (v : VF) : List Byte :=
  sha512 ((f.drop 0x70).take 64 ++ leBytes 8 translator ++ v.featureVector fw ++ leBytes 8 (bits (v.leafValue fw 1) 63 32)
    ++ leBytes 8 (numAt f 8 4))

/-! ## Prickings (R364, R365) -/

def prickCodes (f : List Byte) : Nat := numAt f 0x50 4
def prickIndexes (f : List Byte) : Nat := numAt f 0x54 4
/-- The index entries of the file: id, bits 31:16, word index. -/
def prickEntries (f : List Byte) : List (Nat × Nat × Nat) :=
  (List.range (prickIndexes f)).map (fun i =>
    let o := numAt f 0x60 8 + 8 * i
    (numAt f o 2, numAt f (o + 2) 2, numAt f (o + 4) 4))

/-- The header is well formed, the tables lie in the file, and the limits and the index order hold (Table 15.4 check 2). -/
def prickOk (f : List Byte) : Bool :=
  decide (128 ≤ f.length ∧ f.take 4 = [0x48, 0x47, 0x41, 0x00] ∧ numAt f 4 2 = 1) && zeroAt f 6 2 && zeroAt f 0x68 24
    && decide (prickCodes f ≤ 16384 ∧ prickIndexes f ≤ 4096 ∧ numAt f 0x58 8 % 4 = 0 ∧ numAt f 0x60 8 % 8 = 0)
    && tableIn f (numAt f 0x58 8) (prickCodes f) 4 && tableIn f (numAt f 0x60 8) (prickIndexes f) 8
    && decide ((prickEntries f).Pairwise (fun a b => a.1 < b.1))
    && (prickEntries f).all (fun e => decide (e.2.1 = 0 ∧ e.2.2 < prickCodes f))

/-- Code and index of a well-formed pricking. -/
def prickOf (f : List Byte) : Prick :=
  ⟨(List.range (prickCodes f)).map (fun i => BitVec.ofNat 32 (numAt f (numAt f 0x58 8 + 4 * i) 4)),
    (prickEntries f).map (fun e => (e.1, e.2.2))⟩

/-- The reason code of Table 15.4 for a pricking bound to the image whose hash is given; 0: bound. -/
def prickReason (f hash : List Byte) (v : VF) : Nat :=
  if v.leaf0.testBit 15 = false then 1
  else if prickOk f = false then 2
  else if (f.drop 0x10).take 64 ≠ hash then 3
  else if numAt f 8 8 ≠ 2 ^ 64 - 1 ∧ numAt f 8 8 ≠ Config.chipSerial.toNat then 4
  else 0

/-- The loader binds a pricking under handle n when every check passes, and ignores it otherwise. Log 70. -/
def State.bindPricking (s : State) (n vfn : Nat) (f hash : List Byte) : State :=
  if prickReason f hash (s.vf vfn) = 0 then { s with pricks := Map.set s.pricks n (prickOf f) } else s

end Sys2Proof.Machine
end

