-- ==== Sys2Proof/Tests/Slice0.lean ====
section
/-!
SUPPORT. Tests: words of the manual decode to their instructions, every limit of the encoding refuses an ill-formed term, single
steps give the manual's own results, and every statement's hypotheses are met somewhere.
-/
namespace Sys2Proof.Tests
open Sys2Proof Sys2Proof.Machine

set_option maxRecDepth 20000
set_option Elab.async false

/-! ## Helpers -/

/-- The word w, followed by next, decodes to d. -/
def reads (w next : Nat) (d : Decoded) : Bool := match decode w next with
  | .ok x => decide (x = d)
  | .error _ => false
/-- The word w decodes to the instruction i of 8 bytes. -/
def word (w : Nat) (i : Instr) : Bool := reads w 0 (.one i 8)
/-- The advice word w decodes to i. -/
def advice (w : Nat) (i : Instr) : Bool := match decodeAdvice w with
  | .ok x => decide (x = i)
  | .error _ => false
/-- The word w is refused for the reason r. -/
def refusedWord (w next : Nat) (r : Reject) : Bool := match decode w next with
  | .ok _ => false
  | .error x => decide (x = r)

/-- Strand 0 of core 0 in user mode, in a partition of one lane group, with page tables and no code. -/
def m0 : State := (State.reset.placeCode []).actAs 0 0
/-- m0 with its strand changed. -/
def on (f : Strand → Strand) : State := m0.setMe (f m0.me)
/-- Scalar registers take these values. -/
def rs (l : List (SReg × Word)) (x : Strand) : Strand := l.foldl (fun x c => x.wS c.1 c.2) x
/-- i at s answers a next state of which P holds. -/
def after (i : Instr) (s : State) (P : State → Bool) : Bool := match exec i s with
  | .next t => P t
  | .fault _ => false
  | .refused _ => false
/-- r succeeds with a value of which P holds. -/
def okAnd {ε α : Type} (r : Except ε α) (P : α → Bool) : Bool := match r with
  | .ok a => P a
  | .error _ => false
def isErr {ε α : Type} (r : Except ε α) : Bool := match r with
  | .ok _ => false
  | .error _ => true
/-- i at s gives a state in which s3 holds v. -/
def gives3 (i : Instr) (s : State) (v : Word) : Bool := after i s (fun t => decide (t.rS 3 = v))
/-- The strand of m0 with s4 and s5 set. -/
def ab (a b : Word) : State := on (rs [(4, a), (5, b)])
/-- i at s enters the handler with this cause. -/
def traps (i : Instr) (s : State) (cause : Nat) : Bool := after i s (fun t => decide (t.rS 2 = BitVec.ofNat 64 cause ∧ t.me.mode = .supervisor))

/-! ## Words of the manual -/

theorem test_words_integer : (word 0x0010610280000000 (.add 3 4 5) && word 0x0400613F803FFFF8 (.addi 3 4 (-8))
    && word 0x0240C1C000001203 (.bfx 6 7 true 8 3) && word 0x04528000000003E8 (.li 20 1000)
    && reads 0x8470E00000000003 0xF000000000000001 (.one (.lix 7 0xF000000000000001) 16)) = true := by decide +kernel

theorem test_words_float_control : (word 0x0830610280000001 (.ffma 3 4 5 0 1) && word 0x0C80603F803FFFFC (.beq 3 0 (-4))
    && word 0x0C1020000000000C (.call 1 12)) = true := by decide +kernel

theorem test_words_memory : (word 0x1000A18000008010 (.ld ⟨5, 6, 0, 0, false, 0, 2, false, 16, .cls 0⟩)
    && word 0x1030E2000002C000 (.stl ⟨7, 8, 0, 0, false, 2, 3, false, 0, .cls 0⟩)
    && word 0x100122800028C000 (.ld ⟨9, 10, 0, 2, true, 0, 3, false, 0, .cls 0⟩)
    && word 0x101060400000C008 (.st ⟨3, 1, 0, 0, false, 0, 3, false, 8, .cls 0⟩)
    && word 0x112183470003F000 (.cas ⟨12, 13, 14, 0, false, 3, 3, 3, 0, 0, .cls 0⟩)
    && word 0x1112458D0000C000 (.amox ⟨18, 22, 26, 0, false, 0, 3, 0, 0, 0, .cls 0⟩)) = true := by decide +kernel

theorem test_words_sync_system : (word 0x1200000000000012 (.fence 2 2) && word 0x1220A28300028000 (.wait ⟨5, 10, 6, 0, false, 2, 2, 0, 0⟩)
    && word 0x1400A00000000005 (.mfs 5 5) && word 0x1410014000000022 (.mts 5 0x22) && word 0x1430000000000000 .eret
    && word 0x1452800000000008 (.featq 20 8) && word 0x1460014300000019 (.tlbi 5 6 1 3) && word 0x1490000000000029 (.evack 0x29)) = true := by
  decide +kernel

/-- The operands of a vector word. -/
def vop (d a : VNum) (b : BSrc) (fmt : Fin 64) : VOp :=
  { d := d, a := a, b := b, p := 0, ca := false, cb := false, fmt := fmt, ar := 0, rnd := 0, na := .plain, nb := .plain, xf := 0 }
/-- The operands of a vector memory word. -/
def vmem (d : VNum) (a : SReg) (b : BSrc) (sp : Fin 4) (fmt : Fin 64) : VMem :=
  { d := d, a := a, b := b, p := 0, cb := false, sp := sp, loc := decide (sp.val ≠ 0), scope := 0, fmt := fmt, ar := 0, acq := false, disp := 0
    slk := .cls 0 }

theorem test_words_vector : (word 0x2000A18000000001 (.vsetl 5 6 1 0) && word 0x2010000000000003 (.vsetg 3)
    && word 0x2038200380090000 (.vidx 1 0 7 0 9) && word 0x2048414000090000 (.vbc 2 5 0 9 0)
    && word 0x2109126500010000 (.vadd (vop 8 9 (.v 10) 1))
    && word 0x214A126502010200 (.vfma { vop 16 9 (.v 10) 1 with cb := true, na := .left })
    && word 0x30ACA00000000001 (.mmv 1 5 0)
    && word 0x3208A28000180400 (.vld (vmem 5 10 (.s 0) 1 1))
    && word 0x32290524A0112480 (.vldx { vmem 8 20 (.v 9) 1 9 with p := 4, loc := false, scope := 1, acq := true })
    && word 0x3288860000280400 (.vst (vmem 4 24 (.s 0) 2 1))
    && word 0x3209000001284000 (.vld { vmem 8 0 (.s 0) 2 16 with slk := .cls 4 })) = true := by decide +kernel

theorem test_words_matrix : (word 0x3800000000000014 (.mmodeEnter 1 1) && word 0x3800000000000001 .mmodeLeave && word 0x3800000000000008 (.mmodeEnter 2 0)
    && word 0x3810A18380100000 (.tshape 5 6 7 16 0) && word 0x3810A18380018000 (.tshape 5 6 7 1 2)
    && word 0x383E122800104000 (.mop ⟨0, 8, 16, false, false, 16, 16, 0⟩) && word 0x383E322600010600 (.mop ⟨1, 8, 12, false, false, 1, 1, 2⟩)
    && word 0x384E122800104030 (.mops ⟨0, 8, 16, false, false, 16, 16, 0⟩ 3)
    && word 0x3859028580030C00 (.mld ⟨8, 10, 11, 3, 0, 0, true, true, .cls 0⟩) && word 0x382E000000000000 (.mzero 0)
    && word 0x3890BC0000000001 (.mstat 5 0 true) && word 0x38B0030000000001 (.algld ⟨12, 1, 0, false, 0, .cls 0⟩)
    && word 0x387A9C4480021089 (.mdrain ⟨20, 1, 9, 1, 1, 1, 0, 2, 1⟩)) = true := by decide +kernel

/-- COPY of 4 rows of 4,096 bytes from VA to own lane memory, tag 3, barrier s10 own, chunk mask m4, slack 256 (chapter 10). -/
def copyOp : XferOp := ⟨0, false, 1, true, 10, true, 4095, 3, 3, true, true, 4, 256⟩

theorem test_words_engines : (reads 0xBC00A50B00032A00 0xC40000FFF00030F4 (.one (.copy 5 20 22 copyOp) 16)
    && reads 0xBC10060C80000001 0xC000000000000001 (.one (.seqLevelWrite 24 25 1 0 1) 16)
    && reads 0xBC20028600027400 0xC4000007F001F010
      (.one (.seqgo 0 10 12 0 (.ext false ⟨0, false, 1, false, 29, false, 127, 31, 0, false, true, 0, 256⟩)) 16)
    && word 0x3C80014000000000 (.ctwall 5) && word 0x3C90C1C000000000 (.ctwany 6 7) && word 0x3D00028600080000 (.binit 10 12 true 0)
    && word 0x3D21A28580090000 (.bwait 13 10 11 true 1 0) && word 0x3D89050A80000400 (.mcastSend ⟨8, 20, 21, 0, false, 1, 0, 0, .cls 0⟩)
    && word 0x3D89000000000401 (.mcastRecv 8 1 0) && word 0x3D91050A80800805 (.coll ⟨8, 20, 21, 0, 0, 1, 0, 5, 0, .cls 2⟩)
    && word 0x3E00A00000000000 (.dgst 5 0)) = true := by decide +kernel

theorem test_words_pairs : (reads 0x408C800040424008 0 (.pair ⟨0x01, 3, 4, 0⟩ ⟨0x40, 8, 9, 8⟩)
    && refusedWord 0x6021200440634008 0 (.pairconf 4) && refusedWord 0x0010610280400000 0 (.badField false)
    && refusedWord 0x8470E00000000003 0x0010610280000000 .headAlone && refusedWord 0xF000000000000001 0 .continuation) = true := by decide +kernel

theorem test_words_advice : (advice 0x10400001 (.aaddi 1 0 1) && advice 0x08840010 (.await 2 1 0x10) && advice 0x34808006 (.abr 2 0 1 6)
    && advice 0x0CC00002 (.amark 3 2) && advice 0x11001000 (.aaddi 4 0 0x1000) && advice 0x24D00000 (.apf 3 4 0 false)
    && advice 0x3803FFFA (.ajmp (-6))) = true := by decide +kernel

/-! ## Ill-formed terms: one for each limit -/

/-- None of these is well formed. -/
def noneOk (l : List Instr) : Bool := l.all (fun i => !i.wf)

theorem test_illformed_scalar : noneOk [.bfx 1 2 true 63 1, .bfi 1 2 1 63, .shlImm 1 2 64, .sraImm 1 2 (-1), .fadd 1 2 3 6 0, .fmin 1 2 3 4,
    .fcmp 1 2 3 5 0, .fcmp 1 2 3 0 4, .fcvt 1 2 6 1 1, .fcvt 1 2 0 4 1, .fcvt 1 2 0 1 63, .fclass 1 2 7, .fmv 1 2 5] = true := by decide

theorem test_illformed_memory : noneOk [.ld ⟨1, 2, 3, 3, false, 0, 0, false, 0, .cls 0⟩, .ld ⟨1, 2, 3, 0, true, 0, 0, false, 0, .cls 0⟩,
    .ld ⟨1, 2, 3, 0, false, 1, 0, false, 0, .cls 0⟩, .ld ⟨1, 2, 3, 0, false, 0, 3, true, 0, .cls 0⟩,
    .ld ⟨1, 2, 3, 0, false, 0, 0, false, 4096, .cls 0⟩, .st ⟨1, 2, 3, 0, false, 0, 0, true, 0, .cls 0⟩,
    .lda ⟨1, 2, 3, 0, false, 5, 0, false, 0, .cls 0⟩, .stl ⟨1, 2, 3, 0, false, 7, 0, false, 0, .cls 0⟩,
    .amo ⟨1, 2, 3, 0, false, 0, 3, 0, 0, 0, .cls 0⟩, .amo ⟨0, 2, 3, 0, false, 0, 3, 0, 9, 0, .cls 0⟩,
    .amox ⟨1, 2, 3, 0, false, 0, 3, 0, 10, 0, .cls 0⟩, .amox ⟨1, 2, 3, 0, false, 0, 1, 0, 0, 0, .cls 0⟩,
    .cas ⟨1, 2, 3, 0, false, 0, 3, 0, 1, 0, .cls 0⟩, .cas ⟨1, 2, 3, 0, false, 1, 3, 0, 0, 0, .cls 0⟩] = true := by decide

theorem test_illformed_sync_system : noneOk [.fence 4 0, .fence 0 5, .bar 0 0, .bar 3 0, .wait ⟨1, 2, 3, 0, false, 0, 1, 0, 0⟩,
    .wait ⟨1, 2, 3, 0, false, 0, 2, 4, 0⟩, .mfs 1 0x18, .mfs 1 0x30, .mts 1 0x82, .mts 1 0x91, .tlbi 0 0 3 3, .tlbi 0 0 1 2, .tlbi 1 0 0 3,
    .tlbi 0 1 0 3, .evack 0x27] = true := by decide

theorem test_illformed_vector_configuration : noneOk [.vsetl 1 2 5 0, .vtag 1 2 4 0 0, .vidx 1 2 3 0 1, .vbc 1 2 0 32 0, .vmovs 1 2 3 62 0,
    .vmovv 1 2 0 false 40 0, .vrng 1 0 1, .vclass 1 2 0 false 9 0, .mpsum 1 2 63, .mmv 3 0 0, .mmv 1 0 1, .mmv 2 1 0] = true := by decide

theorem test_illformed_vector : noneOk [.vadd { vop 1 2 (.v 3) 1 with rnd := 6 }, .vadd { vop 1 2 (.v 3) 1 with xf := 1 },
    .vadd { vop 1 2 (.v 3) 9 with rnd := 1 }, .vmul { vop 1 2 (.v 3) 1 with xf := 1 }, .vadd (vop 1 2 (.v 3) 63), .vmulh (vop 1 2 (.v 3) 1),
    .vdiv { vop 1 2 (.v 3) 1 with ar := 1 }, .vsqrt (vop 1 2 (.s 0) 9), .vsqrt (vop 1 2 (.v 3) 1), .vadd { vop 1 2 (.s 3) 1 with cb := true },
    .vadd { vop 1 2 (.s 3) 1 with nb := .left }, .vand (vop 1 2 (.v 3) 1), .vshl (vop 1 2 (.v 3) 63), .vclz (vop 1 2 (.s 0) 16),
    .vmwide { vop 1 2 (.v 3) 1 with xf := 9 }, .vdot { vop 1 2 (.v 3) 11 with xf := 10 }, .vsel { vop 1 2 (.v 3) 1 with rnd := 1 },
    .vred { vop 1 2 (.s 0) 1 with xf := 4, d := (1 : SReg) }, .vscan { vop 1 2 (.s 0) 1 with xf := 1 }, .vrecur { vop 1 2 (.v 3) 1 with xf := 64 },
    .vslide (vop 1 2 (.v 3) 1), .vslide { vop 1 2 (.s 3) 1 with xf := 2 }, .vcvt (vop 1 2 (.s 0) 63), .vcvts { vop 1 2 (.s 0) 1 with rnd := 1 },
    .vamul (vop 1 2 (.v 3) 1), .vcmp { vop 1 2 (.v 3) 9 with xf := 6, d := (1 : MReg) }] = true := by decide

theorem test_illformed_vector_memory : noneOk [.vld (vmem 1 2 (.s 3) 0 1), .vld (vmem 1 2 (.s 0) 3 1), .vld { vmem 1 2 (.s 0) 0 1 with acq := true },
    .vld { vmem 1 2 (.s 0) 0 1 with scope := 1 }, .vld { vmem 1 2 (.s 0) 0 1 with disp := 64 }, .vlds (vmem 1 2 (.v 3) 0 1), .vldx (vmem 1 2 (.s 3) 0 1),
    .vldx { vmem 1 2 (.v 3) 0 1 with acq := true }, .vldxf { vmem 1 2 (.v 3) 0 1 with acq := true } 1, .vst { vmem 1 2 (.s 0) 0 1 with acq := true },
    .vscadd (vmem 1 2 (.v 3) 0 16) 0, .vscadd (vmem 1 2 (.v 3) 0 1) 5, .vspill (vmem 1 2 (.s 0) 0 1), .vfill { vmem 1 2 (.s 0) 0 0 with p := 1 },
    .vbind ⟨1, 2, 3, 0, false, false, 1, 0, 0, 0, 0⟩, .vlda { vmem 1 2 (.s 0) 0 1 with scope := 5 }, .vstl { vmem 1 2 (.s 0) 0 1 with acq := true }] = true := by
  decide

theorem test_illformed_matrix_engines : noneOk [.mmodeEnter 1 2, .tshape 1 2 3 9 0, .mop ⟨0, 1, 2, false, false, 1, 2, 0⟩, .mops ⟨0, 1, 2, false, false, 9, 9, 0⟩ 1,
    .mld ⟨1, 2, 3, 63, 0, 0, false, false, .cls 0⟩, .mdrain ⟨1, 0, 2, 4, 1, 1, 0, 0, 0⟩, .mdrain ⟨1, 0, 2, 1, 1, 1, 6, 0, 0⟩, .mfill ⟨0, 1, 2, false, 2, 0⟩,
    .algld ⟨1, 0, 3, false, 0, .cls 0⟩, .copy 1 63 2 copyOp, .copy 1 2 4 { copyOp with be := false }, .copy 1 2 4 { copyOp with ssp := 3 },
    .seqLevelWrite 1 2 6 0 0, .bwait 1 2 3 false 0 0, .bwait 1 2 3 false 5 0, .mcastSend ⟨1, 2, 3, 0, true, 1, 0, 0, .cls 0⟩, .mcastRecv 1 5 0,
    .coll ⟨1, 2, 3, 0, 3, 1, 0, 0, 0, .cls 0⟩, .coll ⟨1, 2, 3, 1, 1, 1, 0, 0, 0, .cls 0⟩, .coll ⟨1, 2, 3, 0, 0, 1, 0, 0, 5, .cls 0⟩, .coll ⟨1, 2, 3, 0, 0, 1, 0, 0, 5, .lit 0⟩,
    .dgst 1 3] = true := by decide

theorem test_illformed_halves_advice : noneOk [.shlImmHalf 1 2 64, .faddHalf 1 2 6 0, .fmaxHalf 1 2 0 4, .vaddHalf 1 2 63 0, .vaddHalf 1 2 9 1, .vandHalf 1 2 1 0,
    .vshlHalf 1 2 63 0, .amark 1 5, .apf 1 2 1 false, .apf 1 2 0 true, .apin 1 2 3, .abr 1 2 6 0] = true := by decide

/-! ## Single steps: integers and scalar floating point -/

theorem test_add_wraps : gives3 (.add 3 4 5) (ab (BitVec.allOnes 64) 2) 1 = true := by decide +kernel
theorem test_add_keeps_s0 : after (.add 0 4 5) (ab 1 2) (fun t => decide (t.rS 0 = 0 ∧ t.me.pc = 0x80008)) = true := by decide +kernel
theorem test_sub_wraps : gives3 (.sub 3 4 5) (ab 0 1) (BitVec.allOnes 64) = true := by decide +kernel
theorem test_mulh_signs : (gives3 (.mulh 3 4 5) (ab (-1) 1) (-1) && gives3 (.mulhn 3 4 5) (ab (-1) 2) 1) = true := by decide +kernel
theorem test_div_by_zero : (gives3 (.div 3 4 5) (ab 7 0) (-1) && gives3 (.rem 3 4 5) (ab 7 0) 7 && gives3 (.divn 3 4 5) (ab 7 0) (-1)
    && gives3 (.remn 3 4 5) (ab 7 0) 7) = true := by decide +kernel
theorem test_div_rounds_toward_zero : (gives3 (.div 3 4 5) (ab (-7) 2) (-3) && gives3 (.rem 3 4 5) (ab (-7) 2) (-1)
    && gives3 (.div 3 4 5) (ab (BitVec.intMin 64) (-1)) (BitVec.intMin 64) && gives3 (.rem 3 4 5) (ab (BitVec.intMin 64) (-1)) 0) = true := by decide +kernel
theorem test_shift_counts : (gives3 (.shl 3 4 5) (ab 1 65) 2 && gives3 (.shr 3 4 5) (ab (-8) 1) 0x7FFFFFFFFFFFFFFC && gives3 (.sra 3 4 5) (ab (-8) 1) (-4)
    && gives3 (.rol 3 4 5) (ab 0x8000000000000001 1) 3) = true := by decide +kernel
theorem test_compare_signs : (gives3 (.slt 3 4 5) (ab (-1) 0) 1 && gives3 (.sltn 3 4 5) (ab (-1) 0) 0 && gives3 (.min 3 4 5) (ab (-1) 0) (-1)
    && gives3 (.minn 3 4 5) (ab (-1) 0) 0 && gives3 (.sgen 3 4 5) (ab 5 5) 1) = true := by decide +kernel
theorem test_csel_keeps : (gives3 (.csel 3 4 5) (on (rs [(3, 9), (4, 7), (5, 0)])) 9 && gives3 (.csel 3 4 5) (on (rs [(3, 9), (4, 7), (5, 1)])) 7) = true := by
  decide +kernel
theorem test_lea : gives3 (.lea 3 4 5 3 (-8)) (ab 0x100 2) 0x108 = true := by decide +kernel
theorem test_bit_counts : (gives3 (.clz 3 4) (ab 0 0) 64 && gives3 (.ctz 3 4) (ab 0x50 0) 4 && gives3 (.popc 3 4) (ab 0xFF0 0) 8
    && gives3 (.brev 3 4) (ab 1 0) 0x8000000000000000) = true := by decide +kernel
theorem test_bfx_manual : gives3 (.bfx 3 4 true 8 3) (ab 0xA00 0) 0xFFFFFFFFFFFFFFFA = true := by decide +kernel
theorem test_bfi_keeps_rest : gives3 (.bfi 3 4 4 3) (on (rs [(3, -1), (4, 0xF5)])) 0xFFFFFFFFFFFFFF5F = true := by decide +kernel
theorem test_addpc_is_bytes : gives3 (.addpc 3 16) m0 0x80010 = true := by decide +kernel
theorem test_lix_takes_16_bytes : after (.lix 3 5) m0 (fun t => decide (t.me.pc = 0x80010 ∧ t.rS 3 = 5)) = true := by decide +kernel

theorem test_fadd_fp32 : gives3 (.fadd 3 4 5 0 1) (ab 0xAAAAAAAA3F800000 0x40000000) 0x40400000 = true := by decide +kernel
theorem test_fdiv_by_zero_flags : after (.fdiv 3 4 5 0 1) (ab 0x3F800000 0) (fun t => decide (t.rS 3 = 0x7F800000 ∧ t.me.fpflags = flagDZ)) = true := by
  decide +kernel
theorem test_fmin_orders_zeros : (gives3 (.fmin 3 4 5 1) (ab 0 0x80000000) 0x80000000 && gives3 (.fmax 3 4 5 1) (ab 0 0x80000000) 0) = true := by decide +kernel
theorem test_fmin_ignores_nan : gives3 (.fmin 3 4 5 1) (ab 0x7FC00000 0x3F800000) 0x3F800000 = true := by decide +kernel
theorem test_fcmp_nan : (gives3 (.fcmp 3 4 5 4 1) (ab 0x7FC00000 0) 1 && gives3 (.fcmp 3 4 5 3 1) (ab 0x7FC00000 0) 1 && gives3 (.fcmp 3 4 5 0 1) (ab 0x7FC00000 0) 0)
    = true := by decide +kernel
theorem test_fmv_clears_upper : gives3 (.fmv 3 4 2) (ab 0xFFFFFFFFFFFF3C00 0) 0x3C00 = true := by decide +kernel
/-- FMT2 as the worked example of chapter 3 sets it. -/
def fmt2 : State := m0.setPart 0 { m0.part 0 with fmt := (m0.part 0).fmt.set 2 0x3F000000030D3006 }
theorem test_fcvt_manual : (gives3 (.fcvt 3 4 0 1 18) (fmt2.setMe (rs [(4, 0x41200000)] m0.me)) 0x1D
    && after (.fcvt 3 4 0 1 18) (fmt2.setMe (rs [(4, 0x42C80000)] m0.me)) (fun t => decide (t.rS 3 = 0x1F ∧ t.me.fpflags = (flagOF ||| flagNX)))) = true := by
  decide +kernel

/-! ## Single steps: control, memory, synchronisation, system -/

/-- i at s puts the pc at v. -/
def goes (i : Instr) (s : State) (v : Word) : Bool := after i s (fun t => decide (t.me.pc = v))
/-- m0 whose context has a handler at 0x90000 and records at 0xA0000 (R407). -/
def mt : State := m0.setPart 0 { m0.part 0 with ctxs := [(0, { placeCtx with tvec := 0x90000, trec := 0xA0000 })] }
def mtOn (f : Strand → Strand) : State := mt.setMe (f mt.me)
def sup (x : Strand) : Strand := { x with mode := .supervisor }

theorem test_branches : (goes (.beq 4 5 (-4)) (ab 1 1) 0x7FFE0 && goes (.beq 4 5 (-4)) (ab 1 2) 0x80008 && goes (.blt 4 5 2) (ab (-1) 0) 0x80010
    && goes (.bltn 4 5 2) (ab (-1) 0) 0x80008) = true := by decide +kernel
theorem test_call_reads_before_link : after (.callr 5 5) (ab 0 0x90007) (fun t => decide (t.me.pc = 0x90000 ∧ t.rS 5 = 0x80008)) = true := by decide +kernel
theorem test_jump_out_of_range : traps (.jr 5) (mtOn (rs [(5, 0x80000000000000)])) cPAGE = true := by decide +kernel
/-- 16 cycles of 1.9 GHz are 320 nineteenths of a network cycle. -/
theorem test_yield_waits_16_cycles : after .yield m0 (fun t => decide (t.me.run = .waiting (.yield 320 []) ∧ t.me.pc = 0x80008)) = true := by decide +kernel
theorem test_exit_without_task : after .exit m0 (fun t => decide (t.me.run = .idle)) = true := by decide +kernel

/-- LD and ST operands in the own lane memory. -/
def lm (d : SReg) (w : Fin 4) (x : Bool) (disp : BitVec 50) : MemOp := ⟨d, 0, 0, 1, true, 0, w, x, disp, .cls 0⟩
def va (d : SReg) (w : Fin 4) (disp : BitVec 50) : MemOp := ⟨d, 6, 0, 0, false, 0, w, false, disp, .cls 0⟩
/-- Lane memory holds these bytes from offset a on. -/
def lane (s : State) (a : Nat) (bs : List Byte) : State := s.writeBytes (laneBase 0 + a) none bs

theorem test_load_extends : (gives3 (.ld (lm 3 0 true 16)) (lane m0 16 [0x80]) (-128) && gives3 (.ld (lm 3 0 false 16)) (lane m0 16 [0x80]) 128
    && gives3 (.ld (lm 3 2 false 16)) (lane m0 16 [1, 2, 3, 4]) 0x04030201) = true := by decide +kernel
theorem test_store_waits_in_buffer : after (.st (lm 4 3 false 16)) (ab 77 0) (fun t =>
    decide (Memory.read t.mem (laneBase 0 + 16) = 0 ∧ t.me.stores.length = 1) && after (.ld (lm 3 3 false 16)) t (fun u => decide (u.rS 3 = 77))
      && after (.storePerform 0 0 0) t (fun u => decide (Memory.read u.mem (laneBase 0 + 16) = 77 ∧ u.me.stores = []))) = true := by decide +kernel
theorem test_load_misaligned : traps (.ld (va 3 3 4)) (mtOn (rs [(6, 0x100000)])) cALIGN = true := by decide +kernel
theorem test_store_translated : after (.stl (va 4 2 0)) (on (rs [(4, 0x11223344), (6, 0x100000)])) (fun t =>
    decide (t.me.stores = []) && after (.ld (va 3 2 0)) t (fun u => decide (u.rS 3 = 0x11223344))) = true := by decide +kernel

/-- Atomic operands in the own lane memory at 16, 64 bits. -/
def atom (aop : Fin 16) : AtomOp := ⟨3, 0, 4, 1, true, 0, 3, 0, aop, 16, .cls 0⟩
theorem test_amox_adds : after (.amox (atom 0)) (lane (ab 5 0) 16 [7]) (fun t => decide (t.rS 3 = 7 ∧ Memory.read t.mem (laneBase 0 + 16) = 12)) = true := by
  decide +kernel
theorem test_amo_min_signed : after (.amo { atom 4 with d := 0 }) (lane (ab (-1) 0) 16 [7]) (fun t =>
    decide (Memory.read t.mem (laneBase 0 + 16) = 0xFF)) = true := by decide +kernel
theorem test_cas : (after (.cas (atom 0)) (lane (on (rs [(3, 7), (4, 9)])) 16 [7]) (fun t => decide (t.rS 3 = 7 ∧ Memory.read t.mem (laneBase 0 + 16) = 9))
    && after (.cas (atom 0)) (lane (on (rs [(3, 6), (4, 9)])) 16 [7]) (fun t => decide (t.rS 3 = 7 ∧ Memory.read t.mem (laneBase 0 + 16) = 7))) = true := by
  decide +kernel

theorem test_wait_condition : (after (.wait ⟨3, 6, 4, 1, true, 2, 2, 0, 0⟩) (lane (ab 1 0) 0 [1]) (fun t => decide (t.rS 3 = 1 ∧ t.me.pc = 0x80008))
    && after (.wait ⟨3, 6, 4, 1, true, 2, 2, 0, 0⟩) (ab 1 0) (fun t => decide (t.me.run = .waiting (.mem (laneBase 0) 4) ∧ t.me.pc = 0x80000))) = true := by
  decide +kernel
theorem test_mark_counts : after (.mark 5 0 0) m0 (fun t => after (.mark 5 0 0) t (fun u => decide (u.me.mcntId = 5 ∧ u.me.mcntOcc = 2))) = true := by decide +kernel
/-- R189: after 64 ids a further one is not counted, and the ids that are there keep counting. -/
theorem test_mark_65th_id : (let s := on (fun x => { x with occ := (List.range 64).map (fun k => (k, 1)) })
    after (.mark 100 0 0) s (fun t => decide (t.me.mcntOcc = 0 ∧ t.me.occ.length = 64))
      && after (.mark 63 0 0) s (fun t => decide (t.me.mcntOcc = 2 ∧ t.me.occ.find? (fun c => c.1 = 63) = some (63, 2)))) = true := by decide +kernel
theorem test_slk_order : after (.slk 3 4 2 true true) (on (fun x => { rs [(4, 0x1064)] x with exs := 9 })) (fun t =>
    decide (t.rS 3 = 9 ∧ t.me.exs = 0 ∧ t.me.slkt.get 2 = 0x64)) = true := by decide +kernel

theorem test_mts_rmode : (after (.mts 4 4) (ab 3 0) (fun t => decide (t.me.rmode = 3)) && traps (.mts 4 4) (mtOn (rs [(4, 6)])) cILLEGAL) = true := by decide +kernel
theorem test_mts_vcp_needs_supervisor : traps (.mts 4 2) mt cPRIV = true := by decide +kernel
theorem test_featq_leaf8 : after (.featq 3 8) m0 (fun t => decide (t.rS 3 = 0x10000)) = true := by decide +kernel
theorem test_svc_record : after (.svc 5) mt (fun t => decide (t.me.pc = 0x90000 ∧ t.rS 1 = 0xA0000 ∧ t.rS 2 = 0x38 ∧ t.rS 3 = 0x80008 ∧ t.rS 4 = 0)) = true := by
  decide +kernel
theorem test_brk_keeps_pc : after (.brk 5) mt (fun t => decide (t.rS 2 = 0x39 ∧ t.rS 3 = 0x80000)) = true := by decide +kernel
theorem test_svc_eret_round_trip : after (.svc 5) (mtOn (rs [(1, 11), (4, 14)])) (fun t => after .eret t (fun u =>
    decide (u.me.pc = 0x80008 ∧ u.me.mode = .user ∧ u.rS 1 = 11 ∧ u.rS 4 = 14))) = true := by decide +kernel
theorem test_privilege : (traps .eret mt cPRIV && traps .halt mt cPRIV && traps (.tlbi 0 0 0 3) mt cPRIV) = true := by decide +kernel
theorem test_tlbi_completes : (after (.tlbi 0 0 0 3) (on sup) (fun t => decide (t.me.run = .ready ∧ t.me.pc = 0x80008))
    && after (.tlbiPerformed 0 0) (on (fun x => { x with run := .waiting .tlbi })) (fun t => decide (t.me.run = .ready ∧ t.me.pc = 0x80008))) = true := by decide +kernel
theorem test_halt_wakes : after .halt (on sup) (fun t => decide (t.me.run = .halted ∧ t.me.pc = 0x80008) && after (.haltWake 0 0) t (fun u =>
    decide (u.me.run = .ready))) = true := by decide +kernel
theorem test_evack_clears_one : after (.evack 0x29) (on (fun x => { x with pendThermal := true, pendSlackex := true })) (fun t =>
    decide (t.me.pendThermal = false ∧ t.me.pendSlackex = true) || decide (t.me.pendThermal = true ∧ t.me.pendSlackex = false)) = true := by decide +kernel
theorem test_step_runs_addi : (match step (State.reset.withFetchWord 64 0x0400613F803FFFF8) with
  | .next t => decide ((t.strand 0 0).rS 3 = -8 ∧ (t.strand 0 0).pc = 0x80008)
  | .fault _ => false
  | .refused _ => false) = true := by decide +kernel

/-! ## Single steps: vectors -/

/-- A general register of arity 1: format code, element width and elements. -/
def gen (fmt w : Nat) (l : List Nat) : VReg := ⟨l.length, 0, 0, .general, fmt, 0, 0, packBits w l⟩
def uni (fmt v : Nat) : VReg := ⟨64, 0, 0, .uniform, fmt, v, 0, 0⟩
/-- VL and vector registers. -/
def vs (vl : Nat) (l : List (Nat × VReg)) (x : Strand) : Strand :=
  { x with vl := vl, v := l.foldl (fun v c => if h : c.1 < 32 then v.set c.1 c.2 h else v) x.v }
/-- Elements 0 … n − 1 of vd, w bits each. -/
def elems (s : State) (d w n : Nat) : List Nat := (List.range n).map (fun e => (vget s.me.v d).packed w / 2 ^ (w * e) % 2 ^ w)
/-- i at s puts these w-bit elements into v8. -/
def puts8 (i : Instr) (s : State) (w : Nat) (l : List Nat) : Bool := after i s (fun t => elems t 8 w l.length == l)
/-- The operands v8, v9, v10 in I32. -/
def i32 : VOp := vop 8 9 (.v 10) 9
def two : State := on (vs 4 [(9, gen 9 32 [1, 2, 3, 4]), (10, gen 9 32 [10, 20, 30, 40])])

theorem test_vsetl : after (.vsetl 5 6 1 0) (on (rs [(6, 1000)])) (fun t => decide (t.rS 5 = 64 ∧ t.me.vl = 64)) = true := by decide +kernel
theorem test_vsetl_full_core : after (.vsetl 5 6 1 0) ((m0.setPart 0 { m0.part 0 with g := 8 }).setMe (rs [(6, 1000)] m0.me)) (fun t => decide (t.rS 5 = 512)) = true := by
  decide +kernel
theorem test_vadd : (puts8 (.vadd i32) two 32 [11, 22, 33, 44] && puts8 (.vsub i32) two 32 [2 ^ 32 - 9, 2 ^ 32 - 18, 2 ^ 32 - 27, 2 ^ 32 - 36]) = true := by decide +kernel
theorem test_vadd_saturates : puts8 (.vadd { vop 8 9 (.v 10) 11 with xf := 1 }) (on (vs 2 [(9, gen 11 8 [100, 0x80]), (10, gen 11 8 [100, 0x80])])) 8 [127, 128] = true := by
  decide +kernel
theorem test_vadd_float : puts8 (.vadd (vop 8 9 (.v 10) 1)) (on (vs 1 [(9, uni 1 0x3F800000), (10, uni 1 0x40000000)])) 32 [0x40400000] = true := by decide +kernel
theorem test_predicate_keeps : puts8 (.vadd { i32 with p := 1 }) (on (fun x => { vs 4 [(8, gen 9 32 [5, 6, 7, 8]), (9, gen 9 32 [1, 2, 3, 4]),
    (10, gen 9 32 [10, 20, 30, 40])] x with m := x.m.set 1 0b0101 })) 32 [11, 6, 33, 8] = true := by decide +kernel
theorem test_vfma : puts8 (.vfma i32) (on (vs 2 [(8, gen 9 32 [100, 200]), (9, gen 9 32 [1, 2]), (10, gen 9 32 [10, 20])])) 32 [110, 240] = true := by decide +kernel
theorem test_wrong_format_traps : traps (.vadd (vop 8 9 (.v 10) 1)) (mt.setMe two.me) cFMTTAG = true := by decide +kernel
theorem test_vrecur_manual : after (.vrecur { vop 10 11 (.v 12) 9 with xf := 7 }) (on (vs 4 [(11, uni 9 2), (12, uni 9 1)])) (fun t =>
    elems t 10 32 4 == [1, 3, 7, 15] && decide (t.rS 7 = 15)) = true := by decide +kernel
theorem test_vred_sum : after (.vred { vop 8 9 (.s 0) 9 with d := (3 : SReg) }) two (fun t => decide (t.rS 3 = 10)) = true := by decide +kernel
theorem test_vscan : puts8 (.vscan { i32 with b := .s 0 }) two 32 [1, 3, 6, 10] = true := by decide +kernel
theorem test_vslide : (puts8 (.vslide { i32 with b := .s 4 }) (two.setMe (rs [(4, 1)] two.me)) 32 [0, 1, 2, 3]
    && puts8 (.vslide { i32 with b := .s 4, xf := 1 }) (two.setMe (rs [(4, 1)] two.me)) 32 [2, 3, 4, 0]) = true := by decide +kernel
theorem test_vperm_out_of_range : puts8 (.vperm i32) (on (vs 4 [(9, gen 9 32 [1, 2, 3, 4]), (10, gen 9 32 [3, 0, 9, 2 ^ 32 - 1])])) 32 [4, 1, 0, 0] = true := by
  decide +kernel
theorem test_vcmp_lt : after (.vcmp { i32 with d := (2 : MReg), xf := 2 }) (on (vs 3 [(9, gen 9 32 [1, 2 ^ 32 - 1, 5]), (10, gen 9 32 [2, 0, 5])])) (fun t =>
    decide ((t.me.m.get 2) = 0b011)) = true := by decide +kernel
theorem test_vidx : puts8 (.vidx 8 4 5 0 9) (on (fun x => vs 4 [] (rs [(4, 10), (5, 3)] x))) 32 [10, 13, 16, 19] = true := by decide +kernel
theorem test_vtag_halves_elements : after (.vtag 8 9 10 0 0) two (fun t => decide ((vget t.me.v 8).len = 8) && elems t 8 16 4 == [1, 0, 2, 0]) = true := by decide +kernel
theorem test_masks : (after (.mffs 3 1) (on (fun x => { x with vl := 8 })) (fun t => decide (t.rS 3 = -1))
    && after (.mpop 3 1) (on (fun x => { x with vl := 4, m := x.m.set 1 0xFF })) (fun t => decide (t.rS 3 = 4))
    && after (.mnot 2 1) (on (fun x => { x with vl := 2, m := (x.m.set 1 1).set 2 0xF0 })) (fun t => decide (t.me.m.get 2 = 0xF2))) = true := by decide +kernel

/-- The gather of Table 8.8, its page boundary at the end of the mapped 512 MiB. -/
def gatherState : State :=
  let w (k : Nat) : List Byte := leBytes 4 (100 + k)
  let s := mt.writeBytes 0x1FFF0000 (some placeKey) (w 0 ++ w 1 ++ w 2 ++ w 3 ++ w 4 ++ w 5 ++ w 6)
  s.setMe (vs 8 [(8, uni 9 0xFFFFFFFF), (9, gen 9 32 [0, 4, 8, 12, 16, 65540, 20, 24])] (rs [(20, 0x1FFF0000)] s.me))
def minus1 : Nat := 0xFFFFFFFF
theorem test_gather_traps_at_element_5 : after (.vldx (vmem 8 20 (.v 9) 0 9)) gatherState (fun t => elems t 8 32 8 == [100, 101, 102, 103, 104, minus1, minus1, minus1]
    && decide (t.rS 2 = BitVec.ofNat 64 cPAGE ∧ t.rS 4 = 0x20000004)
    && t.me.stores.any (fun p => decide (p.bytes = cellsAt 0xA0020 (leBytes 8 5)))) = true := by decide +kernel
theorem test_gather_returns_mask : after (.vldxf (vmem 8 20 (.v 9) 0 9) 6) gatherState (fun t => elems t 8 32 8 == [100, 101, 102, 103, 104, minus1, 105, 106]
    && decide (t.me.m.get 6 = 0b00100000 ∧ t.me.vsx = 0)) = true := by decide +kernel
theorem test_scatter_last_wins : after (.vstx (vmem 8 20 (.v 9) 1 9)) (on (fun x => vs 2 [(8, gen 9 32 [5, 6]), (9, uni 9 0)] (rs [(20, 64)] x))) (fun t =>
    decide ((t.me.stores.flatMap PStore.bytes).map Prod.snd = [6, 0, 0, 0])) = true := by decide +kernel

/-! ## Single steps: matrix unit, engines, advice -/

/-- Matrix mode held, a shape in TSHP. -/
def mm (tshp : Word) (f : Strand → Strand) : State :=
  let s := m0.setPCore 0 0 { m0.pcore 0 0 with holder := some 0 }
  s.setMe { f s.me with tshp := tshp }
def cellOf (s : State) (t : Acc) (row col : Nat) : Nat := Map.getD (s.coreOf 0).cells (cellKey t row col) 0

theorem test_tshape_manual : after (.tshape 5 6 7 16 0) ((m0.setPart 0 { m0.part 0 with g := 8 }).setMe { rs [(6, 0x4040), (7, 1000)] m0.me with vg := 3 })
    (fun t => decide (t.rS 5 = 0x1004040)) = true := by decide +kernel
theorem test_mop_fp32 : after (.mop ⟨0, 8, 9, false, false, 1, 1, 0⟩) (mm 0x10101 (vs 1 [(8, uni 1 0x40000000), (9, uni 1 0x40400000)])) (fun t =>
    decide (cellOf t 0 0 0 = 0x40C00000)) = true := by decide +kernel
theorem test_mmode_waits : (after (.mmodeEnter 1 0) m0 (fun t => decide ((t.pcore 0 0).holder = some 0))
    && after (.mmodeEnter 1 0) (m0.setPCore 0 0 { m0.pcore 0 0 with holder := some 3 }) (fun t => decide (t.me.run = .waiting .mmode))) = true := by decide +kernel
theorem test_ctwany : (after (.ctwany 3 4) (on (fun x => { rs [(4, 0b1100)] x with ctb := 0b1010 })) (fun t => decide (t.rS 3 = 3))
    && after (.ctwany 3 4) m0 (fun t => decide (t.rS 3 = -1)) && after (.ctwany 3 4) (ab 4 0) (fun t => decide (t.me.run = .waiting .tags))) = true := by decide +kernel
theorem test_binit_barr : after (.binit 4 5 true 0) (ab 64 12) (fun t => decide (barWord t (laneBase 0 + 64) = 12 * 2 ^ 31)
    && after (.barr 3 4 5 true 0) t (fun u => decide (barWord u (laneBase 0 + 64) = 2 ^ 63 + 12 * 2 ^ 31 ∧ u.rS 3 = BitVec.ofNat 64 (12 * 2 ^ 31)))) = true := by
  decide +kernel
theorem test_copy_moves_a_chunk : after (.copy 3 4 6 ⟨1, true, 1, true, 0, false, 3, 0, 2, true, false, 1, 5⟩) (lane (on (rs [(4, 0), (6, 64)])) 0 [9, 8, 7, 6]) (fun t =>
    decide (t.me.pendStat = 8) && after (.chunkWritten (t.fresh - 1)) t (fun u => decide (Memory.read u.mem (laneBase 0 + 65) = 8 ∧ u.me.m.get 1 = 1)
      && after (.transferComplete (t.fresh - 1)) { u with arbs := [] } (fun v => decide (v.rS 3 = 4 ∧ v.me.ctb = 4 ∧ v.me.pendStat = 0)))) = true := by decide +kernel

/-- An advice context bound to a pricking, running on core 0. -/
def ma : State := (m0.setPCore 0 0 { m0.pcore 0 0 with adv := { Advice.reset with bound := 1, run := .running } })
theorem test_aaddi_keeps_h0 : (after (.aaddi 1 0 5) ma (fun t => decide (t.adv.rH 1 = 5 ∧ t.adv.apc = 1)) && after (.aaddi 0 0 5) ma (fun t => decide (t.adv.rH 0 = 0))) = true := by
  decide +kernel
theorem test_ajmp_backwards : after (.ajmp (-6)) (m0.setPCore 0 0 { m0.pcore 0 0 with adv := { ma.adv with apc := 10 } }) (fun t => decide (t.adv.apc = 4)) = true := by
  decide +kernel

/-! ## Single steps: the machine around the strands -/

theorem test_fence_drains : after (.st (lm 4 3 false 16)) (ab 77 0) (fun t => after (.fence 0 1) t (fun u =>
    decide (u.me.stores = [] ∧ Memory.read u.mem (laneBase 0 + 16) = 77))) = true := by decide +kernel
theorem test_queue_config : after (.queueConfigWrite 0 2 1 0x00000000000A0003) m0 (fun t => decide (((t.vf 0).queue 2).coal = 10 ∧ ((t.vf 0).queue 2).prio = 3)) = true := by
  decide +kernel
theorem test_tha_sample : after (.thaSample 0 80 95 70 60) m0 (fun t => decide ((t.cluster 0).temp = 95 ∧ (t.cluster 0).ref = 2)) = true := by decide +kernel
theorem test_cold_reset : after .coldReset m0 (fun t => decide (t.parts = [] ∧ t.now = 0)) = true := by decide +kernel
theorem test_halves : after (.addHalf 3 4) (on (rs [(3, 5), (4, 6)])) (fun t => decide (t.rS 3 = 11)) = true := by decide +kernel

/-! ## Every hypothesis is met: scalar statements -/

def operands (s : State) (a b : Word) : Bool := decide (s.rS 4 = a ∧ s.rS 5 = b)

theorem witness_IntegerDivision : (operands (ab 7 0) 7 0 && operands (ab (BitVec.intMin 64) (-1)) (BitVec.intMin 64) (BitVec.allOnes 64) && operands (ab 7 1) 7 1) = true := by
  decide +kernel
theorem witness_BitCountsAndFields_fields : (0 : Fin 64).val + ((63 : Fin 64).val + 1) ≤ 64 ∧ (63 : Fin 64).val + ((0 : Fin 64).val + 1) ≤ 64 := by decide
theorem witness_BitCountsAndFields_illegal : (bits 0x0240C1C000001FC1 63 62 = 0 ∧ bits 0x0240C1C000001FC1 61 52 = 0x024
    ∧ 64 < bits 0x0240C1C000001FC1 11 6 + (bits 0x0240C1C000001FC1 5 0 + 1))
    ∧ bits 0x0250C1C000000FC1 61 52 = 0x025 ∧ 64 < bits 0x0250C1C000000FC1 11 6 + (bits 0x0250C1C000000FC1 5 0 + 1) := by decide
theorem witness_IntegerImmediates : (63 : BitVec 29).toNat < 64 ∧ (0 : BitVec 29).toNat < 64 := by decide
/-- m0 on a device whose function masks every feature. -/
def bare : State := { m0 with vfs := [(0, { placeVf with mask0 := 0 })] }
theorem witness_ScalarFloatArithmetic : (m0.rndAllowed 0 && m0.rndAllowed 5 && !bare.rndAllowed 5) = true := by decide +kernel
/-- The FP32 operands x and y. -/
def fp (x y : Word) : XV × XV := (fpRead (ab x y) (fpOf m0 1) 4, fpRead (ab x y) (fpOf m0 1) 5)
theorem witness_ScalarFloatTestsAndConversions : (let n := fp 0x7FC00000 0x7FC00000; let a := fp 0x7FC00000 0x3F800000; let b := fp 0x3F800000 0x7FC00000
    let l := fp 0x3F800000 0x40000000; let g := fp 0x40000000 0x3F800000; let z := fp 0x80000000 0; let y := fp 0 0x80000000
    n.1.isNan && n.2.isNan && a.1.isNan && !a.2.isNan && !b.1.isNan && b.2.isNan && ltX l.1 l.2 && !l.1.isNan && !l.2.isNan && ltX g.2 g.1
      && z.1.isZero && z.2.isZero && z.1.neg && !z.2.neg && y.1.isZero && y.2.isZero && !y.1.neg && y.2.neg
      && (let e := fp 0x3F800000 0x3F800000; eqX e.1 e.2 && !e.1.isZero) && (fmtOf m0.myPart.fmt 1).isSome && (fmtOf m0.myPart.fmt 31).isSome
      && (fmtOf m0.myPart.fmt 8).isSome) = true := by decide +kernel

/-- m0 with a continuation word at 0x80010. -/
def cont : State := m0.writeBytes 0x80010 (some placeKey) (leBytes 8 0xC000000000000000)
theorem witness_ControlTransfersAndYield : ((m0.checkTarget (m0.me.pc + 8 * (BitVec.signExtend 64 (-4 : BitVec 29)))).isNone
    && ((ab 0x90003 0).checkTarget ((ab 0x90003 0).rS 4 &&& ~~~7)).isNone && operands (ab 1 1) 1 1 && operands (ab (-1) 0) (-1) 0
    && decide (((on (fun x => { x with run := .waiting (.yield 0 [1]) })).strand 0 0).run = .waiting (.yield 0 [1]))
    && decide (((on (fun x => { x with run := .waiting (.yield 16 []) })).strand 0 0).run = .waiting (.yield 16 []))
    && decide (((on (fun x => { x with run := .waiting (.yield 16 [1]) })).strand 0 0).run = .waiting (.yield 16 [1]))) = true := by decide +kernel
theorem witness_BadTargetsTrap : (decide (2 ^ 55 ≤ (0x80000000000000 : Word).toNat) && decide ((ab 0x80000000000003 0).rS 4 &&& ~~~7 = 0x80000000000000)
    && okAnd (cont.fetchWord 0x80010) (fun r => decide (bits r.1 63 62 = 3)) && decide (cont.me.pc + 8 * (BitVec.signExtend 64 (2 : BitVec 29)) = 0x80010)
    && operands (ab 1 1) 1 1 && operands (ab (-1) 0) (-1) 0 && operands (ab 0 1) 0 1) = true := by decide +kernel

/-! ## Memory statements -/

/-- MemOp through s6 in VA space. -/
def vaState : State := on (rs [(4, 77), (6, 0x100000)])
theorem witness_LoadsComplete : (okAnd (vaState.load true (.cls 0) 0 false 0x100008 8) (fun r => decide (r.1.length = 8))
    && okAnd (vaState.drain.load false (.cls 0) 0 false 0x100008 8) (fun _ => true) && okAnd (m0.load true (.lit 4095) 1 true 0x7FFF8 8) (fun _ => true)
    && decide ((0x100004 : Word).toNat % 8 ≠ 0)) = true := by decide +kernel
/-- Offset a of lane memory holds nothing that stops a plain access of n bytes. -/
def laneFree (s : State) (a n : Nat) (write : Bool) : Bool := match lmPlace s.myPart s.cur.core true (BitVec.ofNat 64 a) n with
  | some da => (s.poisoned da n).isNone && (List.range n).all (fun i => (s.keyAt (da + i)).isNone)
    && (conflictOf s s.me.uid [⟨⟨da, none, true, false, 0⟩, n⟩] write).isNone
  | none => false
theorem witness_LoadsComplete_lane : (laneFree m0 0x7FFF8 8 false && decide (m0.me.stores = [])) = true := by decide +kernel
theorem witness_StoreThenLoadGivesTheValue : (laneFree m0 16 8 true && laneFree m0 0x7FFFF 1 true && decide ((16 : Word).toNat % 8 = 0)) = true := by decide +kernel
/-- Two buffered stores that do not overlap. -/
def buffered : State := on (fun x => { x with stores := [⟨cellsAt 100 [1, 2], .whole, none⟩, ⟨cellsAt 102 [3], .whole, none⟩] })
theorem witness_StoresCompleteAndPerform : (okAnd (permit vaState vaState.who vaState.me.uid true 0 false 0x100008 8 .write) (fun r => decide (r.1.length = 1))
    && okAnd (permit vaState.drain vaState.who vaState.me.uid false 0 false 0x100008 8 .write) (fun _ => true) && Memory.wf vaState.mem && Memory.wf buffered.mem
    && decide (((buffered.strand 0 0).stores[1]?).isSome) && ((buffered.strand 0 0).stores.take 1).all (fun q => !q.overlaps ⟨cellsAt 102 [3], .whole, none⟩)) = true := by decide +kernel

/-- A launch of one task, its flags given. -/
def launch0 (flags : Nat) : Launch :=
  { pid := 0, slot := 0, queue := 0, entry := 0x80000, n0 := 1, n1 := 1, n2 := 1, size := 1, z := 1, level := 1, flags := flags, stealk := 1, digest := 0, prick := 0
    fr := 4, sr := 0, doneAddr := 0, doneVal := 0, dists := [⟨0, [0], 0, 0⟩], units := [], retired := [], barReleased := [], syncs := false, acquires := [], started := []
    stopped := false, fenceFail := false, stopCause := 0 }
def task0 : Task := ⟨0, 1, 0, 0, 0, 0, 0, 0⟩
def entry0 (st : JState) (kind : Nat) (cmd : List Byte) : JEntry := ⟨1, 0, 0, 0, st, 0, 0, kind, 0, 0, 0, cmd, 0, 0, 0, [], none, none, false⟩
/-- Command 1 of function 0, and with it a launch. -/
def withEntry (s : State) (e : JEntry) : State := { s with vfs := [(0, { placeVf with journal := [(1, e)], seqNext := 2 })] }
def withLaunch (s : State) (l : Launch) : State := { withEntry s (entry0 .dispatched 1 []) with launches := [(lkey 0 1, l)] }
/-- m0 whose strand runs the task of a launch. -/
def inLaunch (flags : Nat) : State := let s := withLaunch m0 (launch0 flags); s.setMe { s.me with task := some task0 }

theorem witness_AtomicsComplete : (okAnd (permit vaState.drain vaState.who vaState.me.uid false 0 false 0x100008 8 .atomic) (fun r =>
      r.1.all (fun p => !isEndpoint p.loc.da)) && okAnd (permit m0.drain m0.who m0.me.uid false 1 true 16 4 .atomic) (fun r => r.1.all (fun p => !isEndpoint p.loc.da))
    && Memory.wf m0.mem && (inLaunch 1).inDet && !m0.inDet && Memory.wf (inLaunch 1).mem
    && okAnd (permit (inLaunch 1).drain (inLaunch 1).who (inLaunch 1).me.uid false 1 true 16 8 .atomic) (fun _ => true) && decide ((0x100004 : Word).toNat % 8 ≠ 0)) = true := by
  decide +kernel

/-! ## Synchronisation, marks, slack -/

/-- One participant waits at its first barrier of core scope. -/
def atBar : State := let s := inLaunch 0; s.setMe { s.me with barCore := 1, barIn := 2, run := .waiting (.barrier 1) }
theorem witness_FencesAndBarriers : (decide (m0.me.task = none) && decide ((inLaunch 0).me.task = some task0) && ((inLaunch 0).launchOf 0 1).isSome
    && decide ((inLaunch 0).me.barIn.testBit 1 = false ∧ atBar.me.barIn.testBit 1 = true ∧ 0 < atBar.me.barCount 1 ∧ atBar.me.barCount 1 ≤ 1)
    && decide ((withLaunch atBar { launch0 0 with barReleased := [(barKey 0 1 (barUnit 1 0), 1)] }).launchOf 0 1
      |>.any (fun l => decide (Map.getD l.barReleased (barKey 0 1 (barUnit 1 0)) 0 = 1)))
    && decide (atBar.participants 0 1 0 1 0 = [0] ∧ [0].Nodup) && atBar.arrivedAt 1 1 0 && decide ((inLaunch 0).participants 0 1 0 1 0 = [0]) && !(inLaunch 0).arrivedAt 1 1 0) = true := by
  decide +kernel
/-- Two strands of core 0 wait at the barrier, the second of them with identity 7; each is an agent with what it released. -/
def atBar2 : State :=
  let s := withLaunch (m0.setPart 0 { m0.part 0 with g := 2 }) (launch0 0)
  let y (uid : Nat) : Strand := { m0.me with task := some task0, barCore := 1, barIn := 2, run := .waiting (.barrier 1), uid := uid }
  { (s.setStrand 0 0 (y 6)).setStrand 0 1 (y 7) with agents := [(6, newStrandAgent 0 0 0), (7, { newStrandAgent 0 1 0 with region := 2, rel := #v[1, 0, 0, 0] })] }
theorem witness_FencesAndBarriers_acquire : (let s := atBar2
    let uid (p : Nat) : Nat := (s.strand (p / 8) (p % 8)).uid
    decide (s.participants 0 1 0 1 0 = [0, 1] ∧ ([0, 1] : List Nat).Nodup ∧ uid 0 = 6 ∧ uid 1 = 7 ∧ (s.strand 0 0).run = .waiting (.barrier 1))
      && s.arrivedAt 1 1 0 && s.arrivedAt 1 1 1
      && (match Map.get? s.agents 6, Map.get? s.agents 7 with
        | some a, some c => decide (c.isTransfer = false ∧ includesAgent 1 a c = true ∧ relAt c (levelOf a c) = 1) && [0, 1, 2, 3, 4].all (fun l => decide (relAt c l ≤ c.region))
        | _, _ => false)) = true := by decide +kernel
/-- A WAIT stands at the pc of a strand that waits for it. -/
def waitOp0 : WaitOp := ⟨5, 10, 6, 0, false, 2, 2, 0, 0⟩
def waiting : State := let s := m0.writeBytes 0x80000 (some placeKey) (leBytes 8 0x1220A28300028000)
  s.setMe { rs [(10, 0x100000), (6, 1)] s.me with run := .waiting (.mem 0x100000 4) }
theorem witness_WaitReadsUntilTheConditionHolds : (okAnd (permit waiting.drain waiting.who waiting.me.uid false 0 false 0x100000 4 .read) (fun r => decide (r.1.length = 1))
    && decide ((waiting.strand 0 0).run = .waiting (.mem 0x100000 4))
    && (let s1 := (waiting.wake 0 0).actAs 0 0
        okAnd (s1.fetchWord s1.me.pc) (fun r => reads r.1 0 (.one (.wait waitOp0) 8)))) = true := by decide +kernel
def fullMarks : Strand → Strand := fun x => { x with marks := List.replicate 64 ⟨1, 1, 0, 0, 0, 0⟩ }
theorem witness_MarksAndSlackState : (decide ((ma.pcore 0 0).adv.bound ≠ 0) && decide (ma.me.marks.length < 64) && decide ((ma.setMe (fullMarks ma.me)).me.marks.length = 64)
    && decide ((m0.pcore 0 0).adv.bound = 0) && decide (m0.tele.trace = none) && decide (m0.me.occ.length < 64 ∧ m0.me.occ.find? (fun c => c.1 = 5) = none)
    && (let x := (on (fun x => { x with occ := List.replicate 64 (1, 1) })).me; decide (x.occ.length = 64 ∧ x.occ.find? (fun c => c.1 = 5) = none ∧ (x.occ.find? (fun c => c.1 = 1)).isSome = true))
    && (let s : State := { m0 with tele := { m0.tele with trace := some (0, 0x100000, 2) } }
        decide (s.tele.trace = some (s.cur.pid, 0x100000, 2) ∧ s.tele.traceLen < 2 ∧ (2 : Nat) ≤ { s.tele with traceLen := 2 }.traceLen) && Memory.wf s.mem)) = true := by decide +kernel

/-! ## System instructions, traps, events -/

theorem witness_ControlRegistersReadAndWritten : (decide (m0.me.mcntId < 2 ^ 16) && decide ((m0.vf m0.myCtx.vfn).mask0.toNat / 256 ≠ 0)
    && decide ((bare.vf 0).mask0.toNat % 256 = 0) && decide ((m0.vf m0.myCtx.vfn).mask0.toNat % 256 ≠ 0) && m0.myLaunch.isNone && ((inLaunch 0).myLaunch.map (fun l => { l with fr := 0 })).any (fun l => decide (l.fr = 0)) && decide (m0.cur.core < 1024 ∧ m0.cur.strand < 8 ∧ m0.g < 16) && (match (inLaunch 0).myLaunch with
      | some l => decide (l.fr < 2 ^ 32 ∧ l.fr ≠ 0)
      | none => false)
    && decide (m0.me.mode = .user ∧ (on sup).me.mode = .supervisor) && decide ((5 : Nat) % 8 < 6 ∧ ¬(6 : Nat) % 8 < 6) && m0.feature 8 && fmtValueOk 0x3F000000030D3006
    && !fmtValueOk 0 && !bare.feature 8) = true := by decide +kernel
theorem witness_TrapsAreEnteredOrUnhandled : (decide (mt.me.mode = .user ∧ mt.myCtx.tvec ≠ 0 ∧ mt.cur.limit = none ∧ (on sup).cur.limit = none ∧ m0.cur.limit = none) && okAnd (resolve mt mt.who 0 false 0xA0000 128 .write) (fun r => decide (r.1.length = 1))
    && decide ((on sup).me.mode = .supervisor) && decide (m0.myCtx.tvec = 0 ∧ m0.me.task = none) && decide ((inLaunch 0).me.task = some task0)
    && okAnd (resolve mt mt.who 0 false 0xA0000 128 .write) (fun r => (piecesPoisoned r.2 r.1 .write).isNone) && decide (mt.myCtx.trec + BitVec.ofNat 64 (128 * mt.cur.strand) = 0xA0000)
    && decide (({ m0 with cur := { m0.cur with limit := some 3 } } : State).cur.limit = some 3)
    && ((inLaunch 0).launchOf 0 1).isSome && (Map.get? ((inLaunch 0).vf 0).journal 1).isSome) = true := by decide +kernel
/-- A supervisor strand whose record holds a return address. -/
def handler : State := let s := mt.writeBytes 0xA0008 (some placeKey) (leBytes 8 0x90000); s.setMe (sup s.me)
theorem witness_SupervisorInstructions : (decide (mt.me.mode = .user ∧ handler.me.mode = .supervisor)
    && okAnd (permit handler handler.who handler.me.uid true 0 false 0xA0000 0x50 .read) (fun r =>
      (r.2.checkTarget (BitVec.ofNat 64 (leNat (((loadPieces r.2 r.1).1.drop 8).take 8)) &&& ~~~7)).isNone)
    && (handler.checkTarget 0x90000).isNone && !handler.me.eventDue
    && (handler.setMe { handler.me with pendThermal := true, slkctl := 2 }).me.eventDue) = true := by decide +kernel
/-- m0 with a second core, where strand 0 holds a store. -/
def storing : State := (m0.setPart 0 { m0.part 0 with own := [(0, 0), (1, 0)] }).setStrand 1 0 { Strand.reset with stores := [⟨cellsAt 100 [1], .whole, none⟩] }
theorem witness_TranslationsAreInvalidated : (Map.sorted (on sup).strands && (on sup).strands.all (fun c => decide (c.1 = skey 0 0 ∨ c.2.stores = []))
    && (let s := storing.setMe { sup storing.me with run := .waiting .tlbi }
        decide (s.me.mode = .supervisor ∧ (s.strand 0 0).run = .waiting .tlbi ∧ (s.strand 1 0).stores ≠ [] ∧ ownerOf s.parts 1 0 = some s.cur.pid ∧ skey 1 0 ≠ skey 0 0)
          && (Map.get? s.strands (skey 1 0)).isSome && Map.sorted s.strands) && decide ((on sup).me.mode = .supervisor) && decide (((on (fun x => { x with run := .waiting .tlbi })).strand 0 0).run = .waiting .tlbi)
    && (on (fun x => { x with run := .waiting .tlbi })).strands.all (fun c => decide (c.2.stores = []))) = true := by decide +kernel
/-- A transfer of the partition holds part of a block. -/
def holding : State := { on (fun x => { sup x with run := .waiting .tlbi }) with
  xfers := [(5, ⟨0, 0, 0, 0, none, ⟨1, true, 1, true, 10, true, 3, 0, 2, true, false, 1, 5⟩, 0, 0, 0, 0, false, none, [], [], [], 0, 0, 0, 0, 0, none, 0, false, [], none, [], false,
    [⟨0, 4, 0, 0, ⟨cellsAt 100 [1], .whole, none⟩⟩], []⟩)] }
theorem witness_TranslationsAreInvalidated_held : (decide (m0.xfers = []) && holding.xfers.all (fun c => decide (c.2.held ≠ [] ∧ c.2.pid = holding.cur.pid))
    && decide (holding.xfers.length = 1 ∧ (holding.strand 0 0).run = .waiting .tlbi)) = true := by decide +kernel
/-- A user strand with a pending enabled event and a handler. -/
def eventState : State := mt.setMe { mt.me with pendThermal := true, slkctl := 2 }
def halted : State := on (fun x => { x with run := .halted })
theorem witness_EventsAreTakenAndAcknowledged : (decide ((0x28 : BitVec 8).toNat = cSLACKEX ∧ (0x29 : BitVec 8).toNat = cTHERMAL) && decide ((halted.strand 0 0).run = .halted ∧ (halted.strand 0 0).task = none)
    && decide ((m0.strand 0 0).run ≠ .halted)
    && (let x := eventState.strand 0 0
        let s1 := (eventState.wake 0 0).actAs 0 0
        let s2 := ({ s1 with cur := { s1.cur with word := BitVec.ofNat 64 s1.peekWord } } : State).leaveQueue
        decide (x.mode = .user ∧ x.run.live = true ∧ (x.pendThermal && x.slkctl.testBit 1) = true ∧ s1.myCtx.tvec ≠ 0)
          && okAnd (resolve s2 s1.who 0 false s1.recordVa 128 .write) (fun r => decide (r.1.length = 1) && (piecesPoisoned r.2 r.1 .write).isNone))) = true := by decide +kernel
/-- Strand 0 has loaded into s3, and a reply of data is on its way to it. -/
def inFlight0 : State := { eventState with
  flights := [(skey 0 0, ⟨eventState.me, [3], [], 0, [], 0, 0, 0⟩)]
  arbs := [(8, ⟨[(0, [[⟨0, 5, 0, false, 0, 0, 0, 0, eventState.me.uid, .data, 8⟩]])], 1, []⟩)] }
/-- A load under way is squashed; one of another task, or one whose replies have all come, is not. A stopped launch keeps its strand halted. -/
theorem witness_EventsAreTakenAndAcknowledged_squash : (let s := inFlight0
    (Map.get? s.flights (skey 0 0)).any (fun f => decide (f.x.uid = (s.strand 0 0).uid ∧ (3 : SReg) ∈ f.sw)) && s.awaitsData (s.strand 0 0)
      && !eventState.awaitsData (eventState.strand 0 0) && (Map.get? eventState.flights (skey 0 0)).isNone
      && (let z := s.squash 0 0
          let x := z.strand 0 0
          decide (x.mode = .user ∧ x.run.live = true ∧ (x.pendThermal && x.slkctl.testBit 1) = true)
            && okAnd (resolve (z.actAs 0 0) (z.actAs 0 0).who 0 false (z.actAs 0 0).recordVa 128 .write) (fun r => decide (r.1.length = 1)))
      && (let l := withLaunch m0 { launch0 0 with stopped := true }
          let h := l.setMe { l.me with task := some task0, run := .halted }
          decide ((h.strand 0 0).run = .halted ∧ (h.strand 0 0).task = some task0) && (h.launchOf 0 1).any (·.stopped))) = true := by decide +kernel

/-! ## Context images -/

/-- An image that holds no core (chapter 20): magic, version 1, flag EMPTY, 5,120 bytes, one lane group. -/
def emptyImage : List Byte := leBytes 4 0x00584748 ++ leBytes 2 1 ++ leBytes 2 1 ++ leBytes 8 5120 ++ leBytes 6 0 ++ [1]
/-- Slot 1 is a second context, its save area at 0x200000 holding a saved image. -/
def saved (bs : List Byte) (n : Nat) : State :=
  let s := m0.setPart 0 { m0.part 0 with ctxs := [(0, placeCtx), (1, { placeCtx with save := 0x200000, slice := 10 })] }
  (s.writeBytes (pkgAddr 0x200000) s.fwKey bs).setMe { rs [(4, 0x300000), (5, BitVec.ofNat 64 n)] s.me with mode := .supervisor }
/-- The same image stands at s4 too. -/
def imageAt (bs : List Byte) : State := (saved emptyImage 1).writeBytes 0x300000 (some placeKey) bs
/-- Every byte of the pieces is plaintext, or written under the material it is read with; beyond 24 bytes nothing is listed. -/
def plain (s : State) (ps : List Piece) : Bool := ps.all (fun p =>
  s.memKey.all (fun c => !decide (p.loc.da / 64 ≤ c.1 ∧ c.1 ≤ (p.loc.da + p.n) / 64) || decide (p.loc.mat = some c.2))
    && s.mem.all (fun c => !decide (p.loc.da + 24 ≤ c.1 ∧ c.1 < p.loc.da + p.n)))
/-- What such pieces read as. -/
def bytesAt (s : State) (ps : List Piece) : List Byte :=
  ps.flatMap (fun p => Memory.readN s.mem p.loc.da (Nat.min 24 p.n) ++ List.replicate (p.n - 24) 0)
theorem test_plain_bytes (s : State) (ps : List Piece) (h : plain s ps = true) : readPieces s ps = (bytesAt s ps, s) := by
  have hp := fun p hp => Bool.and_eq_true_iff.1 (List.all_eq_true.1 h p hp)
  have hb : bytesAt s ps = ps.flatMap (fun p => Memory.readN s.mem p.loc.da p.n) := by
    simp only [bytesAt, List.flatMap_def]
    refine congrArg _ (List.map_congr_left (fun p hm => ?_))
    have hz := (hp p hm).2
    have key : ∀ n, (∀ c ∈ s.mem, ¬(p.loc.da + 24 ≤ c.1 ∧ c.1 < p.loc.da + n)) →
        Memory.readN s.mem p.loc.da (min 24 n) ++ List.replicate (n - 24) 0 = Memory.readN s.mem p.loc.da n := fun n hu => by
      by_cases hn : 24 ≤ n
      · obtain ⟨k, rfl⟩ := Nat.exists_eq_add_of_le hn
        rw [Nat.min_eq_left hn, Nat.add_sub_cancel_left, Memory.readN_add,
          Memory.readN_unlisted (a := p.loc.da + 24) (fun c hc => by have := hu c hc; omega)]
      · rw [Nat.min_eq_right (by omega), Nat.sub_eq_zero_of_le (by omega)]
        exact List.append_nil _
    exact key p.n (fun c hc => by have := List.all_eq_true.1 hz c hc; simp at this; omega)
  rw [hb]
  refine readPieces_plain s ps (fun p hm i hi => ?_)
  match hk : Map.get? s.memKey ((p.loc.da + i) / 64) with
  | none => exact .inl hk
  | some k =>
    have := List.all_eq_true.1 (hp p hm).1 _ (Map.mem_of_get? hk)
    simp at this
    exact .inr (hk.trans (this.resolve_left (by omega)).symm)
/-- What CTXLOAD finds out about the image at s4, if it can be read. -/
def loads (s : State) (f : List Byte → List Byte → Bool) : Bool := okAnd (admitBlocks s.drain .read (imageBlocks 0x300000 4096)) (fun r =>
  plain r.2 r.1 && (let head := bytesAt r.2 r.1
    if headOk s.myPart (s.vf 0) head then
      okAnd (admitBlocks r.2 .read (imageBlocks 0x300000 (imgSize head))) (fun q => plain q.2 q.1 && f head (bytesAt q.2 q.1))
    else f head []))
theorem witness_ContextImagesAreCopied_slots : (decide ((saved [] 64).rS 5 = 64 ∧ (saved [] 0).myPart.running = some 0 ∧ (saved [] 1).me.mode = .supervisor)
    && decide (((0x300001 : Word)).toNat % 4096 ≠ 0) && Memory.wf (saved emptyImage 1).mem
    && okAnd (admitBlocks (saved emptyImage 1).drain .write (imageBlocks 0x300000 (imgSize ((saved emptyImage 1).readSave ((saved emptyImage 1).myPart.ctxAt 1) 16).1)))
      (fun r => decide (r.1.length = 2))) = true := by decide +kernel
theorem witness_ContextImagesAreCopied_malformed : loads (imageAt []) (fun head _ => !headOk m0.myPart placeVf head) = true := by decide +kernel
theorem witness_ContextImagesAreCopied_records : loads (imageAt (emptyImage.set 9 0x15)) (fun _ image => !recordsOk m0.myPart image) = true := by decide +kernel
theorem witness_ContextImagesAreCopied_missing : loads { imageAt (emptyImage.set 17 1) with vfs := [(0, { placeVf with mask0 := 0 })] } (fun _ image =>
    recordsOk m0.myPart image && decide (featMissing { placeVf with mask0 := 0 } image ≠ 0)) = true := by decide +kernel
theorem witness_ContextImagesAreCopied_loads : loads (imageAt emptyImage) (fun _ image => recordsOk m0.myPart image && decide (featMissing placeVf image = 0)) = true := by
  decide +kernel

/-! ## Vector statements -/

/-- The operands are admitted, no stop comes up, and no stream is bound to the destination. -/
def prepOk (s : State) (cap : Nat) (gs : List Opd) (od : Option Opd) (ws : List Want) (bad : Bool := false) : Bool :=
  okAnd (s.prep s.me cap gs od ws bad) (fun p => p.stop.isNone) && od.all (fun o => decide (slotsIn s.me.streams [o] = []))
/-- The group of one register at b, elements of sz bits. -/
def grp (s : State) (b sz ref : Nat) : Opd := (s.opd b sz ref).getD ⟨0, 0, 0, 0⟩
def has (s : State) (l : List (Nat × Nat × Nat)) : Bool := l.all (fun c => (s.opd c.1 c.2.1 c.2.2).isSome)
def noStreams (s : State) : Bool := (List.range 4).all (fun k => (streamAt s.me.streams k).isNone)
/-- d = v8, a = v9, b = v10 in one format of arity 1. -/
def elementOk (s : State) (fmt sz : Nat) (useD : Bool) : Bool :=
  let gs := [grp s 9 sz sz, grp s 10 sz sz] ++ if useD then [grp s 8 sz sz] else []
  has s [(8, sz, sz), (9, sz, sz), (10, sz, sz)] && prepOk s (s.cap sz) gs (some (grp s 8 sz sz)) (gs.map (fun g => g.want fmt 0))
def three (fmt w : Nat) : State := on (vs 4 [(8, gen fmt w [1, 1, 1, 1]), (9, gen fmt w [1, 2, 3, 4]), (10, gen fmt w [1, 2, 3, 0])])

theorem witness_VectorOperandChecks : (let s := two
    s.rndAllowed 0 && decide (0 < s.size 9 0 ∧ s.me.vg < 4 ∧ s.cur.limit = none) && noStreams s && decide ((9 : Nat) % (two.setMe { two.me with vg := 1 }).vgroup ≠ 0)
      && decide (s.cap 32 < (on (vs 65 [])).me.vl) && decide (s.me.vl ≤ s.cap 32 ∧ 9 % s.vgroup = 0) && decide ((vget s.me.v 9).format = 9 ∧ (vget s.me.v 9).arity = 0)
      && decide ((vget s.me.v 9).shape ≠ .undef ∧ (vget s.me.v 9).format ≠ 1)
      && decide ((vget (on (vs 2 [(9, { gen 9 32 [1, 2] with arity := 1 })])).me.v 9).arity = 1)) = true := by decide +kernel
theorem witness_VectorOperandChecks_multi : (let s := three 9 32
    let a (k : Nat) : VReg := { gen 9 32 [1, 2, 3, 4] with arity := 1, alg := k }
    let t := on (vs 2 [(8, a 1), (9, a 1), (10, a 2)])
    [9, 10, 8].all (fun r => decide ((vget s.me.v r).shape ≠ .undef ∧ (vget s.me.v r).format = 9 ∧ (vget s.me.v r).arity = 0 ∧ (vget s.me.v r).alg = 0)) && decide (s.me.vl ≤ s.cap 32)
      && decide (64 < s.size 9 2 ∧ 0 < s.size 9 2 ∧ 8 % s.vgroup = 0 ∧ 9 % s.vgroup = 0 ∧ 10 % s.vgroup = 0)
      && decide (t.me.vl ≤ t.cap 64 ∧ (vget t.me.v 10).format = 9 ∧ (vget t.me.v 10).arity = 1 ∧ (vget t.me.v 10).alg ≠ (vget t.me.v 9).alg)) = true := by decide +kernel
theorem witness_ElementwiseInstructionsComplete : (two.rndAllowed 0 && elementOk (three 9 32) 9 32 true && elementOk (three 1 32) 1 32 true && elementOk (three 63 64) 63 64 false
    && has m0 [(9, 32, 32)] && prepOk (three 1 32) ((three 1 32).cap 32) [grp m0 9 32 32] (some (grp m0 8 32 32)) [(grp m0 9 32 32).want 1 0]
    && (m0.bSource m0.me (.s 4) .plain 32 32).isSome) = true := by decide +kernel
theorem witness_LaneFunctions : decide ((venv m0 m0.me 9 0).f = .int true 32 ∧ (venv m0 m0.me 13 0).f = .int false 32 ∧ (0xFFFFFFFF : Nat) < 2 ^ 32) = true := by decide +kernel
theorem witness_VectorConfiguration : (decide ((4 : Fin 8).val < 5 ∧ ¬(5 : Fin 8).val < 5) && has m0 [(8, 32, 32), (8, 64, 64)] && prepOk two (two.cap 32) [] (some (grp m0 8 32 32)) []
    && m0.feature 10 && prepOk two (two.cap 32) [grp m0 9 32 32] none [(grp m0 9 32 32).want 9 0]
    && prepOk two two.me.vl [grp m0 9 32 32] (some (grp m0 8 32 32)) []
    && prepOk two (two.cap 32) [grp m0 9 32 32] (some (grp m0 8 32 32)) [{ (grp m0 9 32 32).want 9 0 with loose := true }]
    && decide ((vget m0.me.v 9).shape = .undef ∧ (vget (on (vs 1 [(9, uni 9 5)])).me.v 9).shape = .uniform ∧ (vget two.me.v 9).shape = .general)) = true := by decide +kernel
/-- VMWIDE: I32 with I8; VDOT: I8 pairs into I32; VCVT: I32 to FP32. -/
def mixed : State := on (vs 2 [(8, gen 9 32 [1, 2]), (9, gen 9 32 [1, 2]), (10, gen 11 8 [3, 4]), (11, gen 11 8 [1, 2, 3, 4, 5, 6, 7, 8]), (12, gen 63 8 [1, 0])])
theorem witness_WideDotSelectConvert : (has mixed [(8, 32, 32), (9, 32, 32), (10, 8, 32), (11, 8, 8), (12, 8, 8)] && mixed.rndAllowed 0 && mixed.feature 10
    && (mixed.bSource mixed.me (.v 10) .plain 8 32).isSome && (mixed.bSource mixed.me (.v 10) .plain 8 8).isSome
    && prepOk mixed (mixed.cap 32) [grp mixed 9 32 32, grp mixed 10 8 32] (some (grp mixed 8 32 32)) [(grp mixed 9 32 32).want 9 0, (grp mixed 10 8 32).want 11 0]
    && prepOk mixed (mixed.cap 32) [grp mixed 11 8 8, grp mixed 10 8 8, grp mixed 8 32 32] (some (grp mixed 8 32 32))
      [(grp mixed 8 32 32).want 9 0, (grp mixed 11 8 8).want 11 0, (grp mixed 10 8 8).want 11 0]
    && prepOk (three 9 32) (m0.cap 32) [grp m0 9 32 32, grp m0 8 32 32, grp m0 10 32 32] (some (grp m0 8 32 32)) [(grp m0 8 32 32).want 9 0, (grp m0 10 32 32).want 9 0]
    && prepOk mixed (mixed.cap 32) [grp mixed 9 32 32] (some (grp mixed 8 32 32)) [(grp mixed 9 32 32).want 9 0]) = true := by decide +kernel
theorem witness_VectorComparisons : (has m0 [(9, 32, 32), (10, 32, 32)] && prepOk (three 1 32) (m0.cap 32) [grp m0 9 32 32, grp m0 10 32 32] none
      [(grp m0 9 32 32).want 1 0, (grp m0 10 32 32).want 1 0] && prepOk (three 1 32) (m0.cap 32) [grp m0 9 32 32] none [(grp m0 9 32 32).want 1 0]) = true := by decide +kernel
theorem witness_MaskInstructions : (decide ((on (fun x => { x with vl := 4 })).me.vl = 4) && (List.range 4).all (fun e => !(m0.me.m.get 1).testBit e)
    && ((on (fun x => { x with vl := 4, m := x.m.set 1 8 })).me.m.get 1).testBit 3) = true := by decide +kernel
theorem witness_ReductionsAndRecurrences : (decide ¬(isFloatCode 9 = true ∧ m0.rmode 0 = .sr) && decide ¬(isFloatCode 1 = true ∧ m0.rmode 0 = .sr)
    && prepOk (three 9 32) (m0.cap 32) [grp m0 9 32 32] none [(grp m0 9 32 32).want 9 0] && prepOk (three 1 32) (m0.cap 32) [grp m0 9 32 32] none [(grp m0 9 32 32).want 1 0]
    && prepOk (three 9 32) (m0.cap 32) [grp m0 9 32 32] (some (grp m0 8 32 32)) [(grp m0 9 32 32).want 9 0] && elementOk (three 9 32) 9 32 false
    && decide ((three 9 32).me.vl < 2 ^ 16) && decide ((three 1 32).fmtC 1 = .flt 8 23)) = true := by decide +kernel
theorem witness_ElementsMove : (prepOk two (m0.cap 32) [grp m0 9 32 32] (some (grp m0 8 32 32)) [(grp m0 9 32 32).want 9 0] && m0.feature 11
    && isIntCode (vget two.me.v 10).format && (two.opd 10 (two.width (vget two.me.v 10).format) 32).isSome
    && prepOk two (m0.cap 32) [grp m0 9 32 32, grp m0 10 32 32] (some (grp m0 8 32 32)) [(grp m0 9 32 32).want 9 0, (grp m0 10 32 32).want 9 0]) = true := by decide +kernel
/-- Complex numbers: the table of chapter 3 for arity 2 in ALG1. -/
def complexTable : List Byte := [0x08, 0x09, 0, 0, 0, 0, 0, 0, 0x09, 0x18] ++ List.replicate 54 0 ++ [1, 2] ++ List.replicate 62 0
/-- FP32, FP16 and an unsigned FMT0; the two terms of component 0 of a complex product are finite, and component 3 has none. -/
theorem witness_LaneFunctions_rounded : (let E := venv m0 m0.me 1 0
    let unsigned : Fmt := .nar 0x3F800000070A4008
    decide (E.f.isInt = false ∧ (venv m0 m0.me 2 0).f.isInt = false ∧ unsigned.isInt = false ∧ unsigned.signBit = none ∧ E.f.signBit = some 31)
      && (algOf complexTable).any (fun t =>
        let used (k : Nat) : List (Nat × Nat) := (List.range 2).flatMap (fun i => ((List.range 2).filter (fun j => decide ((t.entry i j).1 = k) && decide ((t.entry i j).2 ≠ 0))).map (fun j => (i, j)))
        decide (used 0 ≠ [] ∧ used 3 = [])
          && (used 0).all (fun q => match (mulX (E.read (comp 32 q.1 0x3F8000003F800000)) (E.read (comp 32 q.2 0x3F8000003F800000))).1 with
            | .fin _ _ d false => decide (0 < d)
            | _ => false))) = true := by decide +kernel
/-- v9 and v10 hold elements of arity 2 tagged with an algebra. -/
def pairsState (alg : Nat) : State := on (vs 2 [(8, { gen 1 64 [0, 0] with arity := 1, alg := alg }), (9, { gen 1 64 [1, 2] with arity := 1, alg := alg }),
  (10, { gen 1 64 [3, 4] with arity := 1, alg := alg })])
theorem witness_AlgebraElements : (let s := pairsState 1
    let g (n : Nat) := grp s n 64 64
    s.feature 11 && has s [(8, 64, 64), (9, 64, 64), (10, 64, 64), (8, 32, 64)] && (s.bSource s.me (.v 10) .plain 64 64).isSome
      && prepOk s (s.cap 64) [g 9, g 10] (some (g 8)) [(g 9).want 1 1, (g 10).want 1 1] && prepOk s (s.cap 64) [g 9] (some (g 8)) [(g 9).want 1 1]
      && prepOk s (s.cap 64) [g 9] (some (grp s 8 32 64)) [(g 9).want 1 1] && (tableFor s 1 1).isNone
      && (tableFor (s.setPart 0 { s.part 0 with alg := (s.part 0).alg.set 1 (algOf complexTable) }) 1 1).isSome) = true := by decide +kernel

/-! ## Vector memory statements -/

/-- s20 = 64; v9 indices of I32, v8 elements of I32. -/
def vmState : State := on (fun x => vs 2 [(8, gen 9 32 [5, 6]), (9, gen 9 32 [0, 8])] (rs [(20, 64), (21, 4)] x))
/-- Every element of the access finds free lane memory. -/
def laneElems (o : VMem) (mode : AddrMode) (isStore : Bool) (s : State) : Bool := okAnd (vmSetup o mode isStore s.me s) (fun u =>
  u.p.stop.isNone && (List.range s.me.vl).all (fun e => laneFree s (u.nib e / 2).toNat (s.size o.fmt.val o.ar.val / 8) isStore))
/-- The elements run to their end. -/
def runs (o : VMem) (mode : AddrMode) (s : State) (s0 : State → State) (f : VMem → VSetup → Nat → Nat → State → Except Stop ElemRes) : Bool :=
  okAnd (vmSetup o mode false s.me s) (fun u => u.p.stop.isNone && decide (slotsIn s.me.streams [u.od] = [])
    && (u.run u.p s.me o.p (f o u (s.size o.fmt.val o.ar.val)) (s0 u.p.s)).stop.isNone)
theorem witness_VectorLoadsComplete : (runs (vmem 8 20 (.s 0) 1 9) .unit vmState id loadElem && runs (vmem 8 20 (.s 21) 1 9) .stride vmState id loadElem
    && runs (vmem 8 20 (.v 9) 1 9) .index vmState id loadElem && runs (vmem 8 20 (.v 9) 0 9) .index gatherState id (fun o u sz e t => match loadElem o u sz e t with
      | .ok r => .ok r
      | .error c => if softStop c then .ok ⟨none, true, [], t⟩ else .error c)
    && runs { vmem 8 20 (.s 0) 1 9 with acq := true, p := 1 } .unit vmState (fun t => (t.syncVec vmState.me 1 1).chunkClose vmState.me 1) loadElem
    && runs { vmem 8 20 (.v 9) 1 9 with acq := true, scope := 2 } .index vmState (fun t => t.syncVec vmState.me 0 2) gatherElem
    && runs (vmem 8 20 (.s 0) 1 9) .unit vmState (fun t => t.syncVec vmState.me 0 0) (fun o u sz e t => match alignStop t o.sp.val o.loc (u.nib e) sz .read with
      | some c => .error c
      | none => match t.elemLoad false o.sp.val o.loc (u.nib e) sz with
        | .error c => .error c
        | .ok (v, ps, t1) => .ok ⟨some v, false, ps, t1⟩)) = true := by decide +kernel
theorem witness_VectorLoadsComplete_lane : (laneElems (vmem 8 20 (.s 0) 1 9) .unit false vmState && laneElems (vmem 8 20 (.s 21) 1 9) .stride false vmState
    && laneElems (vmem 8 20 (.v 9) 1 9) .index false vmState && noStreams vmState && decide (vmState.me.stores = [] ∧ vmState.cur.limit = none)) = true := by decide +kernel
theorem witness_VectorStoresComplete_lane : (laneElems (vmem 8 20 (.s 0) 1 9) .unit true vmState && laneElems (vmem 8 20 (.s 21) 1 9) .stride true vmState
    && laneElems (vmem 8 20 (.v 9) 1 9) .index true vmState && noStreams vmState && decide (vmState.inDet = false ∧ vmState.cur.limit = none)) = true := by decide +kernel
theorem witness_VectorStoresComplete : (
    let plain (mode : AddrMode) (b : BSrc) : Bool := okAnd (vmSetup (vmem 8 20 b 1 9) mode true vmState.me vmState) (fun u => u.p.stop.isNone
      && (u.run u.p vmState.me 0 (fun e t => match t.elemStore 1 true (u.nib e) 32 (u.od.get u.p.v e) (u.fullBlocks vmState.me 0 32 e) with
        | .error c => .error c
        | .ok (ps, t1) => .ok ⟨none, false, ps, t1⟩) (u.p.s.setMe { u.p.s.me with stores := [] })).stop.isNone)
    let scadd (fmt : Fin 64) (s : State) : Bool := okAnd (vmSetup (vmem 8 20 (.v 9) 1 fmt) .index true s.me s) (fun u =>
      decide ((scaddCollect (vmem 8 20 (.v 9) 1 fmt) u s.me (venv s s.me fmt.val 0) 32 2 0 [] 0 u.p.s.drain).2.2.2 = none))
    plain .unit (.s 0) && plain .stride (.s 21) && plain .index (.v 9) && scadd 9 vmState
      && scadd 1 (vmState.setMe (vs 2 [(8, gen 1 32 [5, 6])] vmState.me)) && isFpCode 1 && decide (m0.rmode 0 ≠ .sr ∧ m0.rmode 5 = .sr) && (inLaunch 1).inDet
      && okAnd (vmSetup (vmem 8 20 (.s 0) 1 9) .unit true vmState.me vmState) (fun u => u.p.stop.isNone && decide (8 ≤ 32)
        && (List.range 2).all (fun e => okAnd (permit (u.p.s.syncVec vmState.me 0 0) vmState.who vmState.me.uid false 1 true (BitVec.ofInt 64 (u.nib e / 2)) 4 .write) (fun _ => true)))) = true := by
  decide +kernel
/-- Every addend of VSCADD finds free lane memory; two of them meet at one place or none of their bytes do. -/
def scaddLane (o : VMem) (rnd : Nat) (s : State) : Bool :=
  let n := s.size o.fmt.val o.ar.val / 8
  decide (s.rmode rnd ≠ .sr ∧ s.cur.limit = none ∧ s.me.stores = [] ∧ o.sp.val = 1 ∧ 1 ≤ n) && Memory.wf s.mem && noStreams s
    && okAnd (vmSetup o .index true s.me s) (fun u =>
      let at_ (e : Nat) : Nat := (lmPlace s.myPart s.cur.core o.loc (BitVec.ofInt 64 (u.nib e / 2)) n).getD 0
      (List.range s.me.vl).all (fun e => (lmPlace s.myPart s.cur.core o.loc (BitVec.ofInt 64 (u.nib e / 2)) n).isSome && (s.poisoned (at_ e) n).isNone
        && (List.range n).all (fun j => (s.keyAt (at_ e + j)).isNone)
        && (List.range s.me.vl).all (fun f => decide ((u.nib e = u.nib f ∧ at_ e = at_ f) ∨ (u.nib e ≠ u.nib f ∧ (at_ e + n ≤ at_ f ∨ at_ f + n ≤ at_ e))))))
theorem witness_VectorStoresComplete_scadd : (scaddLane (vmem 8 20 (.v 9) 1 9) 0 vmState
    && scaddLane (vmem 8 20 (.v 9) 1 9) 0 (vmState.setMe (vs 2 [(9, gen 9 32 [8, 8])] vmState.me))
    && scaddLane (vmem 8 20 (.v 9) 1 1) 0 (vmState.setMe (vs 2 [(8, gen 1 32 [0x3F800000, 0x3F800000])] vmState.me)) && !vmState.inDet) = true := by decide +kernel
/-- The area at 64 is free lane memory from where the instruction goes on. -/
def areaFree (write : Bool) (s : State) : Bool :=
  let nw := 4 * s.lanes
  decide (s.me.vg < 4 ∧ 8 % s.vgroup = 0 ∧ s.cur.limit = none ∧ (s.rS 20).toNat % 64 = 0 ∧ s.me.stores = [] ∧ s.vgroup * nw ≤ 32) && noStreams s
    && laneFree s 64 64 write && (List.range (s.vgroup * nw)).all (fun k => laneFree s (64 + 64 + 8 * k) 8 write)
theorem witness_SpillsAndFills_lane : (let later := vmState.setMe { vmState.me with vsx := 3 }
    areaFree true vmState && areaFree false vmState && areaFree true later && areaFree false later && decide (vmState.me.vsx = 0 ∧ later.me.vsx ≠ 0)
      && (let tag := leNat (Memory.readN vmState.mem (laneBase 0 + 64) 4)
          isCode (bits tag 5 0) && decide (bits tag 28 16 ≤ vmState.perReg (vmState.size (bits tag 5 0) (bits tag 11 10))))
      && decide ((vget later.me.v 8).shape ≠ .undef ∧ (vget later.me.v 7).shape = .undef)) = true := by decide +kernel
theorem witness_SpillsAndFills : (let o := vmem 8 20 (.s 0) 1 0
    let s := vmState
    let base := s.rS 20
    let group : Opd := ⟨8, 1, s.perReg 8, 8⟩
    let nw := 4 * s.lanes
    decide ((9 : Nat) % (s.setMe { s.me with vg := 1 }).vgroup ≠ 0) && decide (8 % s.vgroup = 0 ∧ base.toNat % 64 = 0 ∧ s.me.vsx = 0 ∧ (65 : Word).toNat % 64 ≠ 0)
      && okAnd (permit s s.who s.me.uid true 1 true base 64 .write) (fun r => decide ((spillWords o base (fun _ => 0) nw 0 r.1 r.2).2.2 = none))
      && okAnd (permit s s.who s.me.uid true 1 true base 64 .read) (fun r => (fillReg s 0 0).isSome && decide ((fillWords o base group nw nw 0 r.1 (loadPieces r.2 r.1).2).2.2 = none))
      && (fillReg s 0x168 0).isNone) = true := by decide +kernel
/-- A read binding of v8 in slot 0. -/
def bound8 : Stream := ⟨8, false, 1, true, 64, 16, 4, 2, 9, 0, 0, 0, false, 0⟩
theorem witness_SpillsAndFills_bound : (let group : Opd := ⟨8, 1, m0.perReg 8, 8⟩
    decide (group.has bound8.reg.val = true ∧ bound8.dir = false ∧ { bound8 with dir := true }.dir = true) && noStreams vmState && decide (8 % vmState.vgroup = 0)) = true := by decide +kernel
def bindOp0 : BindOp := ⟨8, 20, 21, 1, true, false, 9, 0, 3, 2, 0⟩
theorem witness_StreamsAreBoundAndPass : (has vmState [(8, 32, 32)] && noStreams vmState && decide (slotsIn vmState.me.streams [grp m0 8 32 32] = [])
    && decide (4 ≤ vmState.cap 32 ∧ vmState.cap 32 < 4096)
    && (let s := vmState.setMe { vmState.me with streams := #v[some bound8, some bound8, some bound8, some bound8] }
        (List.range 4).all (fun k => (streamAt s.me.streams k).isSome) && decide (slotsIn s.me.streams [grp m0 8 32 32] ≠ [])
          && okAnd (resolve s s.who 1 true (BitVec.ofInt 64 (bound8.nib (s.size 9 0) 0 0 / 2)) 1 .read) (fun _ => true))
    && decide (bound8.pos + bound8.fetched < bound8.count ∧ bound8.dir = false ∧ 0 < bound8.clen) && decide ((2 : Nat) ≤ { bound8 with pos := 2 }.pos)
    && decide (8 % vmState.vgroup = 0 ∧ 9 % (vmState.setMe { vmState.me with vg := 1 }).vgroup ≠ 0)) = true := by decide +kernel

/-! ## Matrix statements -/

def core0 (s : State) : PCore := s.pcore s.cur.pid s.cur.core
theorem witness_MatrixModeIsHeldByOneStrand : (Map.sorted (m0.coreOf 0).cells && !bare.feature 9 && m0.feature 9
    && decide ((core0 (mm 0 id)).holder = some 0 ∧ (core0 m0).holder = none ∧ (core0 m0).mmWait = [])
    && decide ((m0.setPCore 0 0 { core0 m0 with holder := some 3 }).pcore 0 0).holder.isSome
    && decide (((m0.setPCore 0 0 { core0 m0 with mmWait := [0] }).pcore 0 0).holder = none)) = true := by decide +kernel
theorem witness_TileShapesAreGranted : (let m (s : State) : Nat := min ((s.rS 4).toNat % 256) (8 * s.g / 1)
    decide (m m0 = 0 ∧ m (ab 0x4040 1000) = 8 ∧ min ((ab 0x4040 1000).rS 5).toNat (m0.vgroup * m0.lanes * 256 / 32 / 64) < 2 ^ 32)) = true := by decide +kernel

/-- The hypotheses of an outer product. -/
def mopOk (o : MopOp) (s : State) : Bool :=
  let c := 2 ^ o.ar.val
  let w := s.width o.fmta.val
  let M := tshpM s.me.tshp
  let N := tshpN s.me.tshp
  let K := tshpK s.me.tshp
  let cap := s.vgroup * s.lanes * 256 / (c * w)
  let oa := grp s o.a.val (c * w) (c * w)
  let ob := grp s o.b.val (c * w) (c * w)
  has s [(o.a.val, c * w, c * w), (o.b.val, c * w, c * w)] && Map.sorted (s.coreOf 0).cells
    && decide ((core0 s).holder = some 0 ∧ w = s.width o.fmtb.val ∧ M ≤ 8 * s.g / c ∧ N ≤ 64 / c ∧ K * M ≤ cap ∧ K * N ≤ cap ∧ M * N * K ≠ 0)
    && decide (s.cur.limit = none ∧ s.me.regErr = []) && !s.tileBad (inRows o.acc (s.physRow 0) c M (c * N))
    && okAnd (s.prep s.me s.me.vl [oa, ob] none [oa.want o.fmta.val o.ar.val, ob.want o.fmtb.val o.ar.val] false .step) (fun p => p.stop.isNone
      && (decide (c = 1) || (tableFor s (vget p.v oa.base).alg o.ar.val).isSome))
    && (!s.exm o.acc || exactEligible (s.fmtC o.fmta.val) (s.fmtC o.fmtb.val))
/-- Tile 0 is in exact mode. -/
def exactTile (s : State) : State := s.setAcc 0 8
theorem witness_OuterProductsUpdateTheTile : (mopOk ⟨0, 8, 9, false, false, 1, 1, 0⟩ (mm 0x20201 (vs 2 [(8, gen 1 32 [1, 2]), (9, gen 1 32 [1, 2, 3, 4])]))
    && mopOk ⟨0, 8, 9, false, false, 11, 11, 0⟩ (exactTile (mm 0x20201 (vs 2 [(8, gen 11 8 [1, 2]), (9, gen 11 8 [1, 2, 3, 4])])))
    && (let s := mm 0x10101 (fun x => { x with vl := 1, v := (pairsState 1).me.v })
        mopOk ⟨0, 9, 10, false, false, 1, 1, 1⟩ (s.setPart 0 { s.part 0 with alg := (s.part 0).alg.set 1 (algOf complexTable) }))) = true := by decide +kernel

def tile : State := mm 0x20202 (fun x => vs 4 [(8, gen 1 32 [1, 2, 3, 4])] (rs [(9, 0x100), (10, 0), (11, 0), (12, 3), (13, -1)] x))
/-- MLD into v8 runs to its end. -/
def mldOk (o : MldOp) (gang : Bool) (s : State) : Bool :=
  let w := s.width o.fmt.val
  let n := if o.dir then tshpM s.me.tshp else tshpN s.me.tshp
  let K := tshpK s.me.tshp
  let base := s.rS o.a
  let od := grp s o.d.val w w
  has s [(o.d.val, w, w)] && decide (K * n ≤ s.groupCap o.fmt.val o.ar.val ∧ K * n ≠ 0 ∧ base.toNat % 256 = 0 ∧ slotsIn s.me.streams [od] = [])
    && decide ((mldPlace o.dir ((s.rS o.b).toNat % 64) 0 n (K * n - 1)).1 < 64 ∧ (mldPlace o.dir ((s.rS o.b).toNat % 64) 0 n (K * n - 1)).2 < 64)
    && (!gang || decide ((namedCore s.cur.core o.loc (bits base.toNat 31 22)).map clusterOf = some (clusterOf s.cur.core)))
    && decide (s.cur.limit = none)
    && (List.range (K * n)).all (fun e => let at_ := mldPlace o.dir ((s.rS o.b).toNat % 64) 0 n e
      decide (base.toNat % 2 ^ 22 + (64 * at_.1 + at_.2) * w / 4 / 2 < 2 ^ 22))
    && okAnd (s.prep s.me s.me.vl [] (some od) [] false .step) (fun p => (memLoop s.me 0 (fun e t =>
      let at_ := mldPlace o.dir ((s.rS o.b).toNat % 64) 0 n e
      match t.elemLoad true 1 o.loc (2 * (base.toNat : Int) + ((64 * at_.1 + at_.2) * w / 4 : Nat)) w with
      | .error f => .error f
      | .ok (v, ps, t1) => .ok ⟨some v, false, ps, t1⟩) (K * n) 0 [] [] [] p.s).stop.isNone)
theorem witness_TilesAreMovedAndScaled : (let s := tile
    let g := grp s 8 32 32
    has s [(8, 32, 32)] && s.rndAllowed 0 && Map.sorted (s.coreOf 0).cells && decide ((core0 s).holder = some 0 ∧ (s.rS 9).toNat / 256 % 256 = 1 ∧ 0 + 1 ≤ 8 * s.g
        ∧ 1 * tshpN s.me.tshp ≤ s.groupCap 1 0 ∧ slotsIn s.me.streams [g] = [] ∧ (vget s.me.v 8).alg = 0 ∧ s.me.regErr = [])
      && okAnd (s.prep s.me s.me.vl [] (some g) [] false .step) (fun _ => true)
      && okAnd (s.prep s.me s.me.vl [g] none [{ g.want 1 0 with anyAlg := true }] (decide (1 ≠ (if s.exm 0 then 8 else 1))) .step) (fun p => p.stop.isNone)
      && !s.tileBad (inRows 0 (s.physRow 0) 1 1 2) && !s.tileBad (s.ownCell 0)
      && decide (0 ≤ (BitVec.ofNat 8 ((exactTile s).rS 12).toNat).toInt ∧ s.exm 0 = false ∧ (BitVec.ofNat 8 (s.rS 13).toNat).toInt = -1)
      && mldOk ⟨8, 10, 11, 1, 0, 0, false, true, .cls 0⟩ false s && mldOk ⟨8, 10, 11, 1, 0, 0, true, true, .cls 0⟩ true s
      && m0.feature 11 && okAnd ((lane m0 0 complexTable).load true (.cls 0) 1 true 0 128) (fun r => (algOf r.1).isSome)) = true := by decide +kernel

/-! ## Engine statements -/

/-- COPY of 4 bytes between places of the own lane memory, tag 2, chunk mask m1, s3 its status; be: barrier word at s10. -/
def laneCopy (be : Bool) : XferOp := ⟨1, true, 1, true, 10, true, 3, 0, 2, true, be, 1, 5⟩
def copyState (src dst bar : Word) : State := on (rs [(4, src), (6, dst), (10, bar)])
/-- COPY has been issued; the one transfer. -/
def started (be : Bool) (src dst bar : Word) : State := outState m0 (exec (.copy 3 4 6 (laneCopy be)) (copyState src dst bar))
def tidOf (s : State) : Nat := (s.xfers.head?.map (·.1)).getD 0
def xferOf (s : State) : Xfer := Map.getD s.xfers (tidOf s) ⟨0, 0, 0, 0, none, laneCopy false, 0, 0, 0, 0, false, none, [], [], [], 0, 0, 0, 0, 0, none, 0, false, [], none, [], false, [], []⟩
def putXfer (s : State) (f : Xfer → Xfer) : State := { s with xfers := Map.set s.xfers (tidOf s) (f (xferOf s)) }
/-- A slot of core 0. -/
def withSlot (q : SeqSlot) : State := m0.setSeqSlot 0 0 q
def template0 : Template := ⟨laneCopy false, 0, 0, false, 0⟩
theorem witness_TransfersStart_stop : (let s := (started false 0 64 0).setSeqSlot 0 0 { SeqSlot.reset with run := some (tidOf (started false 0 64 0)) }
    decide ((s.seqSlot 0 0).run = some (tidOf s) ∧ (xferOf s).complete = false ∧ (xferOf s).stop = none ∧ (xferOf s).held = []) && (Map.get? s.xfers (tidOf s)).isSome
      && decide ((xferOf (putXfer s (fun x => { x with complete := true }))).complete = true)) = true := by decide +kernel
theorem witness_TransfersStart : (decide ((on (fun x => { x with pendStat := 8 })).me.pendStat.getLsbD 3 = true ∧ m0.me.pendStat.getLsbD 3 = false)
    && decide (64 ≤ ({ m0 with xfers := (List.range 64).map (fun k => (k, { xferOf m0 with uid := m0.me.uid })) } : State).outstanding m0.me.uid)
    && decide (m0.outstanding m0.me.uid < 64) && decide (4096 * m0.g < copyChunks { laneCopy true with nrowM1 := 65535 } ∧ ¬4096 * m0.g < copyChunks (laneCopy true))
    && (lmPlace m0.myPart 0 true 64 8).isSome && (lmPlace m0.myPart 0 true 0x80000 8).isNone && decide ((0x80000 : Word).toNat % 8 = 0 ∧ (4 : Word).toNat % 8 ≠ 0)
    && decide (m0.g ≤ 1 ∧ 0 < m0.g) && decide ((m0.seqSlot 0 0).run = none ∧ (m0.seqSlot 0 0).tmpl = none)
    && decide (((withSlot { SeqSlot.reset with run := some 9 }).seqSlot 0 0).run.isSome = true ∧ ((withSlot { SeqSlot.reset with tmpl := some template0 }).seqSlot 0 0).tmpl = some template0)
    && decide (copiesOf (SeqSlot.reset.levels.toList.map (·.count)) * copyChunks (laneCopy false) ≤ 4096)) = true := by decide +kernel

/-- Both sides of the next chunk pass. -/
def chunkOk (s : State) : Bool :=
  let x := xferOf s
  let w : Who := ⟨x.pid, (s.part x.pid).slot, x.core⟩
  let c := x.chunk x.next
  s.present x && decide (x.complete = false ∧ x.stalled = false ∧ x.held = [] ∧ x.seen = [] ∧ x.stop = none ∧ x.next < copiesOf x.counts * copyChunks x.x ∧ x.next / copyChunks x.x < x.emitted)
    && s.queueHead (tidOf s) x && Memory.wf s.mem
    && okAnd (s.chunkSide (tidOf s) w x.x.ssp.val x.x.sloc c.src c.n .read) (fun r => decide (r.1.length = 1)
      && okAnd (r.2.chunkSide (tidOf s) w x.x.dsp.val x.x.dloc c.dst c.n .write) (fun q => decide (q.1.length = 1)
        && (edgeBlocks c.src c.n r.1).all (fun b => !x.later x.next Chunk.src b.1) && (edgeBlocks c.dst c.n q.1).all (fun b => !x.later x.next Chunk.dst b.1)
        && q.1.all (fun p => decide (x.bar + 8 ≤ p.loc.da ∨ p.loc.da + c.n ≤ x.bar))))
    && (List.range 8).all (fun i => (s.keyAt (x.bar + i)).isNone)
/-- The side of the next chunk that fails. -/
def chunkFails (s : State) (write : Bool) : Bool :=
  let x := xferOf s
  let w : Who := ⟨x.pid, (s.part x.pid).slot, x.core⟩
  let c := x.chunk x.next
  s.queueHead (tidOf s) x && match s.chunkSide (tidOf s) w x.x.ssp.val x.x.sloc c.src c.n .read with
    | .error (.trap ..) => !write
    | .error _ => false
    | .ok r => write && match r.2.chunkSide (tidOf s) w x.x.dsp.val x.x.dloc c.dst c.n .write with
      | .error (.trap ..) => true
      | _ => false
theorem witness_TransfersRunAndComplete : (chunkOk (started false 0 64 0) && chunkOk (started true 0 64 128) && chunkFails (started true 0x80000 64 128) false
    && chunkFails (started true 0 0x80000 128) true
    && (let s := putXfer (started false 0 64 0) (fun x => { x with slot := some 0, counts := [2], emitted := 1, next := 1 })
        let x := xferOf s
        s.present x && decide (x.complete = false ∧ x.stop = none ∧ x.slot.isSome = true ∧ x.emitted < copiesOf x.counts ∧ x.emitted < x.next / copyChunks x.x + 2)
          && ((s.setSeqSlot 0 0 { SeqSlot.reset with run := some (tidOf s) }).seqSlot 0 0).run.isSome)
    && (let x := { xferOf (started false 0 64 0) with ordered := true, slot := some 0, counts := [2], emitted := 2 }
        decide (x.ordered = true ∧ (x.next + 1) % copyChunks x.x = 0 ∧ x.next + 1 < copiesOf x.counts * copyChunks x.x))
    && (let s := putXfer { started true 0 64 128 with arbs := [] } (fun x => { x with next := 1 })
        decide ((xferOf s).next = copiesOf (xferOf s).counts * copyChunks (xferOf s).x ∧ (xferOf s).complete = false) && s.quiet (16 + tidOf s))
    && (let s := putXfer { started true 0 64 128 with arbs := [] } (fun x => { x with stop := some (0x22, true), late := 3 })
        decide ((xferOf s).complete = false) && s.quiet (16 + tidOf s) && s.present (xferOf s)
          && (List.range 8).all (fun i => (s.keyAt ((xferOf s).bar + i)).isNone))) = true := by decide +kernel

theorem witness_TagsAndDigests : (let s := started false 0 64 0
    decide (m0.me.ctb &&& 0 = 0) && decide ((on (fun x => { x with ctb := 0b1100 })).me.ctb &&& 0b0110 = 0b0100) && decide (s.me.ctb &&& 4 ≠ 4)
      && Map.sorted s.xfers && Map.sorted s.agents && (Map.get? s.xfers s.me.uid).isNone && m0.myLaunch.isNone
      && decide (((inLaunch 0).myLaunch.map (·.det)) = some false ∧ ((inLaunch 1).myLaunch.map (·.det)) = some true)
      && decide (((on (fun x => { x with run := .waiting .tags })).strand 0 0).run = .waiting .tags ∧ (m0.strand 0 0).run = .ready)) = true := by decide +kernel

/-- A barrier word in lane memory at 64. -/
def barState (w : Nat) (op : Word) : State := lane (ab 64 op) 64 (leBytes 8 w)
theorem witness_BarriersCountArrivals : (let free (s : State) : Bool := match lmPlace s.myPart 0 true 64 8 with
      | some da => (s.poisoned da 8).isNone && (s.drain.poisoned da 8).isNone && (List.range 8).all (fun i => (s.drain.keyAt (da + i)).isNone)
      | none => false
    free (barState (12 * 2 ^ 31) 0) && free (barState (2 ^ 63) 0) && Memory.wf (barState (2 ^ 63) 0).mem
      && decide ((barWord (barState (12 * 2 ^ 31) 0).drain (laneBase 0 + 64)).testBit 63 = false ∧ (barWord (barState (2 ^ 63) 0).drain (laneBase 0 + 64)).testBit 63 = true)
      && decide ((12 : Word).toNat % 2 ^ 30 ≠ 0 ∧ (2 ^ 30 : Word).toNat % 2 ^ 30 = 0 ∧ (4 : Word).toNat % 8 ≠ 0) && (lmPlace m0.myPart 0 true 0x80000 8).isNone
      && decide ((barState 0 0).xfers = []) && (started true 0 64 128).xfers.all (fun c => decide (c.2.bar = laneBase 0 + 128 ∧ c.2.bar ≠ laneBase 0 + 64))) = true := by
  decide +kernel

/-- Two cores of a partition run tasks of one launch; strand 0 of core 1 has this inbox. -/
def twoCores (box : List Strip) : State :=
  let s := withLaunch (m0.setPart 0 { m0.part 0 with own := [(0, 0), (1, 0)] }) (launch0 0)
  let y : Strand := { Strand.reset with run := .ready, task := some task0, inbox := box }
  (s.setStrand 1 0 y).setMe { vs 2 [] (rs [(10, 2)] s.me) with task := some task0 }
def strip0 : Strip := ⟨0, 9, 0, 2, [gen 9 32 [1, 2]]⟩
def mcast0 : McastOp := ⟨8, 0, 10, 1, true, 9, 0, 0, .cls 0⟩
/-- m0 with a group of two members, this package and package 1. -/
def grouped : State := m0.setPart 0 { m0.part 0 with groups := [(2, ⟨0, [Config.packageId, 1]⟩), (3, ⟨0, [Config.packageId]⟩)] }
def coll0 (kind grp : Nat) : Coll := ⟨m0.me.uid, 0, 0, 0, 0, kind, 0, 9, grp, 1, 0x100000, 0x110000, none, 5, false, 0⟩
def collOk (c : Coll) (rank pm : Nat) : Bool :=
  let w : Who := ⟨0, 0, 0⟩
  okAnd (grouped.rangeSide 7 w .read (rangePages c.src (c.srcBytes 4 pm rank))) (fun r =>
    okAnd (r.2.rangeSide 7 w .write (rangePages c.dst (c.dstBytes 4 pm))) (fun q => decide (q.1.length = 1)))
theorem witness_MulticastAndCollectives_mcast : (
    let sends (s : State) (full : Bool) : Bool := okAnd (vmSetup (mcastLoad mcast0) .unit false s.me s) (fun _ => true)
      && decide (s.members ((s.rS 10).toNat % 2 ^ 16) = [1] ∧ s.cur.strand < 8 ∧ s.peer 1 = 0) && (s.members 2).all (fun c => decide (4 ≤ (s.strand c (s.peer c)).inbox.length) == full && decide (s.vgroup ≤ s.freeSlices s.cur.pid c))
    sends (twoCores [strip0]) false && sends (twoCores [strip0, strip0, strip0, strip0]) true
      && (match mLoad (mcastLoad mcast0) .unit (twoCores []).me (twoCores []) with | .ok _ => true | _ => false)
      && (let s := on (fun x => { vs 2 [] x with inbox := [strip0] })
          has s [(8, 32, 32)] && decide (s.me.inbox = [strip0] ∧ strip0.vg = s.me.vg ∧ strip0.fmt = 9 ∧ strip0.ar = 0 ∧ slotsIn s.me.streams [grp s 8 32 32] = [])
            && okAnd (s.prep s.me s.me.vl [] (some (grp s 8 32 32)) []) (fun p => p.stop.isNone))
      && (let s0 := twoCores [strip0]
          let s := s0.setStrand 1 0 { s0.strand 1 0 with short := some (0, [1]) }
          okAnd (vmSetup (mcastLoad mcast0) .unit false s.me s) (fun _ => true) && decide (s.members 2 = [1] ∧ (s.strand 1 (s.peer 1)).inbox.length < 4)
            && !s.sliceTurn s.cur.pid 1 (skey s.cur.core s.cur.strand) (skey 1 (s.peer 1)))
      && decide (strip0.vg ≠ 1 ∧ strip0.fmt ≠ 1 ∧ strip0.ar ≠ 1 ∧ m0.me.inbox = [])) = true := by decide +kernel
theorem witness_MulticastAndCollectives_coll : (grouped.feature 13 && !bare.feature 13 && decide (grouped.me.collSlots.get 0 = none) && (Map.get? grouped.myPart.groups 2).isSome
    && (let s := fun (d : Option (Nat × Nat)) => ({ grouped.setMe { rs [(4, 1)] grouped.me with collSlots := #v[some 7, none, none, none] } with
          colls := [(7, { coll0 0 3 with done := d })] } : State)
        decide ((s none).me.collSlots.get 0 = some 7 ∧ ((s none).rS 4).getLsbD 0 = true) && (Map.get? (s (some (0x22, 1))).colls 7).any (fun c => decide (c.done = some (0x22, 1)))
          && Map.sorted (s none).colls && decide (((s none).strand 0 0).uid = (coll0 0 3).uid))
    && (let s : State := { grouped with colls := [(7, coll0 0 3)] }
        s.quietFor 7 && decide ((coll0 0 3).stalled = false ∧ (coll0 0 3).done = none ∧ (s.strand 0 0).uid = (coll0 0 3).uid ∧ (s.part (coll0 0 3).pid).running = some (coll0 0 3).ctx) && (Map.get? (s.part 0).groups 3).isSome)
    && collOk (coll0 0 3) 0 1 && collOk (coll0 1 3) 0 1 && collOk (coll0 3 3) 0 1 && collOk (coll0 2 3) 0 1 && collOk (coll0 0 2) 0 2
    && (coll0 0 3).agrees ⟨0, [Config.packageId]⟩ [] && (coll0 0 2).agrees ⟨0, [Config.packageId, 1]⟩ [⟨1, 0, 0, 9, 1, false, [], [Config.packageId, 1], 5⟩]
    && !(coll0 0 2).agrees ⟨0, [Config.packageId, 1]⟩ []) = true := by decide +kernel

/-! ## Advice and network statements -/

/-- ma with marks in the queue of strand 0, and a pricking that has an anchor. -/
def advised (a : Advice) (q : List MarkRec) : State :=
  let s := m0.setPCore 0 0 { core0 m0 with adv := { a with bound := 1 } }
  let s := { s with pricks := [(1, ⟨[0, 0], [(0xF001, 1)]⟩)] }
  (s.setMe { s.me with marks := q }).actAdvice 0 0
def rec0 (id occ : Nat) : MarkRec := ⟨id, occ, 5, 6, 0, 0⟩
def awaiting (n : Nat) (q : List MarkRec) : State := advised { Advice.reset with run := .await 0 7 n 2, h := Advice.reset.h.set 4 (BitVec.ofNat 64 n) } q
theorem witness_AdviceFollowsMarks : (let n (s : State) := (s.adv.rH 4).toNat
    decide (n (awaiting 3 []) % 2 ^ 48 = 3 ∧ n (awaiting 3 []) / 2 ^ 48 % 8 < m0.g ∧ n (awaiting 0 []) = 0 ∧ m0.g ≤ (2 ^ 48 + 1) / 2 ^ 48 % 8)
      && decide ((m0.strand 0 0).occ.find? (fun e => e.1 == 7) = none) && decide ((awaiting 3 []).markQueue 0 = [] ∧ (awaiting 3 [rec0 7 3]).markQueue 0 = [rec0 7 3])
      && decide ((awaiting 3 []).adv.run = .await 0 7 3 2) && decide ((advised { Advice.reset with run := .async 0 } []).adv.run = .async 0)
      && decide ((advised Advice.reset [rec0 0xF001 1]).adv.run = .idle ∧ (advised Advice.reset [rec0 0xF001 1]).markQueue 0 = [rec0 0xF001 1])
      && (advised Advice.reset [rec0 0xF001 1]).indexOf 0xF001 = some 1 && decide ((advised { Advice.reset with run := .running } []).adv.run = .running)
      && decide ((advised { Advice.reset with stale := true } []).adv.stale = true) && decide (m0.g ≤ (1 : Fin 8).val ∧ (0 : Fin 8).val < m0.g)) = true := by decide +kernel
theorem witness_AdviceFollowsMarks_actions : (let s := advised { Advice.reset with h := (Advice.reset.h.set 2 0x100000).set 3 64 } []
    decide ((s.adv.rH 2).toNat % 65536 + (s.adv.rH 3).toNat % 2 ^ 32 ≤ 65536 ∧ 0 < (s.adv.rH 3).toNat % 2 ^ 32) && (s.pfPlace false false (s.adv.rH 2) 64).isSome
      && (s.advicePage (s.adv.rH 2)).any (fun q => decide (daPlace q.1.da = .far)) && Map.sorted (s.cluster (clusterOf s.cur.core)).lines && decide (s.adv.pins.length * Config.lineBytes ≤ s.myPart.pinb)) = true := by
  decide +kernel

def packet (cls slack age : Nat) (carried : Bool) : Packet := ⟨cls, slack, age, carried, 0, 0, 1, 5, m0.me.uid, .data, 8⟩
/-- Switch key of core 0 holds this packet at its input 0. -/
def switched (key : Nat) (p : Packet) : State := { m0 with arbs := [(key, ⟨[(nodeKey 0 0, [[p]])], 1, []⟩)], spanTab := Vector.replicate 32 ⟨false, 3⟩ }
/-- A switch of seven inputs: its first two arbiters have candidates, the last stage has none or one. -/
def treeArb (last : List Packet) : Arb := ⟨[(nodeKey 0 0, [[packet 0 5 0 false, packet 0 5 1 false], []]), (nodeKey 0 1, [[], [packet 0 0 0 false]]), (nodeKey 1 0, [last])], 7, []⟩
theorem witness_NetworkStepsServePackets : (
    let leaves (key : Nat) (p : Packet) : Bool := let s := switched key p
      (Map.get? s.arbs key).any (fun a => decide ((a.forward s.owner s.now).1 = some p))
    decide (m0.now % 4 = 0 ∧ m0.now % 256 = 0 ∧ m0.now % 8192 = 0 ∧ (1 : Nat) % 4 ≠ 0 ∧ (1 : Nat) % 256 ≠ 0)
      && decide ((treeArb []).pick none 0 0 = some (0, packet 0 5 0 false) ∧ (treeArb []).pick none 0 1 = some (1, packet 0 0 0 false) ∧ (treeArb []).pick none 1 0 = none)
      && decide (((treeArb [packet 0 0 0 true]).forward none 9).1 = some (packet 0 0 0 true) ∧ treeStages 7 = 2 ∧ treeStages 5 = 1)
      && leaves 1 (packet 0 5 0 false) && leaves 4 (packet 0 5 0 false) && leaves 4 { packet 0 5 0 false with kind := .msg } && leaves 17 { packet 0 5 0 false with kind := .ack }
      && leaves 16 { packet 0 5 0 false with bytes := 4096 } && leaves 24 (packet 0 5 0 false) && leaves 33 (packet 0 5 0 false) && leaves 36 (packet 0 0 0 false)
      && decide (64 * neighbour 0 1 + 9 ≠ 1 ∧ 64 * 0 + 16 ≠ 4 ∧ (switched 1 (packet 0 5 0 false)).owner = some 3 ∧ m0.owner = none)
      && (Map.get? (started false 0 64 0).xfers (16 + tidOf (started false 0 64 0) - 16)).isSome
      && (({ m0 with nextTab := some (0, m0.spanTab) } : State).nextTab).isSome && decide (m0.nextTab = none)) = true := by
  decide +kernel

/-! ## Command and launch statements -/

/-- A command of n × 64 bytes: KIND, context slot 0, and a body from offset 0x40 on. -/
def command (kind n : Nat) (body : List Byte) : List Byte := (leBytes 2 kind ++ [BitVec.ofNat 8 n] ++ List.replicate 61 0 ++ body ++ List.replicate (64 * n) 0).take (64 * n)
/-- Function 0 with queue 0 enabled. -/
def queued (s : State) : State := s.setVf 0 { s.vf 0 with queues := [(0, { Queue.reset with en := true })] }
def abort9 : List Byte := command 3 2 (leBytes 8 1)
/-- A launch of one task at 0x80000. -/
def launchBody : List Byte := leBytes 8 0x80000 ++ leBytes 8 1 ++ leBytes 8 1 ++ leBytes 8 1 ++ leBytes 4 1 ++ leBytes 4 1 ++ [1, 1]
/-- NDEP 1 on command 1; EVDEP on the word at 0x100000. -/
def depends : List Byte := (command 0 1 []).set 3 1 |>.set 0x10 1
def onEvent : List Byte := (command 0 1 []).set 4 1 |>.set 0x32 0x10
def grpBody : List Byte := leBytes 2 5 ++ leBytes 2 1 ++ leBytes 2 0 ++ leBytes 2 0 ++ leBytes 8 0x100000
theorem witness_CommandsAreJournaled : (let s := queued m0
    let full := s.setVf 0 { s.vf 0 with journal := [(1, entry0 .accepted 0 [])] }
    writeOk (command 0 1 []) && writeOk abort9 && !writeOk [] && decide (cmdKind abort9 = 3 ∧ cmdKind (command 0 1 []) = 0) && decide ((s.vf 0).en = true ∧ ((s.vf 0).queue 0).en = true)
      && decide (((m0.vf 0).queue 0).en = false) && decide ((Map.get? (full.vf 0).journal ((full.vf 0).seqNext % 4096)).map (·.state) = some .accepted)
      && (Map.get? (s.vf 0).journal 1).isNone && decide (acceptCause s 0 1 (command 0 1 []) = 0 ∧ acceptCause s 0 1 abort9 = 0)
      && decide (acceptCause s 0 1 (command 0 1 [] |>.set 6 1) ≠ 0)
      && (let t := fun (st : JState) => (queued (withEntry m0 (entry0 st 0 []))).vf 0
          let u := queued (withEntry m0 (entry0 .failed 0 []))
          decide (cmdDeps depends = [1] ∧ acceptCause u 0 2 depends = 0 ∧ ((u.vf 0).entry 1).map (·.state) = some .failed ∧ (u.vf 0).seqNext = 2)
          && (u.vf 0).journal.all (fun c => decide (c.2.state ≠ .accepted))
          && decide ((t .accepted).seqNext = 2 ∧ (t .accepted).seqNext ≠ 1) && ((t .accepted).entry 1).any (fun o => decide (o.state = .accepted))
            && ((t .retired).entry 1).any (fun o => decide (o.state = .retired)) && ((s.vf 0).entry 1).isNone
            && (let l := queued (withLaunch m0 (launch0 0))
                let u := queued (withEntry m0 (entry0 .dispatched 1 []))
                decide (acceptCause l 0 2 abort9 = 0 ∧ (l.vf 0).seqNext = 2) && ((l.vf 0).entry 1).any (fun o => decide (o.state = .dispatched))
                  && decide ((l.launchOf 0 1).map (·.stopped) = some false) && Map.sorted l.launches && (u.launchOf 0 1).isNone && ((u.vf 0).entry 1).any (fun o => decide (o.state = .dispatched))))) = true := by decide +kernel

/-- Command 1 of a kind, its dependences met. -/
def ready (kind n : Nat) (body : List Byte) : State := withEntry m0 { entry0 .accepted kind (command kind n body) with met := some [] }
def mayStart0 (s : State) : Bool := ((s.vf 0).entry 1).any (fun e => s.mayStart (s.vf 0) e)
theorem witness_CommandsStart_notification : (
    let at_ (ms : List Final) : Queue := { Queue.reset with window := some 0, finals := ms }
    let v (ms : List Final) : VF := { m0.vf 0 with queues := [(0, at_ ms)] }
    let good : Final := ⟨3, none, 0, 0x1000⟩
    let bad : Final := ⟨2, some 5, 0, 0x1000⟩
    decide (((v [⟨1, none, 0, 0⟩]).queue 0).window = some 0 ∧ m0.now = 0 ∧ (∀ m ∈ ((v [⟨1, none, 0, 0⟩]).queue 0).finals, m.naddr = 0))
      && decide (((v [good, bad]).queue 0).finals.find? (fun m => decide (m.naddr ≠ 0)) = some good ∧ (∀ m ∈ [good, bad], 0 < m.seq) ∧ bad.bad.isSome = true ∧ good.bad = none)
      && decide (({ good with coal := 1 } : Final).coal ≠ 0 ∧ ({ at_ [good] with window := some 1 }).window = some 1 ∧ isLocal 0x1000 = true)) = true := by decide +kernel
/-- The page at 0x100000 is compressed, and a word of its first block cannot be read. -/
def packed : State := { m0.writeBytes 0x40000 (some placeKey) (leBytes 8 0x3F) with poison := [(0x20008, 4)] }
theorem witness_CommandsStart_unread : ((packed.hostPieces 0 0 0x100000 8 .write).any (fun ps => (piecesPoisoned packed ps .write).isSome)
    && (m0.hostPieces 0 0 0x100000 8 .write).any (fun ps => (piecesPoisoned m0 ps .write).isNone)
    && (let s := ready 1 3 launchBody
        let v := s.vf 0
        v.journal.all (fun c => v.journal.all (fun d => decide (c.2.seq = d.2.seq → c = d))) && (v.entry 1).isSome)) = true := by decide +kernel
theorem witness_CommandsStart : (mayStart0 (ready 0 1 []) && mayStart0 (ready 1 3 launchBody) && mayStart0 (ready 2 2 (leBytes 8 0x100000)) && mayStart0 (ready 4 2 grpBody)
    && !mayStart0 (withEntry m0 (entry0 .accepted 0 [])) && decide (m0.liveDies (m0.part 0) ≠ [])
    && (m0.hostPieces 0 0 0x100000 8 .write).any (fun ps => decide (ps.map (·.n) = [8])) && (m0.hostPieces 0 0 0x40000000 8 .write).isNone && Memory.wf m0.mem
    && (m0.hostRead 0 0 0x100000 8).isSome && (m0.hostRead 0 0 0x100000 1).isSome && !m0.groupBusy 0 5 && !badMembers [Config.packageId] 0 && badMembers [Config.packageId] 1
    && (let v := (withEntry m0 (entry0 .retired 0 [])).vf 0
        let w := (withEntry m0 (entry0 .aborted 0 [])).vf 0
        let e : JEntry := { entry0 .accepted 0 depends with seq := 2, deps := [1] }
        !v.depBad e && w.depBad e && decide ({ e with deps := [] }.met = none ∧ cmdEvdep depends = 0 ∧ cmdEvdep onEvent ≠ 0))
    && ({ grouped with colls := [(7, coll0 0 5)] } : State).groupBusy 0 5
    && decide ((cmdEvaddr onEvent = 0x100000)) && decide (isLocal 0x1000 = true ∧ isLocal (2 ^ 48) = false)) = true := by decide +kernel

/-- A live launch of one task of size 1, its unit on range 0. -/
def admitting : State := withLaunch m0 { launch0 0 with units := [(0, ⟨some 0, 0, false⟩)], started := [0] }
def idle0 (s : State) : State := s.setMe { s.me with run := .idle }
theorem witness_LaunchesRunTheirTasks : (let s := withLaunch m0 (launch0 0)
    (s.liveLaunch 0 1).any (fun l => decide (l.coresOf (s.part 0) 0 ≠ [] ∧ l.distFor 0 < l.dists.length ∧ (distAt l.dists 0).ranges = [0] ∧ l.lowest (s.part 0) = 0))
      && ((withLaunch m0 { launch0 0 with dists := [⟨0, [], 0, 0⟩] }).liveLaunch 0 1).any (fun l => l.dists.all (fun d => decide (d.ranges = [])))
      && (let a := idle0 admitting
          (a.liveLaunch 0 1).any (fun l => decide (a.freeStrands l 0 = [(0, 0)] ∧ l.size = 1) && !a.outranked 0 1 l (l.coresOf (a.part 0) 0) && decide (l.started.contains 0 = true ∧ 0 < l.total))
            && okAnd ((a.actAs 0 0).fetchWord 0x80000) (fun r => decide (r.1 / 2 ^ 62 ≠ 3)))
      && decide (m0.outstanding m0.me.uid = 0 ∧ (started false 0 64 0).outstanding (started false 0 64 0).me.uid ≠ 0 ∧ m0.me.task = none ∧ (inLaunch 0).me.task = some task0)
      && ((inLaunch 0).launchOf 0 1).isSome) = true := by decide +kernel
/-- A distributor without ranges beside one with three; two strands for a group of two tasks. -/
theorem witness_LaunchesRunTheirTasks_steal : (let l (flags : Nat) : Launch := { launch0 flags with dists := [⟨0, [], 0, 1⟩, ⟨1, [4, 5, 6], 0, 0⟩] }
    let s (flags : Nat) : State := withLaunch m0 (l flags)
    let free (flags : Nat) : Bool := ((s flags).liveLaunch 0 1).any (fun m => decide (m = l flags ∧ m.distFor 0 = 0 ∧ m.coresOf ((s flags).part 0) 0 ≠ []))
    free 0 && free 1 && decide ((l 0).det = false ∧ (l 1).det = true ∧ (l 1).stealk ≠ 0 ∧ (l 1).stealk ≤ 1 ∧ (0 + 1 + (0 + 0) % (2 - 1)) % 2 = 1 ∧ [4, 5, 6].drop (3 / 2) = [5, 6])
      && (let g2 : State := idle0 (admitting.setPart 0 { admitting.part 0 with g := 2 })
          let a : State := { g2.setStrand 0 1 { Strand.reset with run := .idle } with launches := [(lkey 0 1, { launch0 0 with size := 2, n0 := 2, units := [(0, ⟨some 0, 0, false⟩)], started := [0] })] }
          (a.liveLaunch 0 1).any (fun m => decide (a.freeStrands m 0 = [(0, 0), (0, 1)] ∧ m.size = 2 ∧ m.groupEnd 0 = 2) && !a.outranked 0 1 m (m.coresOf (a.part 0) 0)))) = true := by decide +kernel
theorem witness_LaunchesRunTheirTasks_retire : (let ended (flags : Nat) (d : Word) : State := withLaunch m0 { launch0 flags with retired := [(0, 0)], digest := d, doneAddr := 0x100000 }
    let ok (s : State) : Bool := ((s.vf 0).entry 1).any (fun e => decide (e.state = .dispatched)) && decide (s.residents 0 1 = [] ∧ s.savedTasks 0 1 = []) && !s.launchMoves 0 1
    let D := launchDigest [(0, 0)]
    ok (ended 0 0) && ok (ended 0x11 D) && ok (withLaunch m0 { launch0 0 with fenceFail := true }) && decide ((launch0 0).retired.length < (launch0 0).total ∧ D ≠ D + 1)
      && decide ((launch0 0x11).det = true ∧ (launch0 0x11).digv = true ∧ (launch0 0x20).doneFlag = true ∧ (launch0 0).doneFlag = false ∧ (launch0 2).serial = false)
      && (m0.hostPieces 0 0 0x100000 8 .write).any (fun ps => decide (ps.map (·.n) = [8])) && (m0.hostPieces 0 0 0x40000000 8 .write).isNone && Map.sorted (inLaunch 0).strands
      && decide (((withLaunch m0 { launch0 0 with stopped := true }).launchOf 0 1).map (·.stopped) = some true)) = true := by decide +kernel

/-! ## Contexts, management, fleet -/

/-- Context slot 1 has a live launch, and so runs next; its image is EMPTY or malformed. -/
def nextCtx (bs : List Byte) (running : Option Nat) : State :=
  let s := withLaunch (saved bs 1) { launch0 0 with slot := 1 }
  s.setPart 0 { s.part 0 with running := running, last := 0, sliceDue := 0 }
def entryBody (flags : Nat) : List Byte := leBytes 8 0x200000 ++ leBytes 2 10 ++ leBytes 2 0 ++ leBytes 1 flags
theorem witness_ContextsAreScheduled : (let c := m0.myPart.ctxAt 0
    let bad (f : Nat) : Bool := decide ((numAt (entryBody f) 0x0C 1).testBit 0 = true ∧ (c.xvalid = false ∨ numAt (entryBody f) 8 2 = 0 ∨ numAt (entryBody f) 0 8 % 4096 ≠ 0))
    !bad 1 && decide (c.xvalid = true) && decide ((Ctx.reset).xvalid = false) && decide (m0.myPart.running = some 0 ∧ m0.myPart.preempting = false)
      && decide ((nextCtx emptyImage (some 0)).nextSlot 0 0 = some 1 ∧ (nextCtx emptyImage none).nextSlot 0 0 = some 1 ∧ m0.nextSlot 0 0 = none)
      && decide ((nextCtx emptyImage (some 0)).ctxRun 0 0 = false ∧ (nextCtx emptyImage (some 1)).nextSlot 0 1 = some 1) && Memory.wf (nextCtx emptyImage none).mem
      && (let x : State := { nextCtx emptyImage none with poison := [(pkgAddr 0x200000 / 8, 1)] }; (x.imageIn (x.part 0) 1).isNone && decide (x.nextSlot 0 0 = some 1)) && m0.myPart.cores.all (fun c => decide (m0.myPart.k0 c + m0.myPart.g ≤ 8))) = true := by decide +kernel
/-- The bytes of a save area, as bytesAt reads them. -/
def area (s : State) (c : Ctx) (n : Nat) : List Piece := [⟨⟨pkgAddr c.save, s.fwKey, true, false, 0⟩, n⟩]
/-- Every check of imageIn passes. -/
def imageFound (s : State) (p : Part) (slot : Nat) : Bool :=
  let c := p.ctxAt slot
  let h := bytesAt s (area s c 4096)
  let w := bytesAt s (area s c (imgSize h))
  plain s (area s c 4096) && plain s (area s c (imgSize h)) && (s.poisoned (pkgAddr c.save) 4096).isNone && (s.poisoned (pkgAddr c.save) (imgSize h)).isNone
    && headOk p (s.vf c.vfn) h && recordsOk p w && decide (featMissing (s.vf c.vfn) w = 0)
theorem test_image_found (s : State) (p : Part) (slot : Nat) (h : imageFound s p slot = true) :
    s.imageIn p slot = some (bytesAt s (area s (p.ctxAt slot) (imgSize (bytesAt s (area s (p.ctxAt slot) 4096)))), s) := by
  have rb : ∀ n, plain s (area s (p.ctxAt slot) n) = true → s.readSave (p.ctxAt slot) n = (bytesAt s (area s (p.ctxAt slot) n), s) := fun n hn => by
    have := test_plain_bytes s _ hn
    simp only [area, readPieces, List.append_nil] at this
    exact this
  simp only [imageFound, Bool.and_eq_true, Option.isNone_iff_eq_none, decide_eq_true_eq] at h
  obtain ⟨⟨⟨⟨⟨⟨h1, h2⟩, h3⟩, h4⟩, h5⟩, h6⟩, h7⟩ := h
  simp [State.imageIn, rb _ h1, rb _ h2, h3, h4, h5, h6, h7]
theorem witness_ContextsAreScheduled_image : (let s := nextCtx emptyImage none
    imageFound s (s.part 0) 1 && imgEmpty (bytesAt s (area s ((s.part 0).ctxAt 1) 5120))) = true := by decide +kernel

/-- Memory read in stretches: the bytes of each that are listed, then as many zeros. -/
def sparse (m : Memory) (a : Nat) : List (Nat × Nat) → List Byte
  | [] => []
  | c :: r => Memory.readN m a c.1 ++ (List.replicate c.2 0 ++ sparse m (a + c.1 + c.2) r)
def sparseOk (m : Memory) (a : Nat) : List (Nat × Nat) → Bool
  | [] => true
  | c :: r => m.all (fun x => !decide (a + c.1 ≤ x.1 ∧ x.1 < a + c.1 + c.2)) && sparseOk m (a + c.1 + c.2) r
def stretch : List (Nat × Nat) → Nat
  | [] => 0
  | c :: r => c.1 + (c.2 + stretch r)
theorem test_sparse (m : Memory) (l : List (Nat × Nat)) (a : Nat) (h : sparseOk m a l = true) : sparse m a l = Memory.readN m a (stretch l) := by
  induction l generalizing a with
  | nil => rfl
  | cons c r ih =>
    simp only [sparseOk, Bool.and_eq_true] at h
    have hz : Memory.readN m (a + c.1) c.2 = List.replicate c.2 0 := Memory.readN_unlisted (fun x hx => by
      have := List.all_eq_true.1 h.1 x hx
      simp at this
      omega)
    rw [stretch, Memory.readN_add, Memory.readN_add, hz, ← ih _ h.2, sparse]
/-- The n bytes at a are plaintext, or written under the material mat. -/
def keyed (s : State) (a n : Nat) (mat : Option Nat) : Bool := s.memKey.all (fun c => !decide (a / 64 ≤ c.1 ∧ c.1 ≤ (a + n) / 64) || decide (mat = some c.2))
theorem test_keyed (s : State) (a n : Nat) (mat : Option Nat) (h : keyed s a n mat = true) : s.readBytes a mat n = (Memory.readN s.mem a n, s) := by
  refine readBytes_plain s a mat n (fun i hi => ?_)
  match hk : Map.get? s.memKey ((a + i) / 64) with
  | none => exact .inl hk
  | some k =>
    have := List.all_eq_true.1 h _ (Map.mem_of_get? hk)
    simp at this
    exact .inr (hk.trans (this.resolve_left (by omega)).symm)
theorem test_sound (s : State) (h : s.poison = []) (n a : Nat) : s.poisoned a n = none := by
  induction n generalizing a with
  | zero => rfl
  | succ n ih => simp [State.poisoned, h, Map.get?, ih]
/-- A save area of n bytes whose header and records pass the checks is an image. -/
theorem test_image_read (s : State) (p : Part) (slot n : Nat) (l h : List (Nat × Nat)) (hp : s.poison = [])
    (hk : (let c := p.ctxAt slot
      let a := pkgAddr c.save
      let bs := sparse s.mem a l
      let hd := sparse s.mem a h
      keyed s a n s.fwKey && decide (4096 ≤ n ∧ stretch l = n ∧ stretch h = 4096) && sparseOk s.mem a l && sparseOk s.mem a h && decide (imgSize hd = n)
        && headOk p (s.vf c.vfn) hd && recordsOk p bs && decide (featMissing (s.vf c.vfn) bs = 0)) = true) :
    s.imageIn p slot = some (sparse s.mem (pkgAddr (p.ctxAt slot).save) l, s) := by
  simp only [Bool.and_eq_true, decide_eq_true_eq] at hk
  obtain ⟨⟨⟨⟨⟨⟨⟨h1, h2, h3, h4⟩, h5⟩, h6⟩, h7⟩, h8⟩, h9⟩, h10⟩ := hk
  have k2 : keyed s (pkgAddr (p.ctxAt slot).save) 4096 s.fwKey = true := List.all_eq_true.2 (fun c hc => by
    have := List.all_eq_true.1 h1 c hc
    simp only [Bool.or_eq_true, Bool.not_eq_true', decide_eq_false_iff_not, decide_eq_true_eq] at this ⊢
    refine this.imp_left (fun g q => g ⟨q.1, Nat.le_trans q.2 (Nat.div_le_div_right (by omega))⟩))
  have e1 := test_sparse _ _ _ h5
  have e2 := test_sparse _ _ _ h6
  rw [h3] at e1
  rw [h4] at e2
  rw [e2] at h7 h8
  rw [e1] at h9 h10
  simp [State.imageIn, State.readSave, test_sound s hp, test_keyed s _ _ _ k2, test_keyed s _ _ _ h1, h7, h8, h9, h10, e1]
/-- Slot 1 holds a saved image of core 0 with one strand, whose task is the launch's. -/
def coreImage : State :=
  let s := nextCtx (leBytes 4 0x00584748 ++ leBytes 2 1 ++ leBytes 2 0 ++ leBytes 8 541696 ++ leBytes 4 0 ++ leBytes 2 1 ++ [1]) none
  let a := pkgAddr 0x200000
  let s1 := (s.writeBytes (a + 5128) s.fwKey (leBytes 8 536576)).writeBytes (a + 5640) s.fwKey [2]
  s1.setPart 0 (let p := s1.part 0; p.putCtx 1 { p.ctxAt 1 with held := [⟨0, 9, task0, Vector.replicate 16 none, Vector.replicate 4 none, 0⟩] })
/-- Where the image is not zero. -/
def coreParts : List (Nat × Nat) := [(23, 5105), (8, 504), (1, 536055)]
theorem witness_ContextsAreScheduled_core : (let s := coreImage
    let p := s.part 0
    let bs := sparse s.mem (pkgAddr (p.ctxAt 1).save) coreParts
    s.imageIn p 1 = some (bs, s)) :=
  test_image_read _ _ _ 541696 coreParts [(23, 4073)] (by decide +kernel) (by decide +kernel)
theorem witness_ContextsAreScheduled_strand : (let s := coreImage
    let p := s.part 0
    let bs := sparse s.mem (pkgAddr (p.ctxAt 1).save) coreParts
    decide (s.nextSlot 0 p.last = some 1 ∧ p.running = none ∧ p.cores = [0] ∧ p.k0 0 + p.g ≤ 8 ∧ imgEmpty bs = false ∧ s.launchesOf 0 1 ≠ []) && Memory.wf s.mem
      && (p.ctxAt 1).held.all (fun h => (s.launchesOf 0 1).any (fun l => l.1 == lkey h.task.vfn h.task.seq))
      && (readCores (readFmts (bs.drop 4096)) p.g (imgCores bs) (bs.drop 5120)).any (fun im => decide (im.core = 0) && (im.strands[0]?).any (fun r => r.hasTask))
      && ((p.ctxAt 1).held.find? (fun h => h.key == skey 0 0)).isSome) = true := by decide +kernel
/-- Function 0 has a launch of context 0 that is accepted, or one that runs. -/
def abortable (s : State) (st : JState) : Bool := decide (((s.part 0).ctxAt 0).valid = true ∧ (numAt (entryBody 0) 0x0C 1).testBit 0 = false) && Map.sorted s.vfs
        && s.vfs.all (fun e => decide (e.1 < 1024) && Map.sorted e.2.journal && e.2.journal.all (fun j => decide (j.1 = j.2.seq % 4096)))
        && (Map.get? s.vfs 0).any (fun v => decide (v.pid = 0) && (v.entry 1).any (fun f => decide (f.kind = 1 ∧ cmdCtx f.cmd = 0 ∧ f.state = st)))
theorem witness_ContextsAreScheduled_abort : (abortable (withEntry m0 (entry0 .accepted 1 (command 1 3 launchBody))) .accepted
      && abortable { withEntry m0 (entry0 .dispatched 1 (command 1 3 launchBody)) with launches := [(lkey 0 1, launch0 0)] } .dispatched && decide ((launch0 0).stopped = false)) = true := by
  decide +kernel

/-- A request of n × 64 bytes. -/
def req (kind n : Nat) (body : List Byte) : List Byte := (leBytes 2 kind ++ [BitVec.ofNat 8 n] ++ List.replicate 61 0 ++ body ++ List.replicate (64 * n) 0).take (64 * n)
def words8 (l : List Nat) : List Byte := l.flatMap (leBytes 8)
/-- A partition of one lane group of core 5. -/
def part1 : Part := { Part.reset with own := [(5, 0)], tclass := 1, kbase := 10, kcnt := 1 }
/-- The body of a PARTWRITE of part1 as partition 1, and the request. -/
def partHead : List Byte := [1, 0, 1, 0, 0, 0, 0, 0, 64, 0, 10, 0, 1, 0, 0, 0, 0, 0, 1, 0, 0, 0, 0, 0, 0, 1] ++ List.replicate 38 0
def partOwn : List Byte := List.replicate 5 0 ++ 0x80 :: List.replicate 954 0
def partReq : List Byte := [1, 0, 17] ++ List.replicate 61 0 ++ (partHead ++ partOwn)
theorem test_own_byte (c : Nat) (h : c < 768) : numAt (partHead ++ partOwn) (0x40 + c) 1 = if c = 5 then 128 else 0 := by
  have h1 : (partHead ++ partOwn).drop (0x40 + c) = partOwn.drop c := by
    rw [← List.drop_drop, List.drop_append_of_le_length (by decide)]
    rfl
  rw [numAt, h1, partOwn]
  rcases Nat.lt_trichotomy c 5 with hc | rfl | hc
  · rw [if_neg (by omega), List.drop_append_of_le_length (by simp; omega), List.drop_replicate]
    obtain ⟨k, hk⟩ : ∃ k, 5 - c = k + 1 := ⟨4 - c, by omega⟩
    rw [hk]
    rfl
  · rfl
  · obtain ⟨k, rfl⟩ : ∃ k, c = 5 + (k + 1) := ⟨c - 6, by omega⟩
    rw [if_neg (by omega), List.drop_append, List.drop_of_length_le (by simp)]
    simp only [List.length_replicate, List.nil_append, Nat.add_sub_cancel_left, List.drop_succ_cons, List.drop_replicate]
    obtain ⟨j, hj⟩ : ∃ j, 954 - k = j + 1 := ⟨953 - k, by omega⟩
    simp [hj, List.replicate_succ, leNat]
theorem test_filterMap {α β : Type} (l : List α) (f g : α → Option β) (h : ∀ c ∈ l, f c = g c) : l.filterMap f = l.filterMap g := by
  induction l with
  | nil => rfl
  | cons a l ih => simp [List.filterMap_cons, h a (by simp), ih (fun c hc => h c (by simp [hc]))]
theorem test_part_read : readPart Part.reset (partHead ++ partOwn) = part1 := by
  have ho : readOwn true (partHead ++ partOwn) = [(5, 0)] := by
    rw [readOwn, test_filterMap _ _ (fun c => if c = 5 then some (c, 0) else none) (fun c hc => by
      rw [test_own_byte c (List.mem_range.1 hc)]
      by_cases h5 : c = 5 <;> simp [h5, bits, Nat.testBit])]
    decide +kernel
  have hu : readOwn false (partHead ++ partOwn) = [] := by
    rw [readOwn, test_filterMap _ _ (fun _ => none) (fun c hc => by
      rw [test_own_byte c (List.mem_range.1 hc)]
      by_cases h5 : c = 5 <;> simp [h5, bits, Nat.testBit])]
    exact List.filterMap_eq_nil_iff.2 (fun _ _ => rfl)
  rw [readPart, ho, hu]
  decide +kernel
theorem witness_ManagementRequestsAreAnswered_clean : (reqOk 1 17 partReq && recordClean (partReq.drop 64)) = true := by
  have h : partReq.drop 64 = partHead ++ partOwn := rfl
  rw [h, recordClean, test_part_read]
  decide +kernel
theorem witness_ManagementRequestsAreAnswered_pending : decide (m0.mgmt.s2pending = none
    ∧ (({ m0 with mgmt := { m0.mgmt with s2pending := some 0 } } : State).mgmt.s2pending.isSome = true)) = true := by decide
theorem witness_ManagementRequestsAreAnswered_partitions : (let q := part1
    decide (q.disown m0.tele.fenced = q ∧ m0.tele.fenced = 0 ∧ { part1 with own := [(5, 8)] }.badRecord = true) && decide (partwriteCode m0 1 q = 0)
      && (let s := m0.setPart 1 { part1 with own := [(5, 0), (6, 0)] }
          decide ((s.part 1).ownsGroup 6 0 = true ∧ q.ownsGroup 6 0 = false ∧ (Map.get? s.parts 1).isSome = true ∧ (s.part 1).hasValid = false))
      && (let s := m0.setPart 1 { part1 with ctxs := [(0, placeCtx)], kcnt := 2 }
          decide ((s.part 1).hasValid = true ∧ (s.part 1).kcnt ≠ q.kcnt) && s.parts.all (fun c => decide (c.1 = 1) || !q.clashes c.2))
      && !q.badRecord && decide (q.ownsGroup 5 0 = true)
      && (Map.get? m0.parts 1).isNone && Part.badRecord Part.reset && { part1 with tclass := 0 }.clashes (m0.part 0)
      && reqOk 2 2 (req 2 2 (words8 [0])) && restZero (req 2 2 (words8 [0])) 8 && (m0.part 0).hasValid && Map.sorted m0.parts
      && (let s := m0.setPart 5 part1
          !(s.part 5).hasValid && s.vfs.all (fun c => decide (c.2.pid ≠ 5)) && Map.sorted s.parts)
      && (let v := req 3 2 (VF.record 0 placeVf)
          let b := v.drop 64
          let w := readVf (m0.vf 0) b
          reqOk 3 2 v && decide (VF.record 0 w = b ∧ vfwriteCode m0 0 w = 0 ∧ numAt b 0 2 % 1024 = 0) && decide (vfwriteCode m0 0 { w with pid := 7 } = 1 ∧ vfwriteCode m0 0 { w with kcnt := 2 } = 2
              ∧ vfwriteCode (m0.setPart 0 { m0.part 0 with kcnt := 2 }) 0 { w with kcnt := 2 } = 3)
            && decide (VF.record 0 w ≠ b.set 63 1))) = true := by decide +kernel
theorem witness_ManagementRequestsAreAnswered_contexts : (let r := req 4 2 (words8 [0, 3, 0, 0x30000, 0, 1])
    let t := req 5 2 (words8 [0, 2 ^ 64 - 1])
    let b := r.drop 64
    m0.parts.any (fun c => decide (c.2.kbase ≤ 0 ∧ 0 < c.2.kbase + c.2.kcnt)) && m0.parts.all (fun c => decide ¬(c.2.kbase ≤ 2047 ∧ 2047 < c.2.kbase + c.2.kcnt))
      && decide ((0x20001 : Nat) % 65536 ≠ 0 ∧ (0x20000 : Nat) % 65536 = 0) && reqOk 4 2 r && restZero r 0x30 && decide (numAt b 8 8 = 3 ∧ numAt b 0x18 8 % 65536 = 0 ∧ numAt b 0x28 8 ≤ 1) && (Map.get? m0.parts 0).isSome && (Map.get? m0.vfs 0).isSome
      && reqOk 5 2 t && restZero t 0x10 && decide (numAt (t.drop 64) 8 8 = 2 ^ 64 - 1) && decide ((m0.part 0).running = some 0 ∧ ((m0.part 0).ctxAt 0).xvalid = true)
      && decide (({ m0 with mgmt := { m0.mgmt with s2pending := some 0 } } : State).mgmt.s2pending = some 0)) = true := by decide +kernel
theorem witness_ManagementRequestsAreAnswered_keys : (let r (k id : Nat) := req k 2 (words8 [id])
    let hdr (k id : Nat) : Bool := decide (numAt (r k id) 0 2 = k ∧ 128 ≤ (r k id).length ∧ (r k id).length = 64 * numAt (r k id) 2 1) && zeroAt (r k id) 3 61
    let owned (id : Nat) : Bool := m0.parts.any (fun c => decide (c.2.kbase ≤ id ∧ id < c.2.kbase + c.2.kcnt))
    hdr 6 0 && hdr 7 0 && hdr 8 0 && hdr 9 0 && owned 0 && !owned 5 && !owned 2047 && m0.parts.all (fun c => decide (c.2.kbase + c.2.kcnt ≤ 2047)) && Map.sorted m0.keys
      && restZero (r 6 0) 8 && (Map.get? m0.keys 0).isSome && (Map.get? ({ m0 with keys := [(2047, 0)] } : State).keys 0).isNone
      && decide (numAt ((r 6 3000).drop 64) 0 8 = 3000)) = true := by decide +kernel
/-- An image file without sections, its hash in place: SHA-512 of 112 zero bytes, as another program computes it. -/
def hgi0 : List Byte := List.replicate 112 0 ++ (leBytes 64 0x2be2e788c8a8adeaa9c89a7f78904cacea6e39297d75e0573a73c756234534d6627ab4156b48a6657b29ab8beb73334040ad39ead81446bb09c70704ec707952).reverse
theorem test_hgi_hash : hgiHash hgi0 = hgi0.drop 112 := by decide +kernel
theorem test_hgi_hash_zero : hgiHash (List.replicate 176 0) = hgi0.drop 112 := test_hgi_hash ▸ congrArg sha512 (by decide +kernel)
theorem witness_ManagementRequestsAreAnswered_measure : (let r := req 10 2 (words8 [0, 0x100000, 176])
    let f : State → Option (List Byte) := fun s => s.readRange 0 (rangePages 0x100000 176)
    let s := m0.writeBytes 0x100000 (some placeKey) hgi0
    reqOk 10 2 r && restZero r 0x18 && decide (176 ≤ numAt (r.drop 64) 0x10 8) && decide (f s = some hgi0 ∧ hgi0.drop 112 = (hgi0.drop 0x70).take 64)
      && decide (f m0 = some (List.replicate 176 0) ∧ hgi0.drop 112 ≠ ((List.replicate 176 (0 : Byte)).drop 0x70).take 64)
      && decide ((s.vf 0).mlog.length < 64) && decide (((s.part 0).ctxAt 0).xvalid = true ∧ ((s.part 0).ctxAt 0).vfn = 0 ∧ Ctx.reset.xvalid = false)) = true := by decide +kernel
theorem witness_ManagementRequestsAreAnswered_reports : (let a := req 11 3 (words8 [0])
    let t := req 12 2 (words8 [3, 0, 0x100000])
    let u := req 13 2 (words8 [1, 0x100000, 4])
    let w (r : List Byte) (n : Nat) := numAt (r.drop 64) n 8
    reqOk 11 3 a && zeroAt (a.drop 64) 8 56 && (Map.get? m0.vfs 0).isSome
      && reqOk 12 2 t && restZero t 0x28 && decide (w t 0 < 8 ∧ ¬(1 ≤ w t 0 / 2 % 2 ∧ 1 ≤ w t 0 / 4) ∧ w t 8 < 32 ∧ w t 0x10 < 2 ^ 57)
      && reqOk 13 2 u && restZero u 0x18 && decide (w u 0 < 2) && !reqOk 1 17 a) = true := by decide +kernel

theorem witness_FleetStepsAsDescribed : (decide ((m0.cluster 0).ref ≤ 2 ∧ m0.xfers = [] ∧ m0.colls = []) && m0.strands.all (fun c => decide (c.2.stores = []))
    && (let l := { launch0 0 with dists := [⟨0, [0], 0, 0⟩, ⟨1, [], 0, 0⟩] }
        let i := { l with flags := 2, units := [(0, ⟨some 0, 0, false⟩)], dists := [⟨0, [], 0, 0⟩, ⟨1, [], 0, 0⟩] }
        decide (l.lostRanges 0 [] = [0] ∧ l.idemp = false ∧ i.idemp = true ∧ l.lostRanges 1 [] = [] ∧ i.lostRanges 0 [] = [0] ∧ ([1] : List Nat).Nodup)
          && decide ({ i with flags := 0 }.idemp = false ∧ { i with flags := 0 }.assignedOn 0 [] = true) && (l.dists.drop 1).all (fun d => decide (d.die ≠ 0)))
    && (blockOf 0x100000).isSome && (blockOf (2 ^ 48)).isNone && Memory.wf m0.mem && Map.sorted m0.poison
    && (let p := m0.part 0
        let hole := 0x0FFFFFFFFF00
        decide (isLocal 0x100000 = true ∧ ownership p 0x100000 true = none ∧ mapped 0x100000 = true ∧ isLocal hole = true ∧ ownership p hole false = none ∧ mapped hole = false)
          && decide (ownership p (laneBase 5) true ≠ none) && (m0.poisoned 0x100000 8).isNone && (({ m0 with poison := [(0x20000, 4)] } : State).poisoned 0x100000 8).isSome
          && (m0.parts.find? (fun c => decide (c.2.tclass = 0))).isSome)) = true := by decide +kernel
/-- Three lost ranges split over two survivors; a launch runs beside a command that is final. -/
theorem witness_FleetStepsAsDescribed_split : (let l := { launch0 2 with n0 := 4, dists := [⟨0, [1, 2, 3], 0, 0⟩, ⟨1, [0], 0, 0⟩] }
    decide (l.lostRanges 0 [] = [1, 2, 3] ∧ l.idemp = true ∧ (l.dists.map (·.die)).Nodup ∧ l.serial = false ∧ (l.fence 0 [1, 2] []).dists.map (·.ranges) = [[0, 1], [2, 3]])
      && (let s := withLaunch m0 (launch0 0)
          Map.sorted s.vfs && s.vfs.all (fun e => Map.sorted e.2.journal && e.2.journal.all (fun j => decide (j.1 = j.2.seq % 4096)))
            && (Map.get? s.vfs 0).any (fun v => (v.entry 1).any (fun f => decide (f.kind = 1 ∧ f.state = .dispatched))))
      && ((withEntry m0 (entry0 .retired 0 [])).vf 0).journal.all (fun c => decide (c.2.state = .retired))) = true := by decide +kernel
/-- Which blocks are worn and whether spare storage is left is not known; each of the cases holds of some block or other. -/
theorem witness_FleetStepsAsDescribed_retire (s : State) (a : Nat) : (Map.sorted m0.poison = true ∧ (∀ w, Map.get? m0.poison w = none)
    ∧ Map.get? ({ m0 with poison := [(0x20000, 4)] } : State).poison 0x20000 = some 4 ∧ (4 : Nat) ≠ 3)
    ∧ (Config.worn s.freeCtr a = true ∨ Config.worn s.freeCtr a = false) ∧ (Config.hasSpare s.tele.spareUsed = true ∨ Config.hasSpare s.tele.spareUsed = false) := by
  refine ⟨⟨by decide, fun _ => rfl, by decide⟩, ?_, ?_⟩
  · cases Config.worn s.freeCtr a <;> simp
  · cases Config.hasSpare s.tele.spareUsed <;> simp
/-- What ROM finds is not known; one of the three cases holds. -/
theorem witness_FleetStepsAsDescribed_boot (f : Firmware) : bootOk f.svn f.image = true ∨ (bootOk f.svn f.image = false ∧ bootOk f.svn f.other = true)
    ∨ (bootOk f.svn f.image = false ∧ bootOk f.svn f.other = false) := by
  cases bootOk f.svn f.image <;> cases bootOk f.svn f.other <;> simp

/-! ## Halves and the machine -/

theorem witness_HalvesComplete : ((m0.checkTarget (m0.me.pc + 8 * (BitVec.signExtend 64 (-2 : BitVec 14)))).isNone && decide (m0.rndAllowed 0 = true ∧ m0.rndAllowed 5 = true)
    && (let s := on (rs [(6, 0x100000)])
        okAnd (s.load true (.cls 0) 0 false (s.rS 6 + BitVec.signExtend 64 (8 : BitVec 14)) 8) (fun _ => true)
          && okAnd (permit s s.who s.me.uid true 0 false (s.rS 6 + BitVec.signExtend 64 (8 : BitVec 14)) 8 .write) (fun _ => true)
          && decide ((s.rS 6 + BitVec.signExtend 64 (4 : BitVec 14)).toNat % 8 ≠ 0))
    && elementOk (three 9 32) 9 32 true && elementOk (three 63 64) 63 64 false && decide ((3 : HalfReg) ≠ 4)) = true := by decide +kernel

theorem witness_HalvesComplete_pairs : (let goes (c : HalfCode) (s : State) : Bool := match solo (halfRun c) s with
      | .next _ => true
      | _ => false
    goes ⟨0x01, 3, 4, 0⟩ m0 && goes ⟨0x02, 5, 6, 0⟩ m0 && goes ⟨0x18, 5, 6, 1⟩ m0 && decide ((hs (fin 32 3) ≠ hs (fin 32 5)) ∧ m0.inDet = false ∧ (1 : Nat) / 2 ^ 6 % 8 = 0)
      && decide (bare.rmode 5 = .sr ∧ bare.feature 10 = false)) = true := by decide +kernel
theorem witness_DecodeAndEncodeAgree : ((Instr.add 3 4 5).wf && (Instr.lix 7 5).wf && (Instr.addHalf 3 4).wf && (Instr.aaddi 1 0 1).wf && decide (encode (.add 3 4 5) ≠ .event)
    && word 0x0010610280000000 (.add 3 4 5) && advice 0x10400001 (.aaddi 1 0 1)) = true := by decide +kernel

/-- One instruction where the next step fetches it; the step's strand issues it. -/
def placed (w : Nat) : State := State.reset.withFetchWord 128 w
def issues (w : Nat) (P : State → Nat → Bool) : Bool :=
  let s := placed w
  let s1 := s.actAs 0 0
  decide (s.agenda = [] ∧ s.fw.recovery = false ∧ s.mgmt.busy = false ∧ s.events = [] ∧ s.turns = [0] ∧ s1.me.mode = .user ∧ s1.me.eventDue = false
    ∧ s1.me.regErr = []) && okAnd (s1.fetchWord s1.me.pc) (fun r => decide (r.2.me.pendStat = 0 ∧ r.2.xfers = []) && P r.2 r.1)
def nextOk (o : Out) : Bool := match o with
  | .next _ => true
  | _ => false
theorem witness_StepRunsTheDecodedWord : (issues 0x0010610280000000 (fun s w => decide (w / 2 ^ 62 % 4 ≠ 2) && reads w 0 (.one (.add 3 4 5) 8) && nextOk (exec (.add 3 4 5) s))
    && issues 0x408C800040424008 (fun s w => reads w 0 (.pair ⟨0x01, 3, 4, 0⟩ ⟨0x40, 8, 9, 8⟩) && nextOk (execPair ⟨0x01, 3, 4, 0⟩ ⟨0x40, 8, 9, 8⟩ s))
    && issues (0x8470E00000000003 + 0xF000000000000001 * 2 ^ 64) (fun s w => decide (w / 2 ^ 62 % 4 = 2) && okAnd (s.fetchWord (s.me.pc + 8)) (fun r =>
        reads w r.1 (.one (.lix 7 0xF000000000000001) 16) && decide (r.2.me.pendStat = 0 ∧ r.2.xfers = []) && nextOk (exec (.lix 7 0xF000000000000001) r.2)))
    && issues 0x0010610280400000 (fun _ w => refusedWord w 0 (.badField false)) && issues 0x6021200440634008 (fun _ w => refusedWord w 0 (.pairconf 4))
    && issues 0x3FF0000000000000 (fun _ w => refusedWord w 0 (.unassigned false))) = true := by decide +kernel
/-- An event is due; and, while the context is being saved, three things are possible, of which the free choice names one. -/
theorem witness_StepRunsTheDecodedWord_due : (let s0 := placed 0x0010610280000000
    let s := s0.setStrand 0 0 { s0.strand 0 0 with pendThermal := true, slkctl := 2 }
    let t := s0.setPart 0 { s0.part 0 with preempting := true }
    let a := s.actAs 0 0
    decide (s.agenda = [] ∧ s.events = [] ∧ s.turns = [0] ∧ s.strandOn 0 = true ∧ a.me.mode = .user ∧ a.me.eventDue = true ∧ a.me.regErr = [])
      && okAnd (a.fetchWord a.me.pc) (fun r => reads r.1 0 (.one (.add 3 4 5) 8) && after (.add 3 4 5) r.2 (fun v => !a.faulted (.next v)))
      && nextOk (exec (.eventTaken 0 0) s)
      && decide (t.agenda = [] ∧ t.events = [.preemptionComplete 0] ∧ t.turns = [0] ∧ t.strandOn 0 = false) && t.parts.any (fun p => p.2.preempting)) = true := by decide +kernel
/-- A request whose DOORBELL was written; something due; and a vector instruction that may execute in part, since a store may be performed meanwhile. -/
theorem witness_StepRunsTheDecodedWord_part : (let s0 := placed 0x3208A28000180400
    let s := s0.setStrand 0 0 { s0.strand 0 0 with stores := [⟨[(0x90000, 5)], .whole, none⟩] }
    let a := s.actAs 0 0
    let b : State := { a with cur := { a.cur with limit := some 0 } }
    decide (({ m0 with mgmt := { m0.mgmt with busy := true } } : State).mgmt.busy = true ∧ m0.mgmt.s2pending = none ∧ ({ m0 with agenda := [.spanBoundary] } : State).stoppedBy .spanBoundary = [])
      && decide (s.agenda = [] ∧ s.events.length = 1 ∧ s.turns = [0] ∧ s.partTurns = [0] ∧ a.me.regErr = [])
      && okAnd (b.fetchWord b.me.pc) (fun r => decide (r.2.me.pendStat = 0 ∧ r.2.xfers = []) && reads r.1 0 (.one (.vld (vmem 5 10 (.s 0) 1 1)) 8) && nextOk (exec (.vld (vmem 5 10 (.s 0) 1 1)) r.2))) = true := by
  decide +kernel
theorem witness_StepRunsTheDecodedWord_choice (s : State) : Config.choice s.freeCtr % 3 = 0 ∨ Config.choice s.freeCtr % 3 = 1 ∨ Config.choice s.freeCtr % 3 = 2 := by omega
theorem witness_StepRunsTheDecodedWord_advice : (let s := State.reset.withFetchWord 32 0x10400001
    let s1 := s.actAdvice 0 0
    decide (s.agenda = [] ∧ s.fw.recovery = false ∧ s.mgmt.busy = false ∧ s.events = [] ∧ s.turns = [8192])
      && (s1.poisoned (pkgAddr (Config.prickPlace s1.adv.bound) + 4 * s1.adv.apc) 4).isNone && (Map.get? s1.pricks s1.adv.bound).any (fun p => decide (p.code[s1.adv.apc]? = some 0x10400001)) && advice 0x10400001 (.aaddi 1 0 1)
      && nextOk (exec (.aaddi 1 0 1) s1)) = true := by decide +kernel
theorem witness_OnlyARecoveryEndpointStops : (let s : State := { m0 with fw := { m0.fw with recovery := true } }
    decide (m0.fw.recovery = false ∧ s.fw.recovery = true ∧ s.agenda = [] ∧ ({ s with agenda := [.spanBoundary] } : State).agenda = [.spanBoundary]
      ∧ Instr.spanBoundary ≠ .coldReset ∧ ({ s with agenda := [.warmReset] } : State).agenda = [.warmReset])) = true := by decide +kernel
theorem witness_EveryStepKeepsCanonicalForm : (nextOk (step (placed 0x0010610280000000)) && Memory.wf m0.mem && Map.sorted m0.strands) = true := by decide +kernel
theorem witness_StepRunsTheDecodedWord_other : (let s : State := on (fun x => { x with run := .idle, stores := [⟨[(0x80000, 5)], .whole, none⟩] })
    decide (State.reset.agenda = [] ∧ State.reset.fw.recovery = false ∧ State.reset.mgmt.busy = false ∧ State.reset.events.length + State.reset.turns.length = 0)
      && decide (s.agenda = [] ∧ s.fw.recovery = false ∧ s.mgmt.busy = false ∧ s.events = [.storePerform 0 0 0] ∧ s.turns = [])) = true := by decide +kernel

/-! ## The loader -/

/-- An HGI header without tables, FRA 1,024 and FRB 2 (R329, R333). -/
def header : List Byte := leBytes 4 0x00494748 ++ leBytes 2 1 ++ leBytes 2 0 ++ leBytes 4 1 ++ [6, 9] ++ leBytes 2 0 ++ leBytes 8 1024 ++ leBytes 8 2
  ++ List.replicate 144 0
/-- A pricking of one code word and one index entry (R364). -/
def pricking (id : Nat) : List Byte := leBytes 4 0x00414748 ++ leBytes 2 1 ++ leBytes 2 0 ++ leBytes 8 (2 ^ 64 - 1) ++ List.replicate 64 7 ++ leBytes 4 1 ++ leBytes 4 2
  ++ leBytes 8 144 ++ leBytes 8 128 ++ List.replicate 24 0 ++ leBytes 8 5 ++ leBytes 8 id ++ leBytes 4 0x10400001

/-- R333: the manual's worked example. -/
theorem test_resolvedSizes : (decide (hgiFrame header 2 = 4096) && decide (stackTop 0x1400000 4096 2 5 = 0x13FF000) && hgiHeadOk header
    && hgiHeadOk (header.set 14 1) = false
    && decide (loadCheck (header.set 12 8) [] VF.reset 2 0x1400000 (fun _ => 0) = 3) && decide (loadCheck header [] VF.reset 2 0x1FFF (fun _ => 0) = 5)) = true := by decide +kernel
/-- R364, R365: index ids rise strictly; a hash that differs is reason 3, a cleared ADV is reason 1. -/
theorem test_prickingChecks : (prickOk (pricking 6) && prickOk (pricking 5) = false && decide (prickReason (pricking 6) (List.replicate 64 7) VF.reset = 0)
    && decide (prickReason (pricking 6) (List.replicate 64 8) VF.reset = 3) && decide (prickReason (pricking 6) [] { VF.reset with mask0 := 0x7FFF } = 1)
    && decide (((State.reset.bindPricking 4 0 (pricking 6) (List.replicate 64 7)).pricks) = [(4, ⟨[0x10400001], [(5, 0), (6, 0)]⟩)])) = true := by decide +kernel

end Sys2Proof.Tests
end

section
/-!
PROOFS. Integer instructions (R168–R171): quotients and remainders, shifts, comparisons and selection, counts of bits and bit
fields, and the words that the decoder reads as such.
-/
namespace Sys2Proof.Machine

/-- As gives_writeNext, with the value said in another way. -/
theorem gives_of_value {i : Instr} {s : State} {d : SReg} {v w : Word} {n : Nat} (h : exec i s = writeNext d v n s) (hv : v = w) :
    Gives i s (SetsS d w n s) := hv ▸ gives_writeNext h

/-! ## Quotients and remainders (R169) -/

theorem iDiv_zero (x : Word) : iDiv x 0 = BitVec.allOnes 64 := if_pos rfl
theorem iRem_zero (x : Word) : iRem x 0 = x := if_pos rfl
theorem iDivn_zero (x : Word) : iDivn x 0 = BitVec.allOnes 64 := if_pos rfl
theorem iRemn_zero (x : Word) : iRemn x 0 = x := if_pos rfl

theorem iDiv_of_ne {y : Word} (x : Word) (hy : y ≠ 0) : iDiv x y = BitVec.ofInt 64 (x.toInt.tdiv y.toInt) := if_neg hy
theorem iRem_of_ne {y : Word} (x : Word) (hy : y ≠ 0) : iRem x y = BitVec.ofInt 64 (x.toInt.tmod y.toInt) := if_neg hy
theorem iDivn_of_ne {y : Word} (x : Word) (hy : y ≠ 0) : iDivn x y = BitVec.ofNat 64 (x.toNat / y.toNat) := if_neg hy
theorem iRemn_of_ne {y : Word} (x : Word) (hy : y ≠ 0) : iRemn x y = BitVec.ofNat 64 (x.toNat % y.toNat) := if_neg hy

/-- −2^63 / −1 wraps to −2^63 and leaves no remainder. -/
theorem iDiv_overflow : iDiv (BitVec.intMin 64) (BitVec.allOnes 64) = BitVec.intMin 64 := by decide
theorem iRem_overflow : iRem (BitVec.intMin 64) (BitVec.allOnes 64) = 0 := by decide

/-- Away from b = 0, the wrapped quotient is the library's division of words. -/
theorem iDiv_eq_sdiv {x y : Word} (hy : y ≠ 0) : iDiv x y = x.sdiv y := by
  apply BitVec.eq_of_toInt_eq
  rw [iDiv_of_ne x hy, BitVec.toInt_ofInt, BitVec.toInt_sdiv]

theorem toInt_iDiv {x y : Word} (hy : y ≠ 0) (h : ¬(x = BitVec.intMin 64 ∧ y = BitVec.allOnes 64)) :
    (iDiv x y).toInt = x.toInt.tdiv y.toInt := by
  have hne : x ≠ BitVec.intMin 64 ∨ y ≠ BitVec.allOnes 64 := Decidable.not_and_iff_not_or_not.1 h
  rw [iDiv_eq_sdiv hy]
  exact BitVec.toInt_sdiv_of_ne_or_ne x y hne

theorem iRem_eq_sub {x y : Word} (hy : y ≠ 0) : iRem x y = x - y * iDiv x y := by
  apply BitVec.eq_sub_iff_add_eq.2
  calc iRem x y + y * iDiv x y
      = BitVec.ofInt 64 (x.toInt.tmod y.toInt) + BitVec.ofInt 64 y.toInt * BitVec.ofInt 64 (x.toInt.tdiv y.toInt) := by
        rw [iRem_of_ne x hy, iDiv_of_ne x hy, BitVec.ofInt_toInt]
    _ = BitVec.ofInt 64 (x.toInt.tmod y.toInt + y.toInt * x.toInt.tdiv y.toInt) := by rw [BitVec.ofInt_add, BitVec.ofInt_mul]
    _ = x := by rw [Int.tmod_add_mul_tdiv, BitVec.ofInt_toInt]

theorem toNat_iDivn {x y : Word} (hy : y ≠ 0) : (iDivn x y).toNat = x.toNat / y.toNat := by
  have hlt : x.toNat / y.toNat < 2 ^ 64 := Nat.lt_of_le_of_lt (Nat.div_le_self _ _) x.isLt
  rw [iDivn_of_ne x hy, BitVec.toNat_ofNat, Nat.mod_eq_of_lt hlt]

theorem iRemn_eq_sub {x y : Word} (hy : y ≠ 0) : iRemn x y = x - y * iDivn x y := by
  apply BitVec.eq_sub_iff_add_eq.2
  calc iRemn x y + y * iDivn x y
      = BitVec.ofNat 64 (x.toNat % y.toNat) + BitVec.ofNat 64 y.toNat * BitVec.ofNat 64 (x.toNat / y.toNat) := by
        rw [iRemn_of_ne x hy, iDivn_of_ne x hy, BitVec.ofNat_toNat 64, BitVec.setWidth_eq]
    _ = BitVec.ofNat 64 (x.toNat % y.toNat + y.toNat * (x.toNat / y.toNat)) := by rw [BitVec.ofNat_add, BitVec.ofNat_mul]
    _ = x := by rw [Nat.mod_add_div, BitVec.ofNat_toNat, BitVec.setWidth_eq]

/-- Settles O2: by zero and at the signed overflow the results are those of R169; elsewhere the signed quotient is the library's
division of words, and each remainder is what the quotient leaves. -/
theorem integerDivision : Obligations.IntegerDivision := by
  intro s d a b
  refine ⟨⟨iDiv (s.rS a) (s.rS b), iRem (s.rS a) (s.rS b), gives_writeNext rfl, gives_writeNext rfl, ?zero, ?overflow, ?plain⟩,
    ⟨iDivn (s.rS a) (s.rS b), iRemn (s.rS a) (s.rS b), gives_writeNext rfl, gives_writeNext rfl, ?zeroN, ?plainN⟩⟩
  case zero => intro hy; rw [hy]; exact ⟨iDiv_zero _, iRem_zero _⟩
  case overflow => rintro ⟨hx, hy⟩; rw [hx, hy]; exact ⟨iDiv_overflow, iRem_overflow⟩
  case plain => rintro ⟨hy, h⟩; exact ⟨toInt_iDiv hy h, iRem_eq_sub hy⟩
  case zeroN => intro hy; rw [hy]; exact ⟨iDivn_zero _, iRemn_zero _⟩
  case plainN => intro hy; exact ⟨toNat_iDivn hy, iRemn_eq_sub hy⟩

/-! ## Shifts, whose count is b[5:0] (R168) -/

theorem toNat_iShl (x y : Word) : (iShl x y).toNat = x.toNat * 2 ^ (y.toNat % 64) % 2 ^ 64 := by
  simp [iShl, Nat.shiftLeft_eq]

theorem toNat_iShr (x y : Word) : (iShr x y).toNat = x.toNat / 2 ^ (y.toNat % 64) := by
  simp [iShr, Nat.shiftRight_eq_div_pow]

theorem toInt_iSra (x y : Word) : (iSra x y).toInt = x.toInt / 2 ^ (y.toNat % 64) := by
  simp [iSra, BitVec.toInt_sshiftRight, Int.shiftRight_eq_div_pow]

/-- A bit moves up by the count, and past bit 63 it comes in again at bit 0. -/
theorem getLsbD_iRol (x y : Word) {i : Nat} (hi : i < 64) :
    (iRol x y).getLsbD ((i + y.toNat % 64) % 64) = x.getLsbD i := by
  have hn : y.toNat % 64 < 64 := Nat.mod_lt _ (by decide)
  generalize hk : y.toNat % 64 = n at hn
  simp only [iRol, hk, BitVec.getLsbD_rotateLeft, Nat.mod_eq_of_lt hn]
  obtain hs | hw : i + n < 64 ∨ 64 ≤ i + n := by omega
  · have hin : (i + n) % 64 = i + n := Nat.mod_eq_of_lt hs
    have hb : ¬i + n < n := by omega
    simp only [hin, hb, hs, decide_false, decide_true, cond_false, Bool.true_and, Nat.add_sub_cancel]
  · have hin : (i + n) % 64 = i + n - 64 := by omega
    have hb : i + n - 64 < n := by omega
    have hi : 64 - n + (i + n - 64) = i := by omega
    simp only [hin, hb, hi, decide_true, cond_true]

/-! ## Smaller and larger, comparisons (R168) -/

/-- Words that read as equal are equal. -/
theorem toInt_le_iff (x y : Word) : x.toInt ≤ y.toInt ↔ x.toInt < y.toInt ∨ x = y := by
  rw [← BitVec.toInt_inj]
  omega
theorem toNat_le_iff (x y : Word) : x.toNat ≤ y.toNat ↔ x.toNat < y.toNat ∨ x = y := by
  rw [← BitVec.toNat_inj]
  omega

/-- Between equal words it does not matter which of the two is selected. -/
theorem ite_or_eq {p q : Prop} [Decidable p] [Decidable q] {x y : Word} (h : p ↔ q ∨ x = y) :
    (if p then x else y) = if q then x else y := by
  by_cases hq : q
  · rw [if_pos hq, if_pos (h.2 (.inl hq))]
  · by_cases hxy : x = y
    · rw [hxy, ite_self, ite_self]
    · rw [if_neg hq, if_neg (fun hp => (h.1 hp).elim hq hxy)]

theorem iMin_eq (x y : Word) : iMin x y = if x.toInt < y.toInt then x else y := ite_or_eq (toInt_le_iff x y)
theorem iMinn_eq (x y : Word) : iMinn x y = if x.toNat < y.toNat then x else y := ite_or_eq (toNat_le_iff x y)
theorem iMax_eq (x y : Word) : iMax x y = if x.toInt < y.toInt then y else x :=
  ite_or_eq ((toInt_le_iff x y).trans (or_congr_right eq_comm))
theorem iMaxn_eq (x y : Word) : iMaxn x y = if x.toNat < y.toNat then y else x :=
  ite_or_eq ((toNat_le_iff x y).trans (or_congr_right eq_comm))

theorem boolWord_decide (p : Prop) [Decidable p] : boolWord (decide p) = if p then 1 else 0 := by simp [boolWord]

theorem iSeq_eq (x y : Word) : iSeq x y = if x = y then 1 else 0 := by simp [iSeq, boolWord]
theorem iSne_eq (x y : Word) : iSne x y = if x ≠ y then 1 else 0 := by simp [iSne, boolWord]

/-! ## Full words and their fields (Table 6.2) -/

/-- The fields of a word that uses no others than OP, D, A, B and FN. -/
def regFields (op d a b fn : Nat) : Fields := { F0 op with d := d, a := a, b := b, fn := fn }

/-- A word put together from such fields is cut into them again. -/
theorem unpack_regFields {op d a b fn : Nat} (hop : op < 2 ^ 10) (hd : d < 2 ^ 7) (ha : a < 2 ^ 7) (hb : b < 2 ^ 7) (hfn : fn < 2 ^ 22) :
    Fields.unpack (op * 2 ^ 52 + d * 2 ^ 45 + a * 2 ^ 38 + b * 2 ^ 31 + fn) = regFields op d a b fn := by
  simp only [Fields.unpack, regFields, F0, bits, Fields.mk.injEq]
  omega

theorem kind_regFields {op d a b fn : Nat} (hop : op < 2 ^ 10) (hd : d < 2 ^ 7) (ha : a < 2 ^ 7) (hb : b < 2 ^ 7) (hfn : fn < 2 ^ 22) :
    bits (op * 2 ^ 52 + d * 2 ^ 45 + a * 2 ^ 38 + b * 2 ^ 31 + fn) 63 62 = 0 := by
  simp only [bits]
  omega

/-- Of a full word the decoder answers what accept makes of its fields. -/
theorem decode_full {w : Nat} (next : Nat) (h : bits w 63 62 = 0) : decode w next = decodeFull w := by
  simp [decode, h]

theorem accept_ok {half : Bool} {e : Enc} {i : Instr} (he : encode i = e) (hw : i.wf = true) : accept half e (some i) = .ok i := by
  simp [accept, he, hw]

/-- An instruction that is not well formed is a bad field, however it encodes. -/
theorem accept_not_wf {half : Bool} {e : Enc} {i : Instr} (hw : i.wf = false) : accept half e (some i) = .error (.badField half) := by
  simp [accept, hw]

theorem specifier_lt (r : SReg) : r.val < 2 ^ 7 := Nat.lt_trans r.isLt (by decide)

/-- The word of the fields that i encodes to, and that build reads as i, decodes to i. -/
theorem decode_regFields {op b fn : Nat} {d a : SReg} {i : Instr} (next : Nat) (hop : op < 2 ^ 10) (hlt : b < 2 ^ 7) (hfn : fn < 2 ^ 22)
    (hb : build (regFields op d.val a.val b fn) none = some i) (he : encode i = .full (regFields op d.val a.val b fn))
    (hw : i.wf = true) :
    decode (op * 2 ^ 52 + d.val * 2 ^ 45 + a.val * 2 ^ 38 + b * 2 ^ 31 + fn) next = .ok (.one i 8) := by
  rw [decode_full _ (kind_regFields hop (specifier_lt d) (specifier_lt a) hlt hfn), decodeFull,
    unpack_regFields hop (specifier_lt d) (specifier_lt a) hlt hfn]
  simp only [hb, accept_ok he hw]

@[simp] theorem fin_val {n : Nat} [NeZero n] (k : Fin n) : fin n k.val = k := by simp [fin]
@[simp] theorem sR_val (r : SReg) : sR r.val = r := fin_val r

theorem fld_lea_sh (sh : Fin 16) (disp : Nat) : fld (disp * 2 ^ 4 + sh.val) 3 0 = sh.val := by
  simp only [fld, bits]; omega
theorem fld_lea_disp (sh : Fin 16) (disp : BitVec 18) : fld (disp.toNat * 2 ^ 4 + sh.val) 21 4 = disp.toNat := by
  simp only [fld, bits]; omega

/-- LEA holds sh in FN[3:0] and disp in FN[21:4] (R170). -/
theorem decode_lea (d a b : SReg) (sh : Fin 16) (disp : BitVec 18) (next : Nat) :
    decode (0x01E * 2 ^ 52 + d.val * 2 ^ 45 + a.val * 2 ^ 38 + b.val * 2 ^ 31 + disp.toNat * 2 ^ 4 + sh.val) next
      = .ok (.one (.lea d a b sh disp) 8) := by
  rw [Nat.add_assoc _ (disp.toNat * 2 ^ 4)]
  apply decode_regFields next (by decide) (specifier_lt b) (by omega)
  case hb =>
    show some (Instr.lea (sR d.val) (sR a.val) (sR b.val) (fin 16 (fld (disp.toNat * 2 ^ 4 + sh.val) 3 0))
      (.ofNat 18 (fld (disp.toNat * 2 ^ 4 + sh.val) 21 4))) = _
    rw [fld_lea_sh, fld_lea_disp]
    simp
  case he =>
    have hfn : packL [(4, sh.val), (18, disp.toNat)] = disp.toNat * 2 ^ 4 + sh.val := by simp only [packL]; omega
    simp only [encode, regFields, hfn]
  case hw => rfl

/-- Settles O3: each form writes its function of the operands; for smaller and larger and for the comparisons the model's spelling
of that function is brought into the statement's, and LEA's word is put together from its fields. -/
theorem logicShiftsComparisons : Obligations.LogicShiftsComparisons := by
  refine ⟨fun s d a b => ⟨?and, ?or, ?xor, ?andn, ?orn, ⟨_, ?shl, toNat_iShl _ _⟩, ⟨_, ?shr, toNat_iShr _ _⟩, ⟨_, ?sra, toInt_iSra _ _⟩,
      ⟨_, ?rol, fun i hi => getLsbD_iRol _ _ hi⟩⟩,
    fun s d a b sh disp => ⟨gives_of_value rfl (iMin_eq _ _), gives_of_value rfl (iMax_eq _ _), gives_of_value rfl (iMinn_eq _ _),
      gives_of_value rfl (iMaxn_eq _ _), gives_of_value rfl (iSeq_eq _ _), gives_of_value rfl (iSne_eq _ _),
      gives_of_value rfl (boolWord_decide _), gives_of_value rfl (boolWord_decide _), gives_of_value rfl (boolWord_decide _),
      gives_of_value rfl (boolWord_decide _), gives_writeNext rfl, gives_writeNext rfl, decode_lea d a b sh disp⟩⟩
  all_goals exact gives_writeNext rfl

/-! ## Counts of bits, and their reversal (Table 7.2) -/

theorem getLsbD_ofNat_of_lt {w i : Nat} (v : Nat) (hi : i < w) : (BitVec.ofNat w v).getLsbD i = v.testBit i := by
  rw [BitVec.getLsbD_ofNat, decide_eq_true hi, Bool.true_and]

/-- Above the highest set bit, which log2 names, every bit is 0. -/
theorem iClz_spec (x : Word) : ∃ n ≤ 64, iClz x = BitVec.ofNat 64 n
    ∧ (∀ i < n, x.getLsbD (63 - i) = false) ∧ (n < 64 → x.getLsbD (63 - n) = true) := by
  by_cases h0 : x.toNat = 0
  · refine ⟨64, Nat.le_refl _, by simp [iClz, h0], fun i _ => ?_, by simp⟩
    rw [← BitVec.testBit_toNat, h0, Nat.zero_testBit]
  · have hlog : Nat.log2 x.toNat < 64 := (Nat.log2_lt h0).2 x.isLt
    refine ⟨63 - Nat.log2 x.toNat, by omega, by simp [iClz, h0], fun i hi => ?_, fun _ => ?_⟩
    · rw [← BitVec.testBit_toNat]
      exact Nat.testBit_lt_two_pow ((Nat.log2_lt h0).1 (by omega))
    · have hback : 63 - (63 - Nat.log2 x.toNat) = Nat.log2 x.toNat := by omega
      rw [← BitVec.testBit_toNat, hback, Nat.testBit_log2 h0]

theorem ctzLoop_le (n v : Nat) : ctzLoop n v ≤ n := by
  induction n generalizing v with
  | zero => exact Nat.le_refl _
  | succ n ih =>
    have := ih (v / 2)
    unfold ctzLoop
    split <;> omega

/-- The bits that the loop counts are 0. -/
theorem testBit_lt_ctzLoop {n v i : Nat} (h : i < ctzLoop n v) : v.testBit i = false := by
  induction n generalizing v i with
  | zero => exact absurd h (Nat.not_lt_zero i)
  | succ n ih =>
    unfold ctzLoop at h
    split at h
    · exact absurd h (Nat.not_lt_zero i)
    next hodd =>
      cases i with
      | zero => simpa [Nat.testBit_zero] using hodd
      | succ i => rw [Nat.testBit_succ]; exact ih (by omega)

/-- The bit at which the loop ends is 1, unless it ends because all n bits were looked at. -/
theorem testBit_ctzLoop {n v : Nat} (h : ctzLoop n v < n) : v.testBit (ctzLoop n v) = true := by
  induction n generalizing v with
  | zero => exact absurd h (Nat.not_lt_zero _)
  | succ n ih =>
    unfold ctzLoop at h ⊢
    split
    next hodd => simpa [Nat.testBit_zero] using hodd
    next heven =>
      rw [if_neg heven] at h
      rw [Nat.add_comm 1, Nat.testBit_succ]
      exact ih (by omega)

/-- The loop counts the positions below n whose bit is 1. -/
theorem popLoop_eq (n v : Nat) : popLoop n v = ((List.range n).filter (fun i => v.testBit i)).length := by
  induction n generalizing v with
  | zero => rfl
  | succ n ih =>
    have hrest : (((List.range n).map Nat.succ).filter (fun i => v.testBit i)).length = popLoop n (v / 2) := by
      rw [ih, List.filter_map, List.length_map]
      simp only [Function.comp_def, Nat.testBit_succ]
    rw [List.range_succ_eq_map, List.filter_cons, popLoop, ← hrest]
    obtain h | h := Nat.mod_two_eq_zero_or_one v
    · simp [Nat.testBit_zero, h]
    · simp [Nat.testBit_zero, h, Nat.add_comm]

/-- The low n bits of v end in reverse order below the bits of acc. -/
theorem testBit_revLoop (n v acc j : Nat) :
    (revLoop n v acc).testBit j = if j < n then v.testBit (n - 1 - j) else acc.testBit (j - n) := by
  induction n generalizing v acc j with
  | zero => simp [revLoop]
  | succ n ih =>
    rw [revLoop, ih]
    obtain hj | rfl | hj := Nat.lt_trichotomy j n
    · have hs : n + 1 - 1 - j = (n - 1 - j) + 1 := by omega
      rw [if_pos hj, if_pos (by omega), hs, Nat.testBit_succ]
    · simp [Nat.testBit_zero]
    · have hs : j - n = (j - (n + 1)) + 1 := by omega
      have hhalf : (2 * acc + v % 2) / 2 = acc := by omega
      rw [if_neg (by omega), if_neg (by omega), hs, Nat.testBit_succ, hhalf]

theorem getLsbD_iBrev (x : Word) {i : Nat} (hi : i < 64) : (iBrev x).getLsbD (63 - i) = x.getLsbD i := by
  have hlt : 63 - i < 64 := by omega
  have hback : 64 - 1 - (63 - i) = i := by omega
  rw [iBrev, getLsbD_ofNat_of_lt _ hlt, testBit_revLoop, if_pos hlt, hback, BitVec.testBit_toNat]

/-! ## Bit fields (R171) -/

/-- The reading of a pattern as two's complement is the library's. -/
theorem sintOf_eq_toInt {n : Nat} (hn : 0 < n) (v : Nat) : sintOf n v = (BitVec.ofNat n v).toInt := by
  obtain ⟨m, rfl⟩ : ∃ m, n = m + 1 := ⟨n - 1, by omega⟩
  have hpow : 2 ^ (m + 1) = 2 * 2 ^ m := by rw [Nat.pow_succ, Nat.mul_comm]
  have hiff : 2 * (v % 2 ^ (m + 1)) < 2 ^ (m + 1) ↔ v % 2 ^ (m + 1) < 2 ^ m := by omega
  simp only [sintOf, BitVec.toInt_eq_toNat_cond, BitVec.toNat_ofNat, Nat.add_sub_cancel, hiff]

/-- Bit i of the field of len bits at pos. -/
theorem testBit_field (v pos len i : Nat) :
    (v / 2 ^ pos % 2 ^ len).testBit i = (decide (i < len) && v.testBit (pos + i)) := by
  rw [Nat.testBit_mod_two_pow, Nat.testBit_div_two_pow, Nat.add_comm i]

theorem getLsbD_iBfx_unsigned (pos len : Nat) (x : Word) {i : Nat} (hi : i < 64) :
    (iBfx false pos len x).getLsbD i = if i < len then x.getLsbD (pos + i) else false := by
  show (BitVec.ofNat 64 (x.toNat / 2 ^ pos % 2 ^ len)).getLsbD i = _
  rw [getLsbD_ofNat_of_lt _ hi, testBit_field, BitVec.testBit_toNat]
  by_cases h : i < len <;> simp [h]

/-- Past the field, its highest bit is repeated. -/
theorem getLsbD_iBfx_signed {pos len : Nat} (hlen : 0 < len) (x : Word) {i : Nat} (hi : i < 64) :
    (iBfx true pos len x).getLsbD i = if i < len then x.getLsbD (pos + i) else x.getLsbD (pos + len - 1) := by
  have hv : iBfx true pos len x = (BitVec.ofNat len (x.toNat / 2 ^ pos % 2 ^ len)).signExtend 64 := by
    simp only [iBfx, if_true, wrap64, sintOf_eq_toInt hlen, BitVec.signExtend]
  have hbit (j : Nat) (hj : j < len) : (BitVec.ofNat len (x.toNat / 2 ^ pos % 2 ^ len)).getLsbD j = x.getLsbD (pos + j) := by
    rw [getLsbD_ofNat_of_lt _ hj, testBit_field, decide_eq_true hj, Bool.true_and, BitVec.testBit_toNat]
  have htop : pos + (len - 1) = pos + len - 1 := by omega
  rw [hv, BitVec.getLsbD_signExtend, BitVec.msb_eq_getLsbD_last, hbit (len - 1) (by omega), htop, decide_eq_true hi, Bool.true_and]
  split
  next h => exact hbit i h
  next => rfl

/-- A number is its part below bit lo, its bits [hi:lo], and its part above bit hi. -/
theorem putBits_parts {v hi lo : Nat} (x : Nat) (h : lo ≤ hi) :
    putBits v hi lo x = 2 ^ lo * (2 ^ (hi + 1 - lo) * (v / 2 ^ (hi + 1)) + x % 2 ^ (hi + 1 - lo)) + v % 2 ^ lo := by
  have hsum : v = 2 ^ lo * (2 ^ (hi + 1 - lo) * (v / 2 ^ (hi + 1)) + bits v hi lo) + v % 2 ^ lo := by
    have hdiv : v / 2 ^ (hi + 1) = v / 2 ^ lo / 2 ^ (hi + 1 - lo) := by
      rw [Nat.div_div_eq_div_mul, ← Nat.pow_add, Nat.add_sub_cancel' (by omega)]
    rw [hdiv, bits, Nat.div_add_mod, Nat.div_add_mod]
  rw [Nat.mul_add] at hsum ⊢
  have hb := Nat.mul_comm (bits v hi lo) (2 ^ lo)
  have hx := Nat.mul_comm (x % 2 ^ (hi + 1 - lo)) (2 ^ lo)
  unfold putBits
  omega

theorem testBit_putBits (v : Nat) {hi lo : Nat} (x i : Nat) (h : lo ≤ hi) :
    (putBits v hi lo x).testBit i = if lo ≤ i ∧ i ≤ hi then x.testBit (i - lo) else v.testBit i := by
  rw [putBits_parts x h, Nat.testBit_two_pow_mul_add _ (Nat.mod_lt _ (Nat.two_pow_pos _)),
    Nat.testBit_two_pow_mul_add _ (Nat.mod_lt _ (Nat.two_pow_pos _))]
  obtain hlow | hmid | hhigh : i < lo ∨ (lo ≤ i ∧ i ≤ hi) ∨ hi < i := by omega
  · rw [if_pos hlow, if_neg (by omega), Nat.testBit_mod_two_pow]
    simp [hlow]
  · have hw : i - lo < hi + 1 - lo := by omega
    rw [if_neg (by omega), if_pos hw, if_pos hmid, Nat.testBit_mod_two_pow]
    simp [hw]
  · have hback : i - lo - (hi + 1 - lo) + (hi + 1) = i := by omega
    rw [if_neg (by omega), if_neg (by omega), if_neg (by omega), Nat.testBit_div_two_pow, hback]

theorem getLsbD_iBfi {pos len : Nat} (hlen : 0 < len) (d x : Word) {i : Nat} (hi : i < 64) :
    (iBfi pos len d x).getLsbD i = if pos ≤ i ∧ i < pos + len then x.getLsbD (i - pos) else d.getLsbD i := by
  rw [iBfi, getLsbD_ofNat_of_lt _ hi, testBit_putBits _ _ _ (by omega)]
  by_cases h : pos ≤ i ∧ i < pos + len
  · have hw : i - pos < len := by omega
    rw [if_pos h, if_pos (by omega), Nat.testBit_mod_two_pow, decide_eq_true hw, Bool.true_and, BitVec.testBit_toNat]
  · rw [if_neg h, if_neg (by omega), BitVec.testBit_toNat]

/-! ## The words of the bit instructions -/

/-- A word without B is one with B = 0. -/
theorem decode_regFields_noB {op fn : Nat} {d a : SReg} {i : Instr} (next : Nat) (hop : op < 2 ^ 10) (hfn : fn < 2 ^ 22)
    (hb : build (regFields op d.val a.val 0 fn) none = some i) (he : encode i = .full (regFields op d.val a.val 0 fn))
    (hw : i.wf = true) :
    decode (op * 2 ^ 52 + d.val * 2 ^ 45 + a.val * 2 ^ 38 + fn) next = .ok (.one i 8) := by
  have hB : op * 2 ^ 52 + d.val * 2 ^ 45 + a.val * 2 ^ 38 + fn
      = op * 2 ^ 52 + d.val * 2 ^ 45 + a.val * 2 ^ 38 + 0 * 2 ^ 31 + fn := by omega
  rw [hB]
  exact decode_regFields next hop (by decide) hfn hb he hw

/-- FN of BFX and BFI: lenM1 in [5:0], pos in [11:6], S in [12] (R171). -/
def fieldFn (s : Bool) (pos lenM1 : Fin 64) : Nat := b2n s * 2 ^ 12 + (pos.val * 2 ^ 6 + lenM1.val)

theorem fieldFn_false (pos lenM1 : Fin 64) : fieldFn false pos lenM1 = pos.val * 2 ^ 6 + lenM1.val := by simp [fieldFn, b2n]
theorem fieldFn_true (pos lenM1 : Fin 64) : fieldFn true pos lenM1 = 2 ^ 12 + (pos.val * 2 ^ 6 + lenM1.val) := by simp [fieldFn, b2n]

theorem b2n_lt (s : Bool) : b2n s < 2 := by cases s <;> decide

theorem fieldFn_lt (s : Bool) (pos lenM1 : Fin 64) : fieldFn s pos lenM1 < 2 ^ 22 := by
  have := b2n_lt s
  simp only [fieldFn]
  omega

theorem fld_fieldFn_lenM1 (s : Bool) (pos lenM1 : Fin 64) : fld (fieldFn s pos lenM1) 5 0 = lenM1.val := by
  simp only [fieldFn, fld, bits]
  omega

theorem fld_fieldFn_pos (s : Bool) (pos lenM1 : Fin 64) : fld (fieldFn s pos lenM1) 11 6 = pos.val := by
  simp only [fieldFn, fld, bits]
  omega

theorem bit_fieldFn (s : Bool) (pos lenM1 : Fin 64) : bit (fieldFn s pos lenM1) 12 = s := by
  cases s
  · simp only [fieldFn_false, bit, decide_eq_false_iff_not]
    omega
  · simp only [fieldFn_true, bit, decide_eq_true_iff]
    omega

theorem packL_field (s : Bool) (pos lenM1 : Fin 64) :
    packL [(6, lenM1.val), (6, pos.val), (1, b2n s)] = fieldFn s pos lenM1 := by
  have := b2n_lt s
  simp only [packL, fieldFn]
  omega

theorem packL_field_noS (pos lenM1 : Fin 64) : packL [(6, lenM1.val), (6, pos.val)] = fieldFn false pos lenM1 := by
  simp only [packL, fieldFn_false]
  omega

theorem decode_bfx (d a : SReg) (s : Bool) {pos lenM1 : Fin 64} (next : Nat) (h : pos.val + (lenM1.val + 1) ≤ 64) :
    decode (0x024 * 2 ^ 52 + d.val * 2 ^ 45 + a.val * 2 ^ 38 + fieldFn s pos lenM1) next = .ok (.one (.bfx d a s pos lenM1) 8) := by
  apply decode_regFields_noB next (by decide) (fieldFn_lt s pos lenM1)
  case hb =>
    show some (Instr.bfx (sR d.val) (sR a.val) (bit (fieldFn s pos lenM1) 12) (fin 64 (fld (fieldFn s pos lenM1) 11 6))
      (fin 64 (fld (fieldFn s pos lenM1) 5 0))) = _
    rw [bit_fieldFn, fld_fieldFn_pos, fld_fieldFn_lenM1]
    simp
  case he => simp only [encode, encRR, regFields, F0, packL_field]
  case hw => exact decide_eq_true h

theorem decode_bfi (d a : SReg) {pos lenM1 : Fin 64} (next : Nat) (h : pos.val + (lenM1.val + 1) ≤ 64) :
    decode (0x025 * 2 ^ 52 + d.val * 2 ^ 45 + a.val * 2 ^ 38 + fieldFn false pos lenM1) next = .ok (.one (.bfi d a pos lenM1) 8) := by
  apply decode_regFields_noB next (by decide) (fieldFn_lt false pos lenM1)
  case hb =>
    show some (Instr.bfi (sR d.val) (sR a.val) (fin 64 (fld (fieldFn false pos lenM1) 11 6))
      (fin 64 (fld (fieldFn false pos lenM1) 5 0))) = _
    rw [fld_fieldFn_pos, fld_fieldFn_lenM1]
    simp
  case he => simp only [encode, encRR, regFields, F0, packL_field_noS]
  case hw => exact decide_eq_true h

/-! ## A word that decodes to nothing -/

/-- A full word is refused whose fields name an instruction that is not well formed. -/
theorem decode_not_wf {w : Nat} {i : Instr} (next : Nat) (hk : bits w 63 62 = 0) (hb : build (Fields.unpack w) none = some i)
    (hw : i.wf = false) : decode w next = .error (.badField false) := by
  simp only [decode_full next hk, decodeFull, hb, accept_not_wf hw]

/-- BFX and BFI with a field that ends past bit 63 are a bad field (R171). -/
theorem decode_field_past_end {w : Nat} (next : Nat) (hk : bits w 63 62 = 0) (hop : bits w 61 52 = 0x024 ∨ bits w 61 52 = 0x025)
    (h : 64 < bits w 11 6 + (bits w 5 0 + 1)) : decode w next = .error (.badField false) := by
  have hpos : fld (bits w 21 0) 11 6 % 64 = bits w 11 6 := by simp only [fld, bits]; omega
  have hlen : fld (bits w 21 0) 5 0 % 64 = bits w 5 0 := by simp only [fld, bits]; omega
  have hlong : ¬((fin 64 (fld (bits w 21 0) 11 6)).val + (fin 64 (fld (bits w 21 0) 5 0)).val + 1 ≤ 64) := by
    simp only [fin, Fin.val_ofNat, hpos, hlen]
    omega
  obtain hop | hop := hop
  · refine decode_not_wf (i := .bfx (sR (bits w 51 45)) (sR (bits w 44 38)) (bit (bits w 21 0) 12) (fin 64 (fld (bits w 21 0) 11 6))
      (fin 64 (fld (bits w 21 0) 5 0))) next hk ?_ (decide_eq_false hlong)
    simp [build, buildInt, Fields.unpack, hop]
  · refine decode_not_wf (i := .bfi (sR (bits w 51 45)) (sR (bits w 44 38)) (fin 64 (fld (bits w 21 0) 11 6))
      (fin 64 (fld (bits w 21 0) 5 0))) next hk ?_ (decide_eq_false hlong)
    simp [build, buildInt, Fields.unpack, hop]

/-- Outside a pre-emption, ILLEGAL at the instruction is taken as a trap there (Table 20.1). -/
theorem takeStop_illegal {s : State} (word : Word) (h : s.cur.limit = none) :
    s.takeStop (.trap cILLEGAL 0 word) = s.takeTrap cILLEGAL s.me.pc 0 word false := by
  simp [State.takeStop, State.countStop, h, cILLEGAL, cRACE, cUNCORR, cSVC]

/-- A full word with a bad field raises ILLEGAL at its pc, and INFO is the word. -/
theorem runAt_badField {s : State} {w : Nat} (hk : bits w 63 62 = 0) (hd : decode w 0 = .error (.badField false))
    (h : s.cur.limit = none) :
    s.runAt w = .next (({ s with cur := { s.cur with word := BitVec.ofNat 64 w, half := false } } : State).takeTrap cILLEGAL s.me.pc 0
      (BitVec.ofNat 64 w) false) := by
  have hext : bits w 63 62 ≠ 2 := by omega
  simp only [State.runAt, hext, if_false, hd]
  show Host.Outcome.next (State.takeStop { s with cur := { s.cur with word := BitVec.ofNat 64 w, half := false } }
    (.trap cILLEGAL 0 (BitVec.ofNat 64 w))) = _
  rw [takeStop_illegal]
  · rfl
  · exact h

/-- Settles O4: each loop of the model is read bit by bit, and so are the fields; a field past bit 63 is refused by the decoder. -/
theorem bitCountsAndFields : Obligations.BitCountsAndFields := by
  refine ⟨fun s d a => ⟨?clz, ?ctz, ?popc, ?brev⟩, fun s d a pos lenM1 _ => ⟨?bfx, ?bfxSigned, ?bfi⟩, ?illegal, ?words⟩
  case clz =>
    obtain ⟨n, hn, hv, hzero, hone⟩ := iClz_spec (s.rS a)
    exact ⟨n, hn, gives_of_value rfl hv, hzero, hone⟩
  case ctz =>
    refine ⟨ctzLoop 64 (s.rS a).toNat, ctzLoop_le _ _, gives_writeNext rfl, fun i hi => ?_, fun hi => ?_⟩
    · rw [← BitVec.testBit_toNat, testBit_lt_ctzLoop hi]
    · rw [← BitVec.testBit_toNat, testBit_ctzLoop hi]
  case popc => exact gives_of_value rfl (by simp only [iPopc, popLoop_eq, BitVec.testBit_toNat])
  case brev => exact ⟨_, gives_writeNext rfl, fun i hi => getLsbD_iBrev _ hi⟩
  case bfx => exact ⟨_, gives_writeNext rfl, fun i hi => getLsbD_iBfx_unsigned _ _ _ hi⟩
  case bfxSigned => exact ⟨_, gives_writeNext rfl, fun i hi => getLsbD_iBfx_signed (Nat.succ_pos _) _ hi⟩
  case bfi => exact ⟨_, gives_writeNext rfl, fun i hi => getLsbD_iBfi (Nat.succ_pos _) _ _ hi⟩
  case illegal =>
    intro s w hk hop hlen hlimit
    exact runAt_badField hk (decode_field_past_end 0 hk hop hlen) hlimit
  case words =>
    intro d a pos lenM1 next
    refine ⟨?clz, ?ctz, ?popc, ?brev, fun h => ⟨?bfx, ?bfxSigned, ?bfi⟩⟩
    case clz | ctz | popc | brev =>
      exact decode_regFields_noB next (by decide) (by decide) (by simp [build, buildInt, regFields, F0]) rfl rfl
    case bfx => exact fieldFn_false pos lenM1 ▸ decode_bfx d a false next h
    case bfxSigned => exact fieldFn_true pos lenM1 ▸ decode_bfx d a true next h
    case bfi => exact fieldFn_false pos lenM1 ▸ decode_bfi d a next h

end Sys2Proof.Machine
end

section
/-!
PROOFS. TSHAPE (R251): the shape that it grants, what it leaves of the state, and the word that the decoder reads as TSHAPE.
-/
namespace Sys2Proof.Machine

/-! ## The granted shape -/

/-- TSHP for a granted shape: K in [47:16], N in [15:8], M in [7:0]; 0 where M or N is. -/
def shapeWord (m n k : Nat) : Word :=
  if m = 0 ∨ n = 0 then 0 else BitVec.ofNat 64 (k % 2 ^ 32 * 2 ^ 16 + n * 2 ^ 8 + m)

/-- The rows, columns and steps that TSHAPE grants of a request. -/
def State.grantM (s : State) (a : SReg) (ar : Fin 4) : Nat := min ((s.rS a).toNat % 256) (8 * s.g / 2 ^ ar.val)
def State.grantN (s : State) (a : SReg) (ar : Fin 4) : Nat := min ((s.rS a).toNat / 256 % 256) (64 / 2 ^ ar.val)
def State.grantK (s : State) (a b : SReg) (fmt : Fin 64) (ar : Fin 4) : Nat :=
  min (s.rS b).toNat (s.groupCap fmt.val ar.val / max (s.grantM a ar) (s.grantN a ar))

/-- What TSHAPE puts into TSHP. -/
def State.granted (s : State) (a b : SReg) (fmt : Fin 64) (ar : Fin 4) : Word :=
  shapeWord (s.grantM a ar) (s.grantN a ar) (s.grantK a b fmt ar)

theorem State.grantM_lt (s : State) (a : SReg) (ar : Fin 4) : s.grantM a ar < 256 :=
  Nat.lt_of_le_of_lt (Nat.min_le_left _ _) (Nat.mod_lt _ (by decide))
theorem State.grantN_lt (s : State) (a : SReg) (ar : Fin 4) : s.grantN a ar < 256 :=
  Nat.lt_of_le_of_lt (Nat.min_le_left _ _) (Nat.mod_lt _ (by decide))

theorem shapeWord_of_empty {m n : Nat} (k : Nat) (h : m = 0 ∨ n = 0) : shapeWord m n k = 0 := if_pos h

theorem toNat_shapeWord {m n : Nat} (k : Nat) (hm : m < 256) (hn : n < 256) (h : ¬(m = 0 ∨ n = 0)) :
    (shapeWord m n k).toNat = k % 2 ^ 32 * 2 ^ 16 + n * 2 ^ 8 + m := by
  rw [shapeWord, if_neg h, BitVec.toNat_ofNat]
  omega

/-- The bits above TSHP.K are 0. -/
theorem shapeWord_high {m n : Nat} (k : Nat) (hm : m < 256) (hn : n < 256) : (shapeWord m n k).toNat / 2 ^ 48 = 0 := by
  by_cases h : m = 0 ∨ n = 0
  · rw [shapeWord_of_empty k h]
    rfl
  · rw [toNat_shapeWord k hm hn h]
    omega

/-- The fields of TSHP are the granted sizes. -/
theorem shapeWord_fields {m n k : Nat} (hm : m < 256) (hn : n < 256) (hm0 : m ≠ 0) (hn0 : n ≠ 0) (hk : k < 2 ^ 32) :
    tshpM (shapeWord m n k) = m ∧ tshpN (shapeWord m n k) = n ∧ tshpK (shapeWord m n k) = k := by
  have hw := toNat_shapeWord k hm hn (not_or.2 ⟨hm0, hn0⟩)
  simp only [tshpM, tshpN, tshpK, bits, hw]
  omega

/-! ## What TSHAPE does -/

/-- TSHAPE puts the granted shape into TSHP and then writes it to s_d. -/
theorem exec_tshape (s : State) (d a b : SReg) (fmt : Fin 64) (ar : Fin 4) :
    exec (.tshape d a b fmt ar) s = writeNext d (s.granted a b fmt ar) 8 (s.setMe { s.me with tshp := s.granted a b fmt ar }) := by
  have hM : bits (s.rS a).toNat 7 0 = (s.rS a).toNat % 256 := by simp [bits]
  show execTshape d a b fmt ar s = _
  simp only [execTshape, hM]
  rfl

/-- After TSHP := w, a write of w to s_d leaves every other register, and of the strand else only pc and VSX move. -/
theorem setsS_setTshp {s t : State} {d : SReg} {w : Word} (h : SetsS d w 8 (s.setMe { s.me with tshp := w }) t) :
    t.me.tshp = w ∧ OnlyMe s t ∧ t.rS d = (if d.val = 0 then 0 else t.me.tshp) ∧ (∀ r, r ≠ d → t.rS r = s.rS r)
      ∧ t.me = { s.me with s := t.me.s, tshp := t.me.tshp, pc := s.me.pc + 8, vsx := 0 } := by
  obtain ⟨⟨hpc, hvsx⟩, hd, ⟨hstrand, hregs⟩, hstate, hbytes⟩ := h
  rw [State.me_setMe] at hpc hstrand hregs
  rw [State.setMe_setMe] at hstate
  rw [hpc, hvsx] at hstrand
  have hw : t.me.tshp = w := congrArg Strand.tshp hstrand
  rw [hw]
  exact ⟨rfl, ⟨hstate, hbytes⟩, hd, hregs, hstrand⟩

/-- TSHAPE completes in every state: TSHP and s_d hold the word of the granted shape. -/
theorem gives_tshape (s : State) (d a b : SReg) (fmt : Fin 64) (ar : Fin 4) :
    Gives (.tshape d a b fmt ar) s (fun t => t.me.tshp = s.granted a b fmt ar ∧ OnlyMe s t
      ∧ t.rS d = (if d.val = 0 then 0 else t.me.tshp) ∧ (∀ r, r ≠ d → t.rS r = s.rS r)
      ∧ t.me = { s.me with s := t.me.s, tshp := t.me.tshp, pc := s.me.pc + 8, vsx := 0 }) :=
  ⟨_, exec_tshape s d a b fmt ar, setsS_setTshp (setsS_writeNext d _ 8 _)⟩

/-! ## The word of TSHAPE -/

theorem packL_tshape (fmt : Fin 64) (ar : Fin 4) : packL [(14, 0), (2, ar.val), (6, fmt.val)] = fmt.val * 2 ^ 16 + ar.val * 2 ^ 14 := by
  simp only [packL]
  omega

theorem fld_tshape_fmt (fmt : Fin 64) (ar : Fin 4) : fld (fmt.val * 2 ^ 16 + ar.val * 2 ^ 14) 21 16 = fmt.val := by
  simp only [fld, bits]
  omega
theorem fld_tshape_ar (fmt : Fin 64) (ar : Fin 4) : fld (fmt.val * 2 ^ 16 + ar.val * 2 ^ 14) 15 14 = ar.val := by
  simp only [fld, bits]
  omega

/-- The codes of Table 9.3 are the listed ones and FMT0–FMT15. -/
theorem matCode_iff (n : Nat) : Sys2Proof.matCode n = true ↔ n ∈ [1, 2, 3, 10, 11, 14, 15] ∨ 16 ≤ n ∧ n < 32 := by
  rw [Sys2Proof.matCode, Bool.or_eq_true, List.contains_iff_mem, isNarCode, decide_eq_true_iff, Nat.lt_succ_iff]

/-- TSHAPE holds FMT in FN[21:16] and AR in FN[15:14]. -/
theorem decode_tshape (d a b : SReg) {fmt : Fin 64} (ar : Fin 4) (next : Nat) (h : Sys2Proof.matCode fmt.val = true) :
    decode (0x381 * 2 ^ 52 + d.val * 2 ^ 45 + a.val * 2 ^ 38 + b.val * 2 ^ 31 + fmt.val * 2 ^ 16 + ar.val * 2 ^ 14) next
      = .ok (.one (.tshape d a b fmt ar) 8) := by
  rw [Nat.add_assoc _ (fmt.val * 2 ^ 16)]
  apply decode_regFields next (by decide) (specifier_lt b) (by omega)
  case hb =>
    show some (Instr.tshape (sR d.val) (sR a.val) (sR b.val) (fin 64 (fld (fmt.val * 2 ^ 16 + ar.val * 2 ^ 14) 21 16))
      (fin 4 (fld (fmt.val * 2 ^ 16 + ar.val * 2 ^ 14) 15 14))) = _
    rw [fld_tshape_fmt, fld_tshape_ar]
    simp
  case he => simp only [encode, regFields, packL_tshape]
  case hw => exact h

/-- Settles O38: TSHAPE writes the word of the granted shape to TSHP and s_d; its fields are read back below their widths, which the
request's own fields bound, and its word is put together from its fields. -/
theorem tileShapesAreGranted : Obligations.TileShapesAreGranted := by
  intro s d a b fmt ar
  have hm := s.grantM_lt a ar
  have hn := s.grantN_lt a ar
  obtain ⟨t, hexec, hword, honly, hd, hregs, hme⟩ := gives_tshape s d a b fmt ar
  refine ⟨⟨t, hexec, honly, hd, hregs, hme, ?empty, ?high, ?fields⟩,
    fun hfmt next => decode_tshape d a b ar next ((matCode_iff _).2 hfmt)⟩
  case empty => exact fun h0 => hword.trans (shapeWord_of_empty _ h0)
  case high => exact hword ▸ shapeWord_high _ hm hn
  case fields => exact fun hm0 hn0 hk => hword ▸ shapeWord_fields hm hn hm0 hn0 hk

end Sys2Proof.Machine
end
